-- ==== Sys2Proof/Syntax.lean ====
section
/-! DEFINITION. The instruction set as a datatype: one constructor per row of the opcode table, instructions (03 R81) first and
machine events, the steps that no program word starts (95), after them. An instruction holds the fields its own encoding
table uses, uninterpreted; an event holds its stimulus. -/

namespace Sys2Proof

/-- Word-0 destination: register number D and the NW bit (R63, R64). -/
structure Dst where
  r : BitVec 7
  nw : Bool
  deriving DecidableEq, Repr

/-- An 8-bit operand select (R65). -/
abbrev Sel := BitVec 8

/-- The storage that an error report names (R411). -/
inductive Storage where
  | hbm | l2 | l1 | tlb | regScratch | typedBuffer | other
  deriving DecidableEq, Repr

/-- Where an uncorrectable error was found: the operands of R411's error-log words. -/
structure ErrorSite where
  storage : Storage
  die : Nat
  addr : BitVec 64
  core : Nat
  bank : Nat
  isScratch : Bool
  offset : Nat
  deriving DecidableEq, Repr

/-- The header of a fabric packet (R433): `reserved` says that a must-be-0 field is not 0. -/
structure PacketHead where
  reserved : Bool
  kind : Nat
  aop : Nat
  bytes : Nat
  len : Nat
  host : Bool
  src : BitVec 19
  dst : BitVec 19
  tag : BitVec 16
  addr : BitVec 64
  deriving DecidableEq, Repr

/-- The instructions and events of the Iryen D4, in the order of the opcode table. -/
inductive Instr where
  /-- NOP (R91). -/
  | nop
  /-- MOV (R89). -/
  | mov (d : Dst) (a : Sel)
  /-- ADD (R89). -/
  | add (d : Dst) (a b : Sel)
  /-- SUB (R89). -/
  | sub (d : Dst) (a b : Sel)
  /-- MULLO (R89). -/
  | mullo (d : Dst) (a b : Sel)
  /-- MULHI (R89). -/
  | mulhi (d : Dst) (a b : Sel)
  /-- MULHIU (R89). -/
  | mulhiu (d : Dst) (a b : Sel)
  /-- AND (R89). -/
  | and (d : Dst) (a b : Sel)
  /-- OR (R89). -/
  | or (d : Dst) (a b : Sel)
  /-- XOR (R89). -/
  | xor (d : Dst) (a b : Sel)
  /-- ANDN (R89). -/
  | andn (d : Dst) (a b : Sel)
  /-- SHL (R90). -/
  | shl (d : Dst) (a b : Sel)
  /-- SHR (R90). -/
  | shr (d : Dst) (a b : Sel)
  /-- SAR (R90). -/
  | sar (d : Dst) (a b : Sel)
  /-- ROL (R90). -/
  | rol (d : Dst) (a b : Sel)
  /-- MIN (R89). -/
  | min (d : Dst) (a b : Sel)
  /-- MAX (R89). -/
  | max (d : Dst) (a b : Sel)
  /-- MINU (R89). -/
  | minu (d : Dst) (a b : Sel)
  /-- MAXU (R89). -/
  | maxu (d : Dst) (a b : Sel)
  /-- SLT (R89). -/
  | slt (d : Dst) (a b : Sel)
  /-- SLTU (R89). -/
  | sltu (d : Dst) (a b : Sel)
  /-- SEQ (R89). -/
  | seq (d : Dst) (a b : Sel)
  /-- ABSD (R89). -/
  | absd (d : Dst) (a b : Sel)
  /-- CLZ (R95). -/
  | clz (d : Dst) (a : Sel)
  /-- FFS (R95). -/
  | ffs (d : Dst) (a : Sel)
  /-- POPC (R95). -/
  | popc (d : Dst) (a : Sel)
  /-- BREV (R89). -/
  | brev (d : Dst) (a : Sel)
  /-- ADDI (R89). -/
  | addi (d : Dst) (a : Sel) (imm : BitVec 8)
  /-- SHLI (R89). -/
  | shli (d : Dst) (a : Sel) (imm : BitVec 8)
  /-- SHRI (R89). -/
  | shri (d : Dst) (a : Sel) (imm : BitVec 8)
  /-- SARI (R89). -/
  | sari (d : Dst) (a : Sel) (imm : BitVec 8)
  /-- ANDI (R89). -/
  | andi (d : Dst) (a : Sel) (imm : BitVec 8)
  /-- LEA (R99). -/
  | lea (d : Dst) (a b : Sel)
  /-- RQADD (R105). -/
  | rqadd (d : Dst) (a b : Sel)
  /-- RQSUB (R105). -/
  | rqsub (d : Dst) (a b : Sel)
  /-- RQMUL (R105). -/
  | rqmul (d : Dst) (a b : Sel)
  /-- RQDEC (R106). -/
  | rqdec (d : Dst) (a : Sel)
  /-- FADD (R111). -/
  | fadd (d : Dst) (a b : Sel)
  /-- FSUB (R111). -/
  | fsub (d : Dst) (a b : Sel)
  /-- FMUL (R111). -/
  | fmul (d : Dst) (a b : Sel)
  /-- FMIN (R112). -/
  | fmin (d : Dst) (a b : Sel)
  /-- FMAX (R112). -/
  | fmax (d : Dst) (a b : Sel)
  /-- FSLT (R113). -/
  | fslt (d : Dst) (a b : Sel)
  /-- FSLE (R113). -/
  | fsle (d : Dst) (a b : Sel)
  /-- FSEQ (R113). -/
  | fseq (d : Dst) (a b : Sel)
  /-- FSUN (R113). -/
  | fsun (d : Dst) (a b : Sel)
  /-- FNEG (R114). -/
  | fneg (d : Dst) (a : Sel)
  /-- FABS (R114). -/
  | fabs (d : Dst) (a : Sel)
  /-- FCLASS (R114). -/
  | fclass (d : Dst) (a : Sel)
  /-- FRCP (R121). -/
  | frcp (d : Dst) (a : Sel)
  /-- FRSQ (R121). -/
  | frsq (d : Dst) (a : Sel)
  /-- FEX2 (R121). -/
  | fex2 (d : Dst) (a : Sel)
  /-- FLG2 (R121). -/
  | flg2 (d : Dst) (a : Sel)
  /-- FSIN (R121). -/
  | fsin (d : Dst) (a : Sel)
  /-- FCOS (R121). -/
  | fcos (d : Dst) (a : Sel)
  /-- HADD2 (R118). -/
  | hadd2 (d : Dst) (a b : Sel)
  /-- HMUL2 (R118). -/
  | hmul2 (d : Dst) (a b : Sel)
  /-- FLAGS (R124). -/
  | flags (d : Dst) (sc : BitVec 8)
  /-- FLGCLR (R125). -/
  | flgclr (mask : BitVec 8)
  /-- MOVI (R92). -/
  | movi (d : Dst) (imm : BitVec 32)
  /-- MAD (R98). -/
  | mad (d : Dst) (a b c : Sel) (w : BitVec 2) (u : Bool)
  /-- SEL (R97). -/
  | sel (d : Dst) (a b c : Sel)
  /-- BFE (R96). -/
  | bfe (d : Dst) (a : Sel) (sx : Bool) (lenm1 pos : BitVec 5)
  /-- BFI (R96). -/
  | bfi (d : Dst) (a b : Sel) (lenm1 pos : BitVec 5)
  /-- LEAX (R100). -/
  | leax (d : Dst) (a b : Sel) (ix : BitVec 2) (sh : BitVec 4) (imm : BitVec 12)
  /-- CLZW (R94). -/
  | clzw (d : Dst) (a : Sel) (w : BitVec 2)
  /-- FFSW (R94). -/
  | ffsw (d : Dst) (a : Sel) (w : BitVec 2)
  /-- POPCW (R94). -/
  | popcw (d : Dst) (a : Sel) (w : BitVec 2)
  /-- PADD (R101). -/
  | padd (d : Dst) (a b : Sel) (w : BitVec 2)
  /-- PSUB (R101). -/
  | psub (d : Dst) (a b : Sel) (w : BitVec 2)
  /-- PADDS (R102). -/
  | padds (d : Dst) (a b : Sel) (w ovf : BitVec 2) (u : Bool)
  /-- PSUBS (R102). -/
  | psubs (d : Dst) (a b : Sel) (w ovf : BitVec 2) (u : Bool)
  /-- PMIN (R101). -/
  | pmin (d : Dst) (a b : Sel) (w : BitVec 2) (u : Bool)
  /-- PMAX (R101). -/
  | pmax (d : Dst) (a b : Sel) (w : BitVec 2) (u : Bool)
  /-- PMUL (R101). -/
  | pmul (d : Dst) (a b : Sel) (w : BitVec 2) (hi u : Bool)
  /-- PDOT4 (R103). -/
  | pdot4 (d : Dst) (a b c : Sel) (w : BitVec 2) (ub ua : Bool)
  /-- RQMAD (R105). -/
  | rqmad (d : Dst) (a b c : Sel)
  /-- RQENC (R107). -/
  | rqenc (d : Dst) (a : Sel) (ovf : BitVec 2)
  /-- CVTI (R104). -/
  | cvti (d : Dst) (a : Sel) (dt st : BitVec 4) (ovf : BitVec 2)
  /-- IALUI (R93). -/
  | ialui (d : Dst) (a : Sel) (base : BitVec 8) (imm : BitVec 32)
  /-- FALUI (R115). -/
  | falui (d : Dst) (a : Sel) (base : BitVec 8) (imm : BitVec 32)
  /-- FOPR (R115). -/
  | fopr (d : Dst) (a b c : Sel) (rm : BitVec 3) (ovf : BitVec 2)
  /-- FFMA (R116). -/
  | ffma (d : Dst) (a b c : Sel) (rm : BitVec 3) (ovf : BitVec 2)
  /-- FRND (R119). -/
  | frnd (d : Dst) (a : Sel) (rm : BitVec 3) (w : BitVec 2)
  /-- FCVT (R119). -/
  | fcvt (d : Dst) (a : Sel) (dt st : BitVec 4) (rm : BitVec 3) (ovf : BitVec 2) (hi : Bool)
  /-- FTOI (R39). -/
  | ftoi (d : Dst) (a : Sel) (dt st : BitVec 4) (rm : BitVec 3) (ovf : BitVec 2) (hi : Bool)
  /-- ITOF (R119). -/
  | itof (d : Dst) (a : Sel) (dt st : BitVec 4) (rm : BitVec 3) (ovf : BitVec 2)
  /-- FDIV (R120). -/
  | fdiv (d : Dst) (a b : Sel) (rm : BitVec 3) (w ovf : BitVec 2)
  /-- FSQRT (R120). -/
  | fsqrt (d : Dst) (a : Sel) (rm : BitVec 3) (w ovf : BitVec 2)
  /-- DADD (R117). -/
  | dadd (d : Dst) (a b : Sel) (rm : BitVec 3) (ovf : BitVec 2)
  /-- DSUB (R117). -/
  | dsub (d : Dst) (a b : Sel) (rm : BitVec 3) (ovf : BitVec 2)
  /-- DMUL (R117). -/
  | dmul (d : Dst) (a b : Sel) (rm : BitVec 3) (ovf : BitVec 2)
  /-- DFMA (R117). -/
  | dfma (d : Dst) (a b c : Sel) (rm : BitVec 3) (ovf : BitVec 2)
  /-- DCMP (R117). -/
  | dcmp (d : Dst) (a b c : Sel)
  /-- HFMA2 (R118). -/
  | hfma2 (d : Dst) (a b c : Sel) (rm : BitVec 3) (ovf : BitVec 2) (fmt : Bool)
  /-- HOPR (R118). -/
  | hopr (d : Dst) (a b c : Sel) (rm : BitVec 3) (ovf : BitVec 2) (fmt : Bool)
  /-- BRX (R133). -/
  | brx (a : Sel)
  /-- CALLX (R133). -/
  | callx (d : Dst) (a : Sel)
  /-- RET (R133). -/
  | ret (a : Sel)
  /-- JSET (R137). -/
  | jset (bar : BitVec 8)
  /-- JWAIT (R137). -/
  | jwait (bar : BitVec 8)
  /-- JDROP (R137). -/
  | jdrop (bar : BitVec 8)
  /-- YIELD (R140). -/
  | yield
  /-- EXIT (R141). -/
  | exit
  /-- REP (R142). -/
  | rep (cnt : BitVec 6) (st : BitVec 4)
  /-- WAITF (R147). -/
  | waitf (d : Dst) (a : Sel) (chk : Bool)
  /-- TESTF (R148). -/
  | testf (d : Dst) (a : Sel)
  /-- CANCELF (R149). -/
  | cancelf (a : Sel) (rel : Bool)
  /-- MOVF (R150). -/
  | movf (d : Dst) (a : Sel)
  /-- BR (R131). -/
  | br (cond : BitVec 3) (a b : Sel) (disp : BitVec 32)
  /-- CALL (R132). -/
  | call (d : Dst) (disp : BitVec 32)
  /-- BALLOT (R207). -/
  | ballot (d : Dst) (a : Sel)
  /-- ANY (R207). -/
  | any (d : Dst) (a : Sel)
  /-- ALL (R207). -/
  | all (d : Dst) (a : Sel)
  /-- GPOS (R207). -/
  | gpos (d : Dst)
  /-- GSIZE (R207). -/
  | gsize (d : Dst)
  /-- MEMBER (R207). -/
  | member (d : Dst) (a : Sel)
  /-- SHFL (R208). -/
  | shfl (d : Dst) (a b : Sel) (mode : BitVec 2) (seg : BitVec 3)
  /-- REDUX (R209). -/
  | redux (d : Dst) (a : Sel) (ty : BitVec 2) (op : BitVec 4) (rm : BitVec 3) (ovf : BitVec 2)
  /-- LDG (R157). -/
  | ldg (d : Dst) (a : Sel) (off : BitVec 8)
  /-- STG (R157). -/
  | stg (rs : BitVec 7) (a : Sel) (off : BitVec 8)
  /-- LDK (R161). -/
  | ldk (d : Dst) (a : Sel) (off : BitVec 8)
  /-- FENCE (R168). -/
  | fence (ord : BitVec 2) (scope : BitVec 3)
  /-- FLUSH (R169). -/
  | flush (a : Sel) (scope : BitVec 3)
  /-- INVAL (R169). -/
  | inval (a : Sel) (scope : BitVec 3)
  /-- PREF (R169). -/
  | pref (a : Sel) (lv : BitVec 8)
  /-- LDGX (R158). -/
  | ldgx (d : Dst) (a b : Sel) (scl : BitVec 2) (na xs sx : Bool) (w : BitVec 2) (imm : BitVec 12)
  /-- STGX (R158). -/
  | stgx (rs : BitVec 7) (a b : Sel) (scl : BitVec 2) (na xs : Bool) (w : BitVec 2) (imm : BitVec 12)
  /-- ATOM (R162). -/
  | atom (d : Dst) (a b : Sel) (op : BitVec 4) (w : BitVec 2) (scope : BitVec 3) (ord : BitVec 2) (imm : BitVec 12)
  /-- CAS (R164). -/
  | cas (d : Dst) (a b c : Sel) (w : BitVec 2) (scope : BitVec 3) (ord : BitVec 2) (imm : BitVec 12)
  /-- LDS (R217). -/
  | lds (d : Dst) (a : Sel) (mode : BitVec 2) (off : BitVec 6)
  /-- STS (R217). -/
  | sts (rs : BitVec 7) (fill : Bool) (a : Sel) (off : BitVec 8)
  /-- FESET (R220). -/
  | feset (clr : Bool) (a b : Sel)
  /-- FETEST (R221). -/
  | fetest (d : Dst) (a : Sel)
  /-- STF (R222). -/
  | stf (rs : BitVec 7) (a : Sel) (off : BitVec 8)
  /-- LDF (R222). -/
  | ldf (d : Dst) (a : Sel) (off : BitVec 8)
  /-- LDT (R227). -/
  | ldt (d : Dst) (a : Sel) (buf : BitVec 2) (xs : Bool) (off : BitVec 5)
  /-- STT (R227). -/
  | stt (rs : BitVec 7) (a : Sel) (buf : BitVec 2) (xs : Bool) (off : BitVec 5)
  /-- QPOP (R366). -/
  | qpop (d : Dst)
  /-- TRAP (R275). -/
  | trap (a : Sel) (code : BitVec 8)
  /-- TRET (R274). -/
  | tret
  /-- SYSRD (R266). -/
  | sysrd (d : Dst) (srn : BitVec 16)
  /-- SYSWR (R266). -/
  | syswr (rs : BitVec 7) (srn : BitVec 16)
  /-- FLOGPOP (R279). -/
  | flogpop (rs : BitVec 7)
  /-- ABORT (R273). -/
  | abort (rs : BitVec 7)
  /-- CLOCK (R277). -/
  | clock (d : Dst) (ctr : BitVec 8)
  /-- BKPT (R276). -/
  | bkpt (code : BitVec 8)
  /-- LDSX (R218). -/
  | ldsx (d : Dst) (a b : Sel) (peer : Bool) (rank : BitVec 4) (mode : BitVec 2) (sx : Bool) (w qw : BitVec 2) (imm : BitVec 12)
  /-- STSX (R218). -/
  | stsx (rs : BitVec 7) (a b : Sel) (peer : Bool) (rank : BitVec 4) (mode w qw : BitVec 2) (imm : BitVec 12)
  /-- ATOMS (R219). -/
  | atoms (d : Dst) (a b c : Sel) (w : BitVec 2) (scope : BitVec 3) (ord : BitVec 2) (op : BitVec 4) (peer : Bool) (rank : BitVec 4)
  /-- COPY (R228). -/
  | copy (d : Dst) (a b c : Sel) (rm : BitVec 3) (w ovf : BitVec 2) (scope : BitVec 3) (mode : BitVec 2) (dsp ssp : BitVec 3) (pfmt : BitVec 2)
  /-- MLOOP (R242). -/
  | mloop (d : Dst) (a b : Sel) (ct : BitVec 8) (ainc winc : BitVec 4) (fmt : BitVec 2) (fin zero : Bool) (steps : BitVec 12)
  /-- MFOLD (R250). -/
  | mfold (d : Dst) (t : BitVec 8)
  /-- CVTDN (R253). -/
  | cvtdn (d : Dst) (a : Sel) (t : BitVec 8) (rm : BitVec 3) (ovf : BitVec 2) (dsp : Bool) (pfmt : BitVec 2)
  /-- MZERO (R250). -/
  | mzero (d : Dst) (t : BitVec 8) (km1 : BitVec 4)
  /-- GATHER (R302). -/
  | gather (d : Dst) (a b c : Sel) (w : BitVec 2) (scope : BitVec 3) (sx : Bool) (base : BitVec 7)
  /-- SCATTER (R304). -/
  | scatter (d : Dst) (a b c : Sel) (w : BitVec 2) (scope : BitVec 3) (sx : Bool) (base : BitVec 7)
  /-- SCADD (R305). -/
  | scadd (d : Dst) (a b c : Sel) (w : BitVec 2) (scope : BitVec 3) (ops : BitVec 2) (ft sx : Bool) (base : BitVec 7)
  /-- STAND (R313). -/
  | stand (d : Dst) (a b : Sel) (imm : BitVec 12)
  /-- UNSTAND (R314). -/
  | unstand (d : Dst) (b : Sel) (imm : BitVec 12)
  /-- SUBSTAT (R315). -/
  | substat (d : Dst) (b : Sel) (clr : BitVec 8) (imm : BitVec 12)
  /-- LEASE (R335). -/
  | lease (d : Dst) (kind : BitVec 8) (pri : BitVec 2)
  /-- UNLEASE (R336). -/
  | unlease (d : Dst) (a : Sel)
  /-- MRG (R340). -/
  | mrg (d : Dst) (a b : Sel) (op : BitVec 8) (w : BitVec 2) (scope : BitVec 3) (imm : BitVec 12)
  /-- LSTAT (R337). -/
  | lstat (d : Dst) (a : Sel)
  /-- NBRGRID (R347). -/
  | nbrgrid (d : Dst) (a b : Sel) (scope : BitVec 3) (imm : BitVec 12)
  /-- NBRBIN (R350). -/
  | nbrbin (d : Dst) (a b : Sel) (scope : BitVec 3) (imm : BitVec 12)
  /-- NBRPAIR (R351). -/
  | nbrpair (d : Dst) (a b : Sel) (scope : BitVec 3) (imm : BitVec 12)
  /-- NBRCHK (R353). -/
  | nbrchk (d : Dst) (a b : Sel) (scope : BitVec 3) (imm : BitVec 12)
  /-- QPUT (R367). -/
  | qput (d : Dst) (a b : Sel) (scope : BitVec 3) (imm : BitVec 12)
  /-- QDONE (R369). -/
  | qdone (d : Dst) (a b : Sel) (scope : BitVec 3)
  /-- TAIL (R370). -/
  | tail (a : Sel) (retain : Bool)
  /-- CLAUSE_START (R60). -/
  | clauseStart (core slot : Nat)
  /-- GROUP_FORMATION (R198). -/
  | groupFormation (core laneset : Nat)
  /-- STALL_DISSOLUTION (R202). -/
  | stallDissolution (core slot : Nat)
  /-- REGISTER_RESULT_LANDS (R17). -/
  | registerResultLands (id : Nat)
  /-- FUTURE_COMPLETION (R144). -/
  | futureCompletion (op : Nat)
  /-- L1_FILL (R211). -/
  | l1Fill (core sector : Nat)
  /-- HOME_WRITE_BACK (R317). -/
  | homeWriteBack (core sector : Nat) (evict : Bool)
  /-- ATOMIC_AT_HOME (R165). -/
  | atomicAtHome (id : Nat)
  /-- HBM_FILL (R403). -/
  | hbmFill (sector : Nat) (victim : Option Nat)
  /-- SCADD_UPDATE (R306). -/
  | scaddUpdate (op pos : Nat)
  /-- PUSH_DELIVERY (R318). -/
  | pushDelivery (sub : Nat)
  /-- TYPED_BUFFER_HANDOVER (R226). -/
  | typedBufferHandover (core ctx : Nat) (buf : Nat)
  /-- MATRIX_OP_BEGIN (R239). -/
  | matrixOpBegin (ctx : Nat)
  /-- MLOOP_STEP_BOUNDARY (R248). -/
  | mloopStepBoundary (ctx : Nat) (handover : Bool)
  /-- TLB_WALK_COMPLETE (R380). -/
  | tlbWalkComplete (die asid : Nat) (va : BitVec 64)
  /-- REPLAY_ALL (R387). -/
  | replayAll (die : Nat)
  /-- REFUSE (R388). -/
  | refuse (die : Nat)
  /-- INV_PAGE (R381). -/
  | invPage (die : Nat)
  /-- INV_ASID (R381). -/
  | invAsid (die : Nat)
  /-- INV_ALL (R381). -/
  | invAll (die : Nat)
  /-- REGISTER_WRITE (R6). -/
  | registerWrite (off : Nat) (wide : Bool) (val : BitVec 64)
  /-- WINDOW_FIELD_WRITE (R402). -/
  | windowFieldWrite (win field : Nat) (val : BitVec 64)
  /-- WINDOW_ENABLE (R402). -/
  | windowEnable (win : Nat) (val : BitVec 32)
  /-- QUEUE_ENABLE (R358). -/
  | queueEnable (q : Nat)
  /-- QUEUE_SLOT_TAKEN (R359). -/
  | queueSlotTaken (q : Nat)
  /-- LAUNCH_BIND (R362). -/
  | launchBind (die : Nat)
  /-- CLUSTER_BIND (R290). -/
  | clusterBind (launch : Nat)
  /-- TASK_DELIVERY (R366). -/
  | taskDelivery (q : Nat)
  /-- TEAM_END (R24). -/
  | teamEnd (ctx tslot : Nat)
  /-- CONTEXT_SWITCH_OUT (R258). -/
  | contextSwitchOut (core : Nat)
  /-- STREAM_OUT_COMPLETE (R259). -/
  | streamOutComplete (ctx : Nat)
  /-- STREAM_IN_COMPLETE (R322). -/
  | streamInComplete (ctx : Nat)
  /-- MIGRATION (R426). -/
  | migration (die island : Nat)
  /-- CROSS_DIE_MIGRATION (R425). -/
  | crossDieMigration (ctx core : Nat)
  /-- CONTROL_INTERVAL (R418). -/
  | controlInterval
  /-- POWER_CONTROL_WRITE (R424). -/
  | powerControlWrite (die off : Nat) (val : BitVec 32)
  /-- LANTERN_LIT (R326). -/
  | lanternLit (die id : Nat)
  /-- SNUFF_END (R326). -/
  | snuffEnd (die id : Nat)
  /-- LANTERN_DARK (R326). -/
  | lanternDark (die id : Nat)
  /-- POWER_GOOD (R406). -/
  | powerGood
  /-- FIRMWARE_VERIFY (R408). -/
  | firmwareVerify
  /-- CORE_RELEASE (R406). -/
  | coreRelease
  /-- RESTART (R406). -/
  | restart
  /-- CORRECTED_ERROR (R411). -/
  | correctedError
  /-- UNCORRECTABLE_ERROR (R412). -/
  | uncorrectableError (err : ErrorSite)
  /-- MGMT_CONTROL_SPACE (R400). -/
  | mgmtControlSpace (p : PacketHead) (wide write : Bool) (v : BitVec 64)
  /-- MGMT_ROUTING_ID (R435). -/
  | mgmtRoutingId (p : PacketHead) (write : Bool) (v : BitVec 32)
  /-- MGMT_BOOT_FLASH (R408). -/
  | mgmtBootFlash (p : PacketHead) (write : Bool) (v : List (BitVec 8))
  /-- ATTESTATION_REQUEST (R409). -/
  | attestationRequest (p : PacketHead) (nonce : Option (BitVec 256))
  /-- FABRIC_READ (R436): `rest` are the bytes that follow the header in its flit, which mean nothing. -/
  | fabricRead (p : PacketHead) (rest : List (BitVec 8))
  /-- READ_RESPONSE (R436). -/
  | readResponse (p : PacketHead) (data : List (BitVec 8))
  /-- FABRIC_WRITE (R436). -/
  | fabricWrite (p : PacketHead) (data : List (BitVec 8))
  /-- WRITE_ACKNOWLEDGEMENT (R436). -/
  | writeAcknowledgement (p : PacketHead)
  /-- FABRIC_ATOMIC (R436): the operands B of its turns and, for CAS, C. -/
  | fabricAtomic (p : PacketHead) (wide : Bool) (bs cs : List (BitVec 64))
  /-- ATOMIC_RESPONSE (R436). -/
  | atomicResponse (p : PacketHead) (olds : List (BitVec 64))
  /-- FABRIC_REJECT (R437). -/
  | fabricReject (p : PacketHead)
  /-- MANAGEMENT_RESPONSE (R439). -/
  | managementResponse (tag : Nat)
  /-- REMOTE_TIMEOUT (R437). -/
  | remoteTimeout (tag : Nat)
  /-- RESERVED_OPCODE (R79). -/
  | reservedOpcode (word : BitVec 32)
  /-- ENGINE_DELIVERY (R190). -/
  | engineDelivery (op : Nat)
  /-- ELEMENT_REQUEST (R304). -/
  | elementRequest (op pos : Nat)
  /-- STREAM_OUT_BEGIN (R257). -/
  | streamOutBegin (ctx : Nat) (image : BitVec 64)
  /-- STREAM_IN_BEGIN (R295). -/
  | streamInBegin (ctx core : Nat)
  deriving DecidableEq, Repr

end Sys2Proof
end

