-- ==== Sys2Proof/Machine/State.lean ====
section
/-! DEFINITION. The state of the package as plain data: everything the spec gives the machine (INVENTORY.md, State), the
reasons a step can stop, and the state after the full start stage. -/

namespace Sys2Proof.Machine

/-- Sparse tables: a list of key and value pairs, keys strictly rising. -/
abbrev Tab (α : Type) := List (Nat × α)

/-- Sparse bytes: addresses strictly rising, no entry equal to what an unlisted address reads as: 0, and in HBM4 what `hbmReset`
gives (log 2). -/
abbrev Mem := List Host.Cell

/-- A 128-byte sector's data, byte k at bits 8k+7..8k, and one bit per byte (00 R2, 07 R154). -/
abbrev SectorData := BitVec 1024
abbrev SectorMask := BitVec 128

/-- A program counter: a clause header address and a word index (03 R56). -/
structure PC where
  h : BitVec 56
  wi : Nat
  deriving DecidableEq, Repr

/-- The class of a clause or an instruction (03 R57, R82). NOP has class `any`. -/
inductive Cls where
  | alu | sfu | xl | mem | eng | ctrl | sys | any
  deriving DecidableEq, Repr

/-- What a register or a latch waits for: a landing by its identifier, or a future by its slot and generation (01 R17,
06 R143). -/
inductive Pend where
  | landing (id : Nat)
  | future (slot : Nat) (gen : BitVec 16)
  deriving DecidableEq, Repr

/-- A thread of a team: context identifier, team slot, TID. -/
structure Key where
  ctx : Nat
  tslot : Nat
  tid : Nat
  deriving DecidableEq, Repr

/-- What a Waiting thread waits on (01 R22, 12 R263). `barrier` holds the PC after its JWAIT and whether its
clause is restartable; `park` the
effective address, the fault kind of 20 R385, and the index of the word that parked. -/
inductive WaitOn where
  | reg (r : Nat)
  | latch (id : Nat)
  | barrier (b : Nat) (after : PC) (restart : Bool)
  | feBit (rank : Option Nat) (granule : Nat)
  | park (ea : BitVec 64) (kind fwi : Nat)
  deriving DecidableEq, Repr

/-- The run state of a thread (01 R22). -/
inductive Run where
  | placed | runnable | issuing | waiting (w : WaitOn) | ended
  deriving DecidableEq, Repr

/-- The state of a thread on a join barrier (06 R136). -/
inductive Bar where
  | none | expected | arrived
  deriving DecidableEq, Repr

/-- A bypass latch: unwritten in this pass of the clause, a value, or waiting for a landing (03 R70, R71). -/
inductive Latch where
  | unwritten | value (w : Word) | pending (id : Nat)
  deriving DecidableEq, Repr

/-- The context registers that instructions obey, as one thread sees them (12 R268). -/
structure CtxRegs where
  fpctl : Word
  matctl : Word
  trapvec : BitVec 64
  trapdlg : Word
  dbgctl : Word
  deriving DecidableEq, Repr

/-- A thread (01): general registers, scoreboard, flags, REPIDX, PC, trap registers (12 R269), barrier states, the latches
of the clause it executes, and the marks of 06 R140 and 12 R276. `atStart` says that its first clause has not begun, so that
its header's JT is still to be checked (03 R62). Until its next clause start it does not see another thread's write to a context
register (12 R268): `view` holds the registers that it obeys; `satOld` the SATCOUNT that it still counts from and the value
written; `nanOld` that MATNANPOS.VALID still reads 1. -/
structure Thread where
  regs : Vector Word 128
  pend : Tab Pend
  counts : Vector Nat 8
  flags : BitVec 6
  repidx : BitVec 6
  pc : PC
  run : Run
  deferred : Bool
  priv : Bool
  estat : Word
  einfo : Word
  epc : BitVec 64
  eaddr : BitVec 64
  esave0 : Word
  esave1 : Word
  ssSkip : Bool
  atStart : Bool
  bars : Vector Bar 16
  latches : Vector Latch 4
  view : CtxRegs
  satOld : Option (Word × Word)
  nanOld : Bool
  deriving DecidableEq, Repr

/-- A fault-log entry (12 R279). -/
structure FlogEntry where
  handle : Word
  word : Word
  tid : Nat
  wi : Nat
  h : BitVec 64
  deriving DecidableEq, Repr

/-- A lease record: lantern id and whether it is held or lost (17 R328). -/
structure LeaseRec where
  id : Nat
  held : Bool
  deriving DecidableEq, Repr

/-- The values a team abort passes to the completion record (12 R273). -/
structure AbortInfo where
  tid : Nat
  team : Nat
  estat : Word
  einfo : Word
  flogstat : Word
  epc : BitVec 64
  eaddr : BitVec 64
  deriving DecidableEq, Repr

/-- A constant space as its binding translated it (20 R374): the pages by virtual page number, the base, the length, the
package's own bytes at binding, and how many sectors the package had noted by then (R161; log 23). -/
structure ConstSpace where
  pages : List (Nat × BitVec 64)
  base : BitVec 64
  len : Nat
  old : Mem
  mark : Nat
  deriving DecidableEq, Repr

/-- A team in its slot of a context (01 R19, R24, 10 R213, R216, 12 R278, 17 R328, 19 R370). -/
structure Team where
  index : Nat
  rank : Nat
  launch : Nat
  cluster : Nat
  shape : BitVec 32
  n : Nat
  scrSize : Nat
  scratch : Mem
  fbits : List Nat
  threads : Tab Thread
  endFlags : BitVec 6
  flog : List FlogEntry
  ovfcnt : Nat
  leases : List LeaseRec
  tail : Option (BitVec 64 × Bool)
  queue : Option Nat
  konst : ConstSpace
  aborted : Bool
  deriving DecidableEq, Repr

/-- A future slot (06 R145); a slot not listed is FREE and never used. -/
inductive FutSt where
  | free | running | done
  deriving DecidableEq, Repr

structure Future where
  st : FutSt
  gen : BitVec 16
  kind : BitVec 4
  tslot : Nat
  retain : Bool
  word : Word
  deriving DecidableEq, Repr

/-- Where a context lives (12 R257). -/
inductive Place where
  | active | hot | streamingOut | saved | streamingIn
  deriving DecidableEq, Repr

/-- The event record of POWER notices (23 R422). -/
structure EventRec where
  coal : Nat
  pendCur : Bool
  pendThm : Bool
  info : Word
  time : BitVec 64
  deriving DecidableEq, Repr

/-- A context's own typed-buffer contents while another context owns the buffers (10 R226). -/
structure TypedImage where
  data : Mem
  exps : Mem
  deriving DecidableEq, Repr

/-- The contents of the three typed buffers (10 R223). -/
structure Buffers where
  a : TypedImage
  w : TypedImage
  c : Mem
  deriving DecidableEq, Repr

/-- A context (12 R256, R267): up to 8 teams of one ASID in one bank. `sync` lists the cores whose writes must be acknowledged
before its next issue (08 R192), `moving` the core and the place that it is on its way to (23 R426), `left` the
interval in which that move began and the place that it left, `gangOut` that its switch-out
has been requested with that of its cluster (14 R295), `joined` says that its core belongs to the snoop domains of its clusters
(14 R292), `pages` the translated pages of its save image, by number (12 R260), `bases` the bases of its teams where its image has
other ones than follow from the order of the slots, by slot (12 R262). -/
structure Ctx where
  asid : Nat
  typed : Bool
  place : Place
  core : Nat
  bank : Nat
  image : BitVec 64
  regs : CtxRegs
  satcount : Word
  matnanpos : Word
  teams : Tab Team
  futures : Tab Future
  matq : List Nat
  event : EventRec
  subCount : Nat
  abuf : Option TypedImage
  wbuf : Option TypedImage
  cbuf : Option TypedImage
  sync : Option (List Nat)
  joined : Bool
  moving : Option (Nat × Place)
  left : Option (Nat × Place)
  gangOut : Bool
  pages : List (Nat × BitVec 64)
  bases : Tab (Nat × Nat × Nat)
  deriving DecidableEq, Repr

/-- A REP in force on a group (03 R78, 06 R142). -/
structure Rep where
  n : Nat
  step : BitVec 4
  deriving DecidableEq, Repr

/-- A group in its slot (09 R198 to R202): members in position order with their columns, the PC it was formed at, the word it
stands at, the header
in force with its YH bit, the dissolve-at-end mark, stalled cycles, the REP in force, and its order of formation. `entered` says
that the start of its clause has begun (12 R268), `passed` that the traps of that start are behind it and only the WAIT bits
remain (03 R60); `began` is the WI with which that clause began. -/
structure Group where
  ctx : Nat
  members : List (Nat × Nat)
  cols : List Nat
  origin : PC
  h : BitVec 56
  wi : Nat
  began : Nat
  entered : Bool
  passed : Bool
  started : Bool
  count : Nat
  cls : Cls
  yh : Bool
  dissolve : Bool
  stalled : Nat
  rep : Option Rep
  order : Nat
  deriving DecidableEq, Repr

/-- How a sector is held in an L1 (10 R212). -/
inductive Hold where
  | clean | writable | owned
  deriving DecidableEq, Repr

/-- The last store that made an L1 sector dirty: its thread, its clause, and the launch of its team (25 R437). -/
structure LastStore where
  key : Key
  h : BitVec 56
  launch : Nat
  deriving DecidableEq, Repr

/-- An L1 sector (07 R154, 10 R211, 25 R437). -/
structure L1Sector where
  data : SectorData
  valid : SectorMask
  dirty : SectorMask
  hold : Hold
  na : Bool
  asid : Nat
  last : Option LastStore
  deriving DecidableEq, Repr

/-- A TLB entry: a whole leaf, tagged with its ASID and the level of its page size (20 R380). -/
structure TlbEntry where
  asid : Nat
  vpage : Nat
  level : Nat
  leaf : BitVec 64
  deriving DecidableEq, Repr

/-- A core (09, 10 R223, 12 R256): groups by slot, run ages by PC, the laneset served last, by laneset the group that it keeps
issuing from (R203), as its order of formation, L1, TLB, fetched code words,
the typed buffers with their owners, and its clock counter. -/
structure Core where
  groups : Tab Group
  ages : List (PC × Nat)
  lastLaneset : Option Nat
  greedy : Tab Nat
  l1 : Tab L1Sector
  tlb : List TlbEntry
  icache : Tab Word
  abuf : Mem
  aexp : Mem
  wbuf : Mem
  wexp : Mem
  cbuf : Mem
  aOwner : Option Nat
  wOwner : Option Nat
  cOwner : Option Nat
  clock : BitVec 64
  deriving DecidableEq, Repr

/-- What a landing delivers: register values, a latch, a count to reduce (01 R17), and flags and clamps (02 R34, R40). -/
structure Landing where
  key : Key
  regs : List (Nat × Word)
  latch : Option Nat
  latchVal : Word
  kind : Option Nat
  flags : BitVec 6
  sat : Nat
  deriving DecidableEq, Repr

/-- A load that missed in L1 and waits for its fill (07 R154, L1_FILL): where its value goes once it is known. -/
structure LoadReq where
  key : Key
  core : Nat
  ea : BitVec 64
  pa : BitVec 64
  width : Nat
  sx : Bool
  dst : Option Nat
  landing : Nat
  na : Bool
  pc : PC
  deriving DecidableEq, Repr

/-- One member's turn at an atomic (07 R167). -/
structure AtomTurn where
  key : Key
  dst : Option Nat
  b : BitVec 64
  c : BitVec 64
  landing : Nat
  deriving DecidableEq, Repr

/-- The atomics of one issue on one address, in ascending group position (07 R165, R167). -/
structure AtomReq where
  core : Nat
  pa : BitVec 64
  width : Nat
  op : Nat
  ord : BitVec 2
  scope : BitVec 3
  pc : PC
  issue : Nat
  asid : Nat
  turns : List AtomTurn
  deriving DecidableEq, Repr

/-- A load waiting for the F bit of its granule, in the order in which waits began (10 R216): `after` and `rep` are the PC and
REPIDX of its thread once it has completed. -/
structure FeWait where
  key : Key
  ctx : Nat
  tslot : Nat
  granule : Nat
  off : Nat
  width : Nat
  sx : Bool
  take : Bool
  dst : Option Nat
  after : PC
  rep : BitVec 6
  deriving DecidableEq, Repr

/-- A QPOP request (19 R366): `got` is the bin and the slot of the entry that has been assigned to it. -/
structure QReq where
  key : Key
  d : Nat
  queue : Nat
  landing : Nat
  core : Nat
  withdrawn : Bool
  got : Option (Nat × Word)
  deriving DecidableEq, Repr

/-- A COPY (10 R228 to R231). `old` are the bytes that it has overwritten in its own source space, by their addresses (R229). -/
structure CopyOp where
  mode : BitVec 2
  dsp : BitVec 3
  ssp : BitVec 3
  w : BitVec 2
  rm : BitVec 3
  ovf : BitVec 2
  pfmt : BitVec 2
  dst : BitVec 64
  src : BitVec 64
  len : Nat
  done : Nat
  out : Nat
  inp : Nat
  sat : Nat
  checked : Bool
  old : List (Nat × BitVec 8)
  deriving DecidableEq, Repr

/-- The three L2 engines (15 R299, R300). `sent` are the positions sent to their homes and not yet performed, with their
physical element address and value; `got` the gathered values by position. -/
inductive L2Kind where
  | gather | scatter | scadd
  deriving DecidableEq, Repr

structure L2Op where
  kind : L2Kind
  width : Nat
  base : BitVec 64
  data : Nat
  idx : Nat
  k : Nat
  sx : Bool
  ops : BitVec 2
  ft : Bool
  checked : Bool
  next : Nat
  sent : List (Nat × BitVec 64 × BitVec 64)
  got : List (Nat × BitVec 64 × BitVec 64)
  delivered : Nat
  stopWord : Option Word
  deriving DecidableEq, Repr

/-- The three standing-load operations (16 R313 to R315). -/
inductive StandKind where
  | stand | unstand | substat
  deriving DecidableEq, Repr

structure StandOp where
  kind : StandKind
  ga : BitVec 64
  slot : Nat
  clr : Bool
  phase : Nat
  deriving DecidableEq, Repr

/-- Lantern commands (17 R338, 18 R344). -/
inductive LanternCmd where
  | mrg (op : BitVec 8) (w64 : Bool)
  | nbrgrid | nbrbin | nbrpair | nbrchk
  deriving DecidableEq, Repr

/-- A lantern command: its lantern, the offset of its descriptor or block, whether it runs, what it has done so far, its
descriptor's words, the grid header's words, the running pair cursor, a pair that waits for the second of its granule, and the keys
that an MRG has overwritten, by their local addresses (R340). -/
structure CmdOp where
  cmd : LanternCmd
  lantern : Nat
  off : Nat
  begun : Bool
  count : Nat
  desc : List Word
  grid : List Word
  cur : Nat
  half : Option (Word × Word)
  old : List (Nat × Nat)
  deriving DecidableEq, Repr

/-- Matrix operations (11): the two words as issued, the resolved operands, the steps committed or rows written (`next`), NANTRAP as
sampled, and the chains held during an MLOOP, row-major. `nan` is one more than the first NaN position of the last step of an
MLOOP, and the NaN outputs so far of a CVTDN. `was` are the buffers at its issue and after each later write of them, `wrote` the bytes of CBUF that each such write has stored to, as
first address and number, and `before` is CBUF as it stood before each of the operation's own plane writes (R255). -/
inductive MatKind where
  | mloop | mfold | mzero | cvtdn
  deriving DecidableEq, Repr

structure MatOp where
  kind : MatKind
  w0 : Word
  w1 : Word
  a : BitVec 64
  b : BitVec 64
  begun : Bool
  next : Nat
  nt : Bool
  even : List Word
  odd : List Word
  sat : Nat
  nan : Nat
  was : List Buffers
  wrote : List (Nat × Nat)
  before : List Mem
  deriving DecidableEq, Repr

/-- The work of an engine operation. `word` is one whose completion word is already known. -/
inductive Work where
  | copy (c : CopyOp)
  | l2 (o : L2Op)
  | stand (o : StandOp)
  | lease (kind : Nat) (pri : Nat)
  | unlease (lantern : Nat) (waits : Option (List Nat))
  | cmd (o : CmdOp)
  | mat (o : MatOp)
  | qdone (va : BitVec 64) (inc : Word) (sent : Bool)
  | known
  deriving DecidableEq, Repr

/-- An engine operation in flight (06 R143 to R145): its issuer, the other threads that a matrix instruction issued it for (11
R238), slot, PC, counting kinds, the level it accesses at, sectors of other devices read for it, and, once it has ended, its completion word, which FUTURE_COMPLETION delivers. -/
structure EngOp where
  key : Key
  also : List Key
  slot : Nat
  gen : BitVec 16
  nw : Bool
  core : Nat
  pc : PC
  scope : BitVec 3
  kinds : List Nat
  canceled : Bool
  result : Option Word
  sat : Nat
  order : Nat
  buffer : Tab SectorData
  sup : Bool
  work : Work
  deriving DecidableEq, Repr

/-- The state of a sector at its home slice (15 R297); an unlisted sector is Invalid. `order` is that of the last update of an
Update-only sector. -/
inductive HomeSt where
  | clean | dirty
  | updateOnly (order : Nat)
  deriving DecidableEq, Repr

/-- A sector at its home: data, window tag with the format it was filled under, sideband and its dirty mark (22 R403), and when it was
last used (15 R297). -/
structure HomeSector where
  data : SectorData
  st : HomeSt
  tag : Option (Nat × BitVec 2)
  side : Word
  sideDirty : Bool
  used : Nat
  deriving DecidableEq, Repr

/-- A subscriber record with its parking fields (16 R311, R321), and the pushes sent and not yet delivered (R318), each with the
scope of the release that it carries, 0 where it is relaxed (R319). `removing` says that no further push is sent (R314). -/
structure Subscriber where
  id : Nat
  ctx : Nat
  tslot : Nat
  slot : Nat
  ovr : Nat
  parked : Bool
  pval : BitVec 128
  pscope : Nat
  parkn : Nat
  pinit : Bool
  removing : Bool
  queued : List (BitVec 128 × Nat)
  deriving DecidableEq, Repr

/-- The state of a directory entry (16 R311). -/
inductive DirSt where
  | installing | active | removing
  deriving DecidableEq, Repr

structure DirEntry where
  ctx : Nat
  tslot : Nat
  slot : Nat
  pa : BitVec 64
  st : DirSt
  deriving DecidableEq, Repr

/-- The states of a lantern (17 R326). -/
inductive LanternSt where
  | dark | warming | lit | glowing | snuffed
  deriving DecidableEq, Repr

/-- What a lantern is snuffed for. -/
inductive SnuffFor where
  | cap | lease | departed
  deriving DecidableEq, Repr

/-- A lantern (17 R326): its lessee, the LEASE that it was granted to, the order of that grant, the nanosecond in which it was lit, the
microsecond in which it entered its state, and the commands queued on it, the running one first. -/
structure Lantern where
  st : LanternSt
  ctx : Nat
  tslot : Nat
  leased : Bool
  op : Nat
  pri : Nat
  granted : Nat
  litAt : Nat
  since : Nat
  why : SnuffFor
  queue : List Nat
  deriving DecidableEq, Repr

/-- An entry of a die's lease queue (17 R329); `snuffed` says that a lantern has been snuffed for it (R330). -/
structure LeaseReq where
  op : Nat
  snuffed : Bool
  ctx : Nat
  tslot : Nat
  kind : Nat
  pri : Nat
  age : Nat
  deriving DecidableEq, Repr

/-- A translation control block (20 R386). -/
structure Tcb where
  fbbase : BitVec 64
  atbase : BitVec 64
  note : Bool
  dropped : Bool
  log2n : Nat
  put : Word
  get : Word
  carg : BitVec 64
  busy : Nat
  deriving DecidableEq, Repr

/-- A power island (23 R415, R418, R420): voltage in mV, register ration, step pace, throttles, and its migration
condition with the interval of its last request, and whether a
request is still to be honoured (R425). -/
structure Island where
  mv : Nat
  target : Nat
  r : Nat
  m : Nat
  cur : Bool
  therm : Bool
  mig : Bool
  lastMig : Option Nat
  migReq : Bool
  deriving DecidableEq, Repr

/-- A power control block (23 R424). -/
structure Power where
  diemax : Nat
  lslots : Nat
  ctxn : Bool
  hostn : Bool
  migen : Bool
  boosten : Bool
  ilimit : Nat
  grant : Nat
  cap : Nat
  thr : BitVec 24
  temps : List Nat
  writes : List (Nat × Word)
  islands : List Island
  uncore : Bool
  hbmCap : Nat
  deriving DecidableEq, Repr

/-- A bind record of a slot table (19 R363). -/
structure Bind where
  pri : Nat
  st : Nat
  first : Nat
  origin : Nat
  packet : BitVec 64
  launch : Nat
  deriving DecidableEq, Repr

/-- A die. `disabled` lists the physical cores whose entry of the LCORE remap table has V = 0; every other entry maps its LCORE to
the core of its number (14 R289). -/
structure Die where
  sysvec : BitVec 64
  disabled : List Nat
  tcb : Tcb
  pending : List (Nat × Nat)
  seq : Word
  tlb : List TlbEntry
  lanterns : Tab Lantern
  leaseQ : List LeaseReq
  directory : List DirEntry
  power : Power
  binds : Tab Bind
  deriving DecidableEq, Repr

/-- Who put a slot by QPUT: the thread and its team, the scope of the put, the core that it ran on last, and whether its context has
been saved since (19 R368). -/
structure Putter where
  slot : Word
  key : Key
  launch : Nat
  cluster : Nat
  index : Nat
  scope : Nat
  core : Nat
  saved : Bool
  deriving DecidableEq, Repr

/-- A queue's dispatcher state: whether it is served, the read-only fields RIDX, SERVED and CURBIN of its descriptor as the device
holds them (19 R358), the next slot to take, its bins, taken entries by slot in order (R359, R365), the slots whose packet or entry
is finished with, the slots that were overrun, and who put the slots. -/
structure Queue where
  on : Bool
  ridx : Word
  served : Nat
  cur : Nat
  taking : Word
  bins : Tab (List Word)
  finished : List Word
  lost : List Word
  puts : List Putter
  deriving DecidableEq, Repr

/-- No constant data. -/
def ConstSpace.none : ConstSpace := { pages := [], base := 0, len := 0, old := [], mark := 0 }

/-- A launch (19 R360 to R362, 20 R374): its packet's words, its constant space, the pages of its completion record, the clusters
bound and in all, the teams that have not ended, what the record will say, the order in which it became ready (0 before), the word
at WAITADDR that another device has answered with, and whether STATE of a record of another device is still to be written. -/
structure Launch where
  queue : Nat
  slot : Word
  die : Nat
  asid : Nat
  packet : List Word
  konst : ConstSpace
  compl : List (Nat × BitVec 64)
  nextCluster : Nat
  clusters : Nat
  teamsLeft : Nat
  aborted : Bool
  abort : Option AbortInfo
  nrep : Nat
  reports : List FlogEntry
  refused : Option Nat
  failed : Bool
  done : Bool
  prio : Nat
  ready : Nat
  waited : Option Nat
  writing : Bool
  deriving DecidableEq, Repr

/-- A launch packet held for a missing page, found by the Wick of a die: the page, the REASON of its address, and whether an
answer of REFUSE has come (19 R362, 20 R374). -/
structure Held where
  queue : Nat
  die : Nat
  page : Option (Nat × Nat)
  reason : Nat
  refused : Bool
  deriving DecidableEq, Repr

/-- A constant load from another device (07 R161): its thread, its landing, its destination, where it stands, the bytes of its word that
are known, the first and the number of those asked for, and the runs of bytes still to be asked for. -/
structure ConstReq where
  key : Key
  landing : Nat
  dst : Option Nat
  pc : PC
  word : Word
  first : Nat
  n : Nat
  rest : List (BitVec 64 × Nat × Nat)
  deriving DecidableEq, Repr

/-- A remote request in flight (25 R436): the fill of an L1 sector, stale once a write or an atomic to the sector has left after it or
an acquire that covers it has been performed; an engine's read of a sector, stale once a write to the sector has left after it; a read of
a sector of a context's save image, stale in the same case; bytes of a constant load; Wick's read of the WAITADDR word of a launch, atomics of one issue, a run of written bytes with the
operation that wrote them, or a QDONE. -/
inductive RemKind where
  | fill (stale : Bool)
  | read (op : Nat) (stale : Bool)
  | image (ctx : Nat) (stale : Bool)
  | konst (req : ConstReq)
  | wait (launch : Nat)
  | atom (req : AtomReq)
  | write (last : Option LastStore) (op : Option Nat)
  | qdone (op : Nat)
  deriving DecidableEq, Repr

/-- A remote request by its tag: the address, ASID and core that it comes from, and the microsecond in which it was sent. -/
structure Remote where
  pa : BitVec 64
  asid : Nat
  core : Nat
  kind : RemKind
  since : Nat
  deriving DecidableEq, Repr

/-- A packet sent into the fabric or the management lane (25 R433). -/
structure Packet where
  head : PacketHead
  data : List Byte
  deriving DecidableEq, Repr

/-- Who a notice goes to. -/
inductive NoticeTo where
  | wick | host
  deriving DecidableEq, Repr

/-- A notice: its cause code and two information words (12 R280). -/
structure Notice where
  too : NoticeTo
  cause : Nat
  w0 : BitVec 64
  w1 : BitVec 64
  deriving DecidableEq, Repr

/-- A response on the management lane (25 R439): the request's header, whether it was rejected, and its bytes. -/
structure MgmtResp where
  head : PacketHead
  reject : Bool
  data : List Byte
  deriving DecidableEq, Repr

/-- A format window (22 R401). -/
structure Window where
  base : BitVec 64
  limit : BitVec 64
  expbase : BitVec 64
  fmt : BitVec 2
  en : Bool
  deriving DecidableEq, Repr

/-- An error-log entry (22 R411). -/
structure ErrEntry where
  w0 : Word
  w1 : Word
  w2 : Word
  w3 : Word
  deriving DecidableEq, Repr

/-- The routing table (25 R435). -/
structure Routing where
  groups : List Nat
  members : BitVec 16
  links : Tab Nat
  deriving DecidableEq, Repr

/-- The package's own registers and stores (22, 25): `verified` says that the firmware image has been verified since power-good,
`tripped` that a trip waits for a restart (23 R421), and `up` counts the microseconds since power-good. `discarded` is the value of
`up` at the last discard (22 R412). `noted` are the sectors of constant data as stores have left them, in order (07 R161). -/
structure Pkg where
  hbm : Mem
  l2 : Tab HomeSector
  noted : List (Nat × SectorData)
  subs : Tab (List Subscriber)
  windows : Tab Window
  disc : Bool
  unbk : Bool
  vfail : Bool
  stage : Nat
  verified : Bool
  tripped : Bool
  up : Nat
  discarded : Option Nat
  cecnt : Word
  cethr : Word
  elput : Word
  elog : Tab ErrEntry
  deviceId : BitVec 19
  routing : Routing
  qtbase : BitVec 64
  mirror : BitVec 64
  flash : Mem
  measurement : List Byte
  fuses : List Byte
  deriving DecidableEq, Repr

/-- What the outside world supplies to the power controller in an interval (23 R416, R418, R419): temperatures by die and
sensor, island currents in 0.1 A and issue shares in per cent by die and island, and demands in candles by die. -/
structure Env where
  temps : List (List Nat)
  currents : List (List Nat)
  issue : List (List Nat)
  demand : List Nat
  deriving DecidableEq, Repr

/-- The issue in progress: where the instruction that `exec` is given stands and which members execute it. -/
structure Site where
  core : Nat
  slot : Nat
  ctx : Nat
  h : BitVec 56
  wi : Nat
  count : Nat
  cls : Cls
  members : List (Nat × Nat)
  all : List (Nat × Nat)
  rep : Option Rep
  w0 : Word
  deriving DecidableEq, Repr

/-- Who moves next (log 1): an event of the table, the issue of one word by a group, or the progress of an engine
operation by one unit. -/
inductive Turn where
  | event (i : Instr)
  | issue (core slot : Nat)
  | engine (op : Nat)
  deriving DecidableEq, Repr

/-- The whole package. `fetched` are the sectors that a streaming bank has read of a save image on another device, by context (12 R259).
The last seven fields are the model's own (log 1): the turns still to be taken, a count of the turns taken
with none named, a counter of free values drawn, the next identifier, the issue in progress, the power controller's inputs,
one for each interval to come, the last of which stands for all later ones, and the request that RESTART receives (log 10). -/
structure State where
  pkg : Pkg
  dies : Vector Die 4
  cores : Tab Core
  ctxs : Tab Ctx
  launches : Tab Launch
  queues : Tab Queue
  held : List Held
  qreqs : List QReq
  landings : Tab Landing
  loads : Tab LoadReq
  atoms : Tab AtomReq
  feWaits : List FeWait
  ops : Tab EngOp
  remotes : Tab Remote
  fetched : Tab (Tab SectorData)
  sent : List Packet
  notices : List Notice
  mgmt : List MgmtResp
  us : Nat
  ns : BitVec 64
  agenda : List Turn
  turn : Nat
  draws : Nat
  fresh : Nat
  site : Site
  env : List Env
  restartAsk : Option PacketHead
  deriving DecidableEq, Repr

/-- Why a step ends in a fault: nothing does. Every exception that the spec describes is taken, and every event that cannot take
place leaves the state as it is. -/
inductive Fault where
  deriving DecidableEq, Repr

/-- Why an instruction has no meaning here. -/
inductive Refusal where
  /-- Raised by the arm of an instruction that has no meaning yet, with its mnemonic. Safe. -/
  | notModelled (mnemonic : String)
  deriving DecidableEq, Repr

/-! ## Reset: every field after the full start stage (22 R406). -/

/-- Context registers at context creation (02 R37, 11 R245, 12 R267, R272, R276). -/
def CtxRegs.reset : CtxRegs :=
  { fpctl := 0, matctl := 0, trapvec := 0, trapdlg := 0x00060DE6#32, dbgctl := 1#32 }

/-- A core as the start stage leaves it: all zero, nothing owned (22 R406). -/
def Core.reset : Core :=
  { groups := [], ages := [], lastLaneset := none, greedy := [], l1 := [], tlb := [], icache := [], abuf := [],
    aexp := [], wbuf := [], wexp := [], cbuf := [], aOwner := none, wOwner := none, cOwner := none, clock := 0 }

/-- An island at the nominal point (23 R418). -/
def Island.reset : Island :=
  { mv := 650, target := 650, r := 12, m := 1, cur := false, therm := false, mig := false, lastMig := none, migReq := false }

/-- The reset column of 23 R424. -/
def Power.reset : Power :=
  { diemax := 3600, lslots := 8, ctxn := true, hostn := false, migen := true, boosten := true, ilimit := 480, grant := 0,
    cap := 8, thr := 0, temps := List.replicate 32 0, writes := [], islands := List.replicate 24 Island.reset,
    uncore := false, hbmCap := 4 }

/-- The reset column of 20 R386; ATBASE is firmware's: DESIGN CHOICE, log 3. -/
def Tcb.reset : Tcb :=
  { fbbase := 0, atbase := 0x0000007500000000#64, note := true, dropped := false, log2n := 8, put := 0, get := 0, carg := 0,
    busy := 0 }

/-- A die as the start stage leaves it, with every core working: DESIGN CHOICE, log 3. -/
def Die.reset : Die :=
  { sysvec := 0, disabled := [], tcb := Tcb.reset, pending := [], seq := 0, tlb := [], lanterns := [],
    leaseQ := [], directory := [], power := Power.reset, binds := [] }

/-- QTBASE and the base of Wick's mirror after reset: DESIGN CHOICE, log 3. -/
def qtbaseReset : BitVec 64 := 0x0000007600000000#64
def mirrorReset : BitVec 64 := 0x0000007610000000#64

/-- The package's registers after the full start stage (22 R401, R407, R411); firmware's and the host's values are DESIGN
CHOICE, log 3. -/
def Pkg.reset : Pkg :=
  { hbm := [], l2 := [], noted := [], subs := [], windows := [], disc := false, unbk := false, vfail := false, stage := 2, verified := true, tripped := false, up := 2500000, discarded := none, cecnt := 0,
    cethr := 0x1000#32, elput := 0, elog := [], deviceId := 0, routing := { groups := [], members := 0, links := [] },
    qtbase := qtbaseReset, mirror := mirrorReset, flash := [], measurement := List.replicate 64 0, fuses := [] }

/-- No issue in progress. -/
def Site.none : Site :=
  { core := 0, slot := 0, ctx := 0, h := 0, wi := 0, count := 0, cls := .any, members := [], all := [], rep := Option.none,
    w0 := 0 }

/-- The machine right after the full start stage: no context, no thread, memory with nothing listed (22 R406). -/
def State.reset : State :=
  { pkg := Pkg.reset, dies := Vector.replicate 4 Die.reset, cores := [], ctxs := [], launches := [], queues := [], held := [],
    qreqs := [], landings := [], loads := [], atoms := [], feWaits := [], ops := [], remotes := [], fetched := [], sent := [],
    notices := [], mgmt := [], us := 0, ns := 0, agenda := [], turn := 0, draws := 0, fresh := 0, site := Site.none,
    env := [], restartAsk := none }

end Sys2Proof.Machine
end

