-- ==== Sys2Proof/Machine/Operands.lean ====
section
/-! DEFINITION. What each instruction's encoding says about its fields: its class, its operand fields with their widths,
and the encodings that 03 R69 rejects (qualifiers 2, 1, 9 and 5 of R79). -/

namespace Sys2Proof.Machine

/-- The field of the instruction that names an operand; S fields stand in D's place (R63). -/
inductive Fld where
  | d | a | b | c | base
  deriving DecidableEq, Repr

/-- An operand field: the select it holds, how many registers it names, whether it is written, whether only a register may
stand there, and whether it may be read while it is pending on a future (01 R18). -/
structure Opd where
  fld : Fld
  sel : Sel
  words : Nat
  dst : Bool
  regOnly : Bool
  quick : Bool
  deriving DecidableEq, Repr

/-- A W field of 11 names pairs. -/
def wide (w : BitVec 2) : Nat := if w == 3 then 2 else 1
/-- Registers of an integer type code: I64 and N64 are pairs (04 R104). -/
def intWords (t : BitVec 4) : Nat := if t == 3 || t == 7 then 2 else 1
/-- Registers of a float format code: F64 is a pair (05 R119). -/
def fltWords (t : BitVec 4) : Nat := if t == 3 then 2 else 1
/-- Registers of an LDSX or STSX access (10 R218). -/
def scrWords (qw w : BitVec 2) : Nat := if qw == 1 then 4 else wide w

/-- The destination operand: absent with NW = 1 (R64). -/
def dstOpd (d : Dst) (n : Nat) : List Opd :=
  if d.nw then [] else [⟨.d, d.r.setWidth 8, n, true, true, false⟩]
/-- A source field of seven bits that always names a register. -/
def regOpd (f : Fld) (r : BitVec 7) (n : Nat) (quick : Bool) : Opd := ⟨f, r.setWidth 8, n, false, true, quick⟩
/-- An operand select. -/
def selOpd (f : Fld) (s : Sel) (n : Nat) : Opd := ⟨f, s, n, false, false, false⟩
/-- An operand select that accepts registers only. -/
def onlyOpd (f : Fld) (s : Sel) (n : Nat) (quick : Bool) : Opd := ⟨f, s, n, false, true, quick⟩
/-- The select of an address pair. -/
def pairOpd (f : Fld) (s : Sel) : Opd := onlyOpd f s 2 false

/-- The class of an opcode, if it is assigned (R81, R82). -/
def opClass (op : Nat) : Option Cls :=
  if op = 0 then some .any
  else if 0x01 ≤ op ∧ op ≤ 0x24 then some .alu
  else if 0x30 ≤ op ∧ op ≤ 0x3B then some .alu
  else if 0x3C ≤ op ∧ op ≤ 0x41 then some .sfu
  else if 0x42 ≤ op ∧ op ≤ 0x43 then some .alu
  else if 0x44 ≤ op ∧ op ≤ 0x45 then some .sys
  else if 0x50 ≤ op ∧ op ≤ 0x5C then some .ctrl
  else if 0x60 ≤ op ∧ op ≤ 0x65 then some .xl
  else if 0x68 ≤ op ∧ op ≤ 0x6E then some .mem
  else if 0x70 ≤ op ∧ op ≤ 0x77 then some .mem
  else if 0x78 ≤ op ∧ op ≤ 0x78 then some .eng
  else if 0x79 ≤ op ∧ op ≤ 0x7E then some .sys
  else if 0x80 ≤ op ∧ op ≤ 0x94 then some .alu
  else if 0x98 ≤ op ∧ op ≤ 0x9E then some .alu
  else if 0x9F ≤ op ∧ op ≤ 0xA0 then some .sfu
  else if 0xA1 ≤ op ∧ op ≤ 0xA7 then some .alu
  else if 0xB0 ≤ op ∧ op ≤ 0xB1 then some .ctrl
  else if 0xB8 ≤ op ∧ op ≤ 0xB9 then some .xl
  else if 0xC0 ≤ op ∧ op ≤ 0xC3 then some .mem
  else if 0xC8 ≤ op ∧ op ≤ 0xCA then some .mem
  else if 0xCB ≤ op ∧ op ≤ 0xCB then some .eng
  else if 0xD0 ≤ op ∧ op ≤ 0xD3 then some .eng
  else if 0xD8 ≤ op ∧ op ≤ 0xDD then some .eng
  else if 0xE0 ≤ op ∧ op ≤ 0xE9 then some .eng
  else if 0xEA ≤ op ∧ op ≤ 0xEA then some .ctrl
  else none

/-- The opcode of an instruction; events have none. -/
def opcode : Instr → Option Nat
  | .nop => some 0x00
  | .mov _ _ => some 0x01
  | .add _ _ _ => some 0x02
  | .sub _ _ _ => some 0x03
  | .mullo _ _ _ => some 0x04
  | .mulhi _ _ _ => some 0x05
  | .mulhiu _ _ _ => some 0x06
  | .and _ _ _ => some 0x07
  | .or _ _ _ => some 0x08
  | .xor _ _ _ => some 0x09
  | .andn _ _ _ => some 0x0A
  | .shl _ _ _ => some 0x0B
  | .shr _ _ _ => some 0x0C
  | .sar _ _ _ => some 0x0D
  | .rol _ _ _ => some 0x0E
  | .min _ _ _ => some 0x0F
  | .max _ _ _ => some 0x10
  | .minu _ _ _ => some 0x11
  | .maxu _ _ _ => some 0x12
  | .slt _ _ _ => some 0x13
  | .sltu _ _ _ => some 0x14
  | .seq _ _ _ => some 0x15
  | .absd _ _ _ => some 0x16
  | .clz _ _ => some 0x17
  | .ffs _ _ => some 0x18
  | .popc _ _ => some 0x19
  | .brev _ _ => some 0x1A
  | .addi _ _ _ => some 0x1B
  | .shli _ _ _ => some 0x1C
  | .shri _ _ _ => some 0x1D
  | .sari _ _ _ => some 0x1E
  | .andi _ _ _ => some 0x1F
  | .lea _ _ _ => some 0x20
  | .rqadd _ _ _ => some 0x21
  | .rqsub _ _ _ => some 0x22
  | .rqmul _ _ _ => some 0x23
  | .rqdec _ _ => some 0x24
  | .fadd _ _ _ => some 0x30
  | .fsub _ _ _ => some 0x31
  | .fmul _ _ _ => some 0x32
  | .fmin _ _ _ => some 0x33
  | .fmax _ _ _ => some 0x34
  | .fslt _ _ _ => some 0x35
  | .fsle _ _ _ => some 0x36
  | .fseq _ _ _ => some 0x37
  | .fsun _ _ _ => some 0x38
  | .fneg _ _ => some 0x39
  | .fabs _ _ => some 0x3A
  | .fclass _ _ => some 0x3B
  | .frcp _ _ => some 0x3C
  | .frsq _ _ => some 0x3D
  | .fex2 _ _ => some 0x3E
  | .flg2 _ _ => some 0x3F
  | .fsin _ _ => some 0x40
  | .fcos _ _ => some 0x41
  | .hadd2 _ _ _ => some 0x42
  | .hmul2 _ _ _ => some 0x43
  | .flags _ _ => some 0x44
  | .flgclr _ => some 0x45
  | .movi _ _ => some 0x80
  | .mad _ _ _ _ _ _ => some 0x81
  | .sel _ _ _ _ => some 0x82
  | .bfe _ _ _ _ _ => some 0x83
  | .bfi _ _ _ _ _ => some 0x84
  | .leax _ _ _ _ _ _ => some 0x85
  | .clzw _ _ _ => some 0x86
  | .ffsw _ _ _ => some 0x87
  | .popcw _ _ _ => some 0x88
  | .padd _ _ _ _ => some 0x89
  | .psub _ _ _ _ => some 0x8A
  | .padds _ _ _ _ _ _ => some 0x8B
  | .psubs _ _ _ _ _ _ => some 0x8C
  | .pmin _ _ _ _ _ => some 0x8D
  | .pmax _ _ _ _ _ => some 0x8E
  | .pmul _ _ _ _ _ _ => some 0x8F
  | .pdot4 _ _ _ _ _ _ _ => some 0x90
  | .rqmad _ _ _ _ => some 0x91
  | .rqenc _ _ _ => some 0x92
  | .cvti _ _ _ _ _ => some 0x93
  | .ialui _ _ _ _ => some 0x94
  | .falui _ _ _ _ => some 0x98
  | .fopr _ _ _ _ _ _ => some 0x99
  | .ffma _ _ _ _ _ _ => some 0x9A
  | .frnd _ _ _ _ => some 0x9B
  | .fcvt _ _ _ _ _ _ _ => some 0x9C
  | .ftoi _ _ _ _ _ _ _ => some 0x9D
  | .itof _ _ _ _ _ _ => some 0x9E
  | .fdiv _ _ _ _ _ _ => some 0x9F
  | .fsqrt _ _ _ _ _ => some 0xA0
  | .dadd _ _ _ _ _ => some 0xA1
  | .dsub _ _ _ _ _ => some 0xA2
  | .dmul _ _ _ _ _ => some 0xA3
  | .dfma _ _ _ _ _ _ => some 0xA4
  | .dcmp _ _ _ _ => some 0xA5
  | .hfma2 _ _ _ _ _ _ _ => some 0xA6
  | .hopr _ _ _ _ _ _ _ => some 0xA7
  | .brx _ => some 0x50
  | .callx _ _ => some 0x51
  | .ret _ => some 0x52
  | .jset _ => some 0x53
  | .jwait _ => some 0x54
  | .jdrop _ => some 0x55
  | .yield => some 0x56
  | .exit => some 0x57
  | .rep _ _ => some 0x58
  | .waitf _ _ _ => some 0x59
  | .testf _ _ => some 0x5A
  | .cancelf _ _ => some 0x5B
  | .movf _ _ => some 0x5C
  | .br _ _ _ _ => some 0xB0
  | .call _ _ => some 0xB1
  | .ballot _ _ => some 0x60
  | .any _ _ => some 0x61
  | .all _ _ => some 0x62
  | .gpos _ => some 0x63
  | .gsize _ => some 0x64
  | .member _ _ => some 0x65
  | .shfl _ _ _ _ _ => some 0xB8
  | .redux _ _ _ _ _ _ => some 0xB9
  | .ldg _ _ _ => some 0x68
  | .stg _ _ _ => some 0x69
  | .ldk _ _ _ => some 0x6A
  | .fence _ _ => some 0x6B
  | .flush _ _ => some 0x6C
  | .inval _ _ => some 0x6D
  | .pref _ _ => some 0x6E
  | .ldgx _ _ _ _ _ _ _ _ _ => some 0xC0
  | .stgx _ _ _ _ _ _ _ _ => some 0xC1
  | .atom _ _ _ _ _ _ _ _ => some 0xC2
  | .cas _ _ _ _ _ _ _ _ => some 0xC3
  | .lds _ _ _ _ => some 0x70
  | .sts _ _ _ _ => some 0x71
  | .feset _ _ _ => some 0x72
  | .fetest _ _ => some 0x73
  | .stf _ _ _ => some 0x74
  | .ldf _ _ _ => some 0x75
  | .ldt _ _ _ _ _ => some 0x76
  | .stt _ _ _ _ _ => some 0x77
  | .qpop _ => some 0x78
  | .trap _ _ => some 0x79
  | .tret => some 0x7A
  | .sysrd _ _ => some 0x7B
  | .syswr _ _ => some 0x7C
  | .flogpop _ => some 0x7C
  | .abort _ => some 0x7C
  | .clock _ _ => some 0x7D
  | .bkpt _ => some 0x7E
  | .ldsx _ _ _ _ _ _ _ _ _ _ => some 0xC8
  | .stsx _ _ _ _ _ _ _ _ _ => some 0xC9
  | .atoms _ _ _ _ _ _ _ _ _ _ => some 0xCA
  | .copy _ _ _ _ _ _ _ _ _ _ _ _ => some 0xCB
  | .mloop _ _ _ _ _ _ _ _ _ _ => some 0xD0
  | .mfold _ _ => some 0xD1
  | .cvtdn _ _ _ _ _ _ _ => some 0xD2
  | .mzero _ _ _ => some 0xD3
  | .gather _ _ _ _ _ _ _ _ => some 0xD8
  | .scatter _ _ _ _ _ _ _ _ => some 0xD9
  | .scadd _ _ _ _ _ _ _ _ _ _ => some 0xDA
  | .stand _ _ _ _ => some 0xDB
  | .unstand _ _ _ => some 0xDC
  | .substat _ _ _ _ => some 0xDD
  | .lease _ _ _ => some 0xE0
  | .unlease _ _ => some 0xE1
  | .mrg _ _ _ _ _ _ _ => some 0xE2
  | .lstat _ _ => some 0xE3
  | .nbrgrid _ _ _ _ _ => some 0xE4
  | .nbrbin _ _ _ _ _ => some 0xE5
  | .nbrpair _ _ _ _ _ => some 0xE6
  | .nbrchk _ _ _ _ _ => some 0xE7
  | .qput _ _ _ _ _ => some 0xE8
  | .qdone _ _ _ _ => some 0xE9
  | .tail _ _ => some 0xEA
  | .clauseStart _ _ => none
  | .groupFormation _ _ => none
  | .stallDissolution _ _ => none
  | .registerResultLands _ => none
  | .futureCompletion _ => none
  | .l1Fill _ _ => none
  | .homeWriteBack _ _ _ => none
  | .atomicAtHome _ => none
  | .hbmFill _ _ => none
  | .scaddUpdate _ _ => none
  | .pushDelivery _ => none
  | .typedBufferHandover _ _ _ => none
  | .matrixOpBegin _ => none
  | .mloopStepBoundary _ _ => none
  | .tlbWalkComplete _ _ _ => none
  | .replayAll _ => none
  | .refuse _ => none
  | .invPage _ => none
  | .invAsid _ => none
  | .invAll _ => none
  | .registerWrite _ _ _ => none
  | .windowFieldWrite _ _ _ => none
  | .windowEnable _ _ => none
  | .queueEnable _ => none
  | .queueSlotTaken _ => none
  | .launchBind _ => none
  | .clusterBind _ => none
  | .taskDelivery _ => none
  | .teamEnd _ _ => none
  | .contextSwitchOut _ => none
  | .streamOutComplete _ => none
  | .streamInComplete _ => none
  | .migration _ _ => none
  | .crossDieMigration _ _ => none
  | .controlInterval => none
  | .powerControlWrite _ _ _ => none
  | .lanternLit _ _ => none
  | .snuffEnd _ _ => none
  | .lanternDark _ _ => none
  | .powerGood => none
  | .firmwareVerify => none
  | .coreRelease => none
  | .restart => none
  | .correctedError => none
  | .uncorrectableError _ => none
  | .mgmtControlSpace _ _ _ _ => none
  | .mgmtRoutingId _ _ _ => none
  | .mgmtBootFlash _ _ _ => none
  | .attestationRequest _ _ => none
  | .fabricRead _ _ => none
  | .readResponse _ _ => none
  | .fabricWrite _ _ => none
  | .writeAcknowledgement _ => none
  | .fabricAtomic _ _ _ _ => none
  | .atomicResponse _ _ => none
  | .fabricReject _ => none
  | .managementResponse _ => none
  | .remoteTimeout _ => none
  | .reservedOpcode _ => none
  | .engineDelivery _ => none
  | .elementRequest _ _ => none
  | .streamOutBegin _ _ => none
  | .streamInBegin _ _ => none

/-- The operand fields of an instruction (R63, R68 and each instruction's own table). -/
def opds : Instr → List Opd
  | .nop => []
  | .mov d a => dstOpd d 1 ++ [selOpd .a a 1]
  | .add d a b => dstOpd d 1 ++ [selOpd .a a 1, selOpd .b b 1]
  | .sub d a b => dstOpd d 1 ++ [selOpd .a a 1, selOpd .b b 1]
  | .mullo d a b => dstOpd d 1 ++ [selOpd .a a 1, selOpd .b b 1]
  | .mulhi d a b => dstOpd d 1 ++ [selOpd .a a 1, selOpd .b b 1]
  | .mulhiu d a b => dstOpd d 1 ++ [selOpd .a a 1, selOpd .b b 1]
  | .and d a b => dstOpd d 1 ++ [selOpd .a a 1, selOpd .b b 1]
  | .or d a b => dstOpd d 1 ++ [selOpd .a a 1, selOpd .b b 1]
  | .xor d a b => dstOpd d 1 ++ [selOpd .a a 1, selOpd .b b 1]
  | .andn d a b => dstOpd d 1 ++ [selOpd .a a 1, selOpd .b b 1]
  | .shl d a b => dstOpd d 1 ++ [selOpd .a a 1, selOpd .b b 1]
  | .shr d a b => dstOpd d 1 ++ [selOpd .a a 1, selOpd .b b 1]
  | .sar d a b => dstOpd d 1 ++ [selOpd .a a 1, selOpd .b b 1]
  | .rol d a b => dstOpd d 1 ++ [selOpd .a a 1, selOpd .b b 1]
  | .min d a b => dstOpd d 1 ++ [selOpd .a a 1, selOpd .b b 1]
  | .max d a b => dstOpd d 1 ++ [selOpd .a a 1, selOpd .b b 1]
  | .minu d a b => dstOpd d 1 ++ [selOpd .a a 1, selOpd .b b 1]
  | .maxu d a b => dstOpd d 1 ++ [selOpd .a a 1, selOpd .b b 1]
  | .slt d a b => dstOpd d 1 ++ [selOpd .a a 1, selOpd .b b 1]
  | .sltu d a b => dstOpd d 1 ++ [selOpd .a a 1, selOpd .b b 1]
  | .seq d a b => dstOpd d 1 ++ [selOpd .a a 1, selOpd .b b 1]
  | .absd d a b => dstOpd d 1 ++ [selOpd .a a 1, selOpd .b b 1]
  | .clz d a => dstOpd d 1 ++ [selOpd .a a 1]
  | .ffs d a => dstOpd d 1 ++ [selOpd .a a 1]
  | .popc d a => dstOpd d 1 ++ [selOpd .a a 1]
  | .brev d a => dstOpd d 1 ++ [selOpd .a a 1]
  | .addi d a _ => dstOpd d 1 ++ [selOpd .a a 1]
  | .shli d a _ => dstOpd d 1 ++ [selOpd .a a 1]
  | .shri d a _ => dstOpd d 1 ++ [selOpd .a a 1]
  | .sari d a _ => dstOpd d 1 ++ [selOpd .a a 1]
  | .andi d a _ => dstOpd d 1 ++ [selOpd .a a 1]
  | .lea d a b => dstOpd d 2 ++ [selOpd .a a 2, selOpd .b b 1]
  | .rqadd d a b => dstOpd d 1 ++ [selOpd .a a 1, selOpd .b b 1]
  | .rqsub d a b => dstOpd d 1 ++ [selOpd .a a 1, selOpd .b b 1]
  | .rqmul d a b => dstOpd d 1 ++ [selOpd .a a 1, selOpd .b b 1]
  | .rqdec d a => dstOpd d 1 ++ [selOpd .a a 1]
  | .fadd d a b => dstOpd d 1 ++ [selOpd .a a 1, selOpd .b b 1]
  | .fsub d a b => dstOpd d 1 ++ [selOpd .a a 1, selOpd .b b 1]
  | .fmul d a b => dstOpd d 1 ++ [selOpd .a a 1, selOpd .b b 1]
  | .fmin d a b => dstOpd d 1 ++ [selOpd .a a 1, selOpd .b b 1]
  | .fmax d a b => dstOpd d 1 ++ [selOpd .a a 1, selOpd .b b 1]
  | .fslt d a b => dstOpd d 1 ++ [selOpd .a a 1, selOpd .b b 1]
  | .fsle d a b => dstOpd d 1 ++ [selOpd .a a 1, selOpd .b b 1]
  | .fseq d a b => dstOpd d 1 ++ [selOpd .a a 1, selOpd .b b 1]
  | .fsun d a b => dstOpd d 1 ++ [selOpd .a a 1, selOpd .b b 1]
  | .fneg d a => dstOpd d 1 ++ [selOpd .a a 1]
  | .fabs d a => dstOpd d 1 ++ [selOpd .a a 1]
  | .fclass d a => dstOpd d 1 ++ [selOpd .a a 1]
  | .frcp d a => dstOpd d 1 ++ [selOpd .a a 1]
  | .frsq d a => dstOpd d 1 ++ [selOpd .a a 1]
  | .fex2 d a => dstOpd d 1 ++ [selOpd .a a 1]
  | .flg2 d a => dstOpd d 1 ++ [selOpd .a a 1]
  | .fsin d a => dstOpd d 1 ++ [selOpd .a a 1]
  | .fcos d a => dstOpd d 1 ++ [selOpd .a a 1]
  | .hadd2 d a b => dstOpd d 1 ++ [selOpd .a a 1, selOpd .b b 1]
  | .hmul2 d a b => dstOpd d 1 ++ [selOpd .a a 1, selOpd .b b 1]
  | .flags d _ => dstOpd d 1
  | .flgclr _ => []
  | .movi d _ => dstOpd d 1
  | .mad d a b c w _ => dstOpd d (wide w) ++ [selOpd .a a 1, selOpd .b b 1, selOpd .c c (wide w)]
  | .sel d a b c => dstOpd d 1 ++ [selOpd .a a 1, selOpd .b b 1, selOpd .c c 1]
  | .bfe d a _ _ _ => dstOpd d 1 ++ [selOpd .a a 1]
  | .bfi d a b _ _ => dstOpd d 1 ++ [selOpd .a a 1, selOpd .b b 1]
  | .leax d a b ix _ _ => dstOpd d 2 ++ [selOpd .a a 2, selOpd .b b (if ix == 2 then 2 else 1)]
  | .clzw d a _ => dstOpd d 1 ++ [selOpd .a a 1]
  | .ffsw d a _ => dstOpd d 1 ++ [selOpd .a a 1]
  | .popcw d a _ => dstOpd d 1 ++ [selOpd .a a 1]
  | .padd d a b _ => dstOpd d 1 ++ [selOpd .a a 1, selOpd .b b 1]
  | .psub d a b _ => dstOpd d 1 ++ [selOpd .a a 1, selOpd .b b 1]
  | .padds d a b _ _ _ => dstOpd d 1 ++ [selOpd .a a 1, selOpd .b b 1]
  | .psubs d a b _ _ _ => dstOpd d 1 ++ [selOpd .a a 1, selOpd .b b 1]
  | .pmin d a b _ _ => dstOpd d 1 ++ [selOpd .a a 1, selOpd .b b 1]
  | .pmax d a b _ _ => dstOpd d 1 ++ [selOpd .a a 1, selOpd .b b 1]
  | .pmul d a b _ _ _ => dstOpd d 1 ++ [selOpd .a a 1, selOpd .b b 1]
  | .pdot4 d a b c _ _ _ => dstOpd d 1 ++ [selOpd .a a 1, selOpd .b b 1, selOpd .c c 1]
  | .rqmad d a b c => dstOpd d 1 ++ [selOpd .a a 1, selOpd .b b 1, selOpd .c c 1]
  | .rqenc d a _ => dstOpd d 1 ++ [selOpd .a a 1]
  | .cvti d a dt st _ => dstOpd d (intWords dt) ++ [selOpd .a a (intWords st)]
  | .ialui d a _ _ => dstOpd d 1 ++ [selOpd .a a 1]
  | .falui d a _ _ => dstOpd d 1 ++ [selOpd .a a 1]
  | .fopr d a b _ _ _ => dstOpd d 1 ++ [selOpd .a a 1, selOpd .b b 1]
  | .ffma d a b c _ _ => dstOpd d 1 ++ [selOpd .a a 1, selOpd .b b 1, selOpd .c c 1]
  | .frnd d a _ w => dstOpd d (wide w) ++ [selOpd .a a (wide w)]
  | .fcvt d a dt st _ _ _ => dstOpd d (fltWords dt) ++ [selOpd .a a (fltWords st)]
  | .ftoi d a dt st _ _ _ => dstOpd d (intWords dt) ++ [selOpd .a a (fltWords st)]
  | .itof d a dt st _ _ => dstOpd d (fltWords dt) ++ [selOpd .a a (intWords st)]
  | .fdiv d a b _ w _ => dstOpd d (wide w) ++ [selOpd .a a (wide w), selOpd .b b (wide w)]
  | .fsqrt d a _ w _ => dstOpd d (wide w) ++ [selOpd .a a (wide w)]
  | .dadd d a b _ _ => dstOpd d 2 ++ [selOpd .a a 2, selOpd .b b 2]
  | .dsub d a b _ _ => dstOpd d 2 ++ [selOpd .a a 2, selOpd .b b 2]
  | .dmul d a b _ _ => dstOpd d 2 ++ [selOpd .a a 2, selOpd .b b 2]
  | .dfma d a b c _ _ => dstOpd d 2 ++ [selOpd .a a 2, selOpd .b b 2, selOpd .c c 2]
  | .dcmp d a b _ => dstOpd d 1 ++ [selOpd .a a 2, selOpd .b b 2]
  | .hfma2 d a b c _ _ _ => dstOpd d 1 ++ [selOpd .a a 1, selOpd .b b 1, selOpd .c c 1]
  | .hopr d a b _ _ _ _ => dstOpd d 1 ++ [selOpd .a a 1, selOpd .b b 1]
  | .brx a => [onlyOpd .a a 2 false]
  | .callx d a => dstOpd d 2 ++ [onlyOpd .a a 2 false]
  | .ret a => [onlyOpd .a a 2 false]
  | .jset _ => []
  | .jwait _ => []
  | .jdrop _ => []
  | .yield => []
  | .exit => []
  | .rep _ _ => []
  | .waitf d a _ => dstOpd d 1 ++ [onlyOpd .a a 1 false]
  | .testf d a => dstOpd d 1 ++ [onlyOpd .a a 1 true]
  | .cancelf a _ => [onlyOpd .a a 1 true]
  | .movf d a => dstOpd d 1 ++ [onlyOpd .a a 1 true]
  | .br cond a b _ => if cond == 6 then [] else [selOpd .a a 1, selOpd .b b 1]
  | .call d _ => dstOpd d 2
  | .ballot d a => dstOpd d 1 ++ [selOpd .a a 1]
  | .any d a => dstOpd d 1 ++ [selOpd .a a 1]
  | .all d a => dstOpd d 1 ++ [selOpd .a a 1]
  | .gpos d => dstOpd d 1
  | .gsize d => dstOpd d 1
  | .member d a => dstOpd d 1 ++ [selOpd .a a 1]
  | .shfl d a b _ _ => dstOpd d 1 ++ [selOpd .a a 1, selOpd .b b 1]
  | .redux d a _ _ _ _ => dstOpd d 1 ++ [selOpd .a a 1]
  | .ldg d a _ => dstOpd d 1 ++ [onlyOpd .a a 2 false]
  | .stg rs a _ => [regOpd .d rs 1 false, onlyOpd .a a 2 false]
  | .ldk d a _ => dstOpd d 1 ++ [selOpd .a a 1]
  | .fence _ _ => []
  | .flush a _ => [onlyOpd .a a 2 false]
  | .inval a _ => [onlyOpd .a a 2 false]
  | .pref a _ => [onlyOpd .a a 2 false]
  | .ldgx d a b _ _ _ _ w _ => dstOpd d (wide w) ++ [onlyOpd .a a 2 false, selOpd .b b 1]
  | .stgx rs a b _ _ _ w _ => [regOpd .d rs (wide w) false, onlyOpd .a a 2 false, selOpd .b b 1]
  | .atom d a b op w _ _ _ => (if op == 1 then [] else dstOpd d (wide w)) ++ [onlyOpd .a a 2 false, selOpd .b b (wide w)]
  | .cas d a b c w _ _ _ => dstOpd d (wide w) ++ [onlyOpd .a a 2 false, selOpd .b b (wide w), selOpd .c c (wide w)]
  | .lds d a _ _ => dstOpd d 1 ++ [selOpd .a a 1]
  | .sts rs _ a _ => [regOpd .d rs 1 false, selOpd .a a 1]
  | .feset _ a b => [selOpd .a a 1, selOpd .b b 1]
  | .fetest d a => dstOpd d 1 ++ [selOpd .a a 1]
  | .stf rs a _ => [regOpd .d rs 1 true, selOpd .a a 1]
  | .ldf d a _ => dstOpd d 1 ++ [selOpd .a a 1]
  | .ldt d a _ _ _ => dstOpd d 1 ++ [selOpd .a a 1]
  | .stt rs a _ _ _ => [regOpd .d rs 1 false, selOpd .a a 1]
  | .qpop d => dstOpd d 8
  | .trap a _ => [selOpd .a a 1]
  | .tret => []
  | .sysrd d _ => dstOpd d 1
  | .syswr rs _ => [regOpd .d rs 1 false]
  | .flogpop rs => [regOpd .d rs 1 false]
  | .abort rs => [regOpd .d rs 1 false]
  | .clock d _ => dstOpd d 2
  | .bkpt _ => []
  | .ldsx d a b _ _ _ _ w qw _ => dstOpd d (scrWords qw w) ++ [selOpd .a a 1, selOpd .b b 1]
  | .stsx rs a b _ _ _ w qw _ => [regOpd .d rs (scrWords qw w) false, selOpd .a a 1, selOpd .b b 1]
  | .atoms d a b c w _ _ op _ _ => (if op == 1 then [] else dstOpd d (wide w)) ++ [selOpd .a a 1, selOpd .b b (wide w)] ++ (if op == 12 then [selOpd .c c (wide w)] else [])
  | .copy d a b c _ _ _ _ _ dsp ssp _ => dstOpd d 1 ++ [if dsp == 0 then pairOpd .a a else selOpd .a a 1, if ssp == 0 then pairOpd .b b else selOpd .b b 1, selOpd .c c 1]
  | .mloop d a b _ _ _ _ _ _ _ => dstOpd d 1 ++ [selOpd .a a 1, selOpd .b b 1]
  | .mfold d _ => dstOpd d 1
  | .cvtdn d a _ _ _ dsp _ => dstOpd d 1 ++ [if dsp then pairOpd .a a else selOpd .a a 1]
  | .mzero d _ _ => dstOpd d 1
  | .gather d a b c _ _ _ base => dstOpd d 1 ++ [selOpd .a a 1, selOpd .b b 1, selOpd .c c 1, regOpd .base base 2 false]
  | .scatter d a b c _ _ _ base => dstOpd d 1 ++ [selOpd .a a 1, selOpd .b b 1, selOpd .c c 1, regOpd .base base 2 false]
  | .scadd d a b c _ _ _ _ _ base => dstOpd d 1 ++ [selOpd .a a 1, selOpd .b b 1, selOpd .c c 1, regOpd .base base 2 false]
  | .stand d a b _ => dstOpd d 1 ++ [onlyOpd .a a 2 false, selOpd .b b 1]
  | .unstand d b _ => dstOpd d 1 ++ [selOpd .b b 1]
  | .substat d b _ _ => dstOpd d 1 ++ [selOpd .b b 1]
  | .lease d _ _ => dstOpd d 1
  | .unlease d a => dstOpd d 1 ++ [selOpd .a a 1]
  | .mrg d a b _ _ _ _ => dstOpd d 1 ++ [selOpd .a a 1, selOpd .b b 1]
  | .lstat d a => dstOpd d 1 ++ [selOpd .a a 1]
  | .nbrgrid d a b _ _ => dstOpd d 1 ++ [selOpd .a a 1, selOpd .b b 1]
  | .nbrbin d a b _ _ => dstOpd d 1 ++ [selOpd .a a 1, selOpd .b b 1]
  | .nbrpair d a b _ _ => dstOpd d 1 ++ [selOpd .a a 1, selOpd .b b 1]
  | .nbrchk d a b _ _ => dstOpd d 1 ++ [selOpd .a a 1, selOpd .b b 1]
  | .qput d a b _ _ => dstOpd d 1 ++ [selOpd .a a 1, selOpd .b b 1]
  | .qdone d a b _ => dstOpd d 1 ++ [onlyOpd .a a 2 false, selOpd .b b 1]
  | .tail a _ => [onlyOpd .a a 2 false]
  | .clauseStart _ _ => []
  | .groupFormation _ _ => []
  | .stallDissolution _ _ => []
  | .registerResultLands _ => []
  | .futureCompletion _ => []
  | .l1Fill _ _ => []
  | .homeWriteBack _ _ _ => []
  | .atomicAtHome _ => []
  | .hbmFill _ _ => []
  | .scaddUpdate _ _ => []
  | .pushDelivery _ => []
  | .typedBufferHandover _ _ _ => []
  | .matrixOpBegin _ => []
  | .mloopStepBoundary _ _ => []
  | .tlbWalkComplete _ _ _ => []
  | .replayAll _ => []
  | .refuse _ => []
  | .invPage _ => []
  | .invAsid _ => []
  | .invAll _ => []
  | .registerWrite _ _ _ => []
  | .windowFieldWrite _ _ _ => []
  | .windowEnable _ _ => []
  | .queueEnable _ => []
  | .queueSlotTaken _ => []
  | .launchBind _ => []
  | .clusterBind _ => []
  | .taskDelivery _ => []
  | .teamEnd _ _ => []
  | .contextSwitchOut _ => []
  | .streamOutComplete _ => []
  | .streamInComplete _ => []
  | .migration _ _ => []
  | .crossDieMigration _ _ => []
  | .controlInterval => []
  | .powerControlWrite _ _ _ => []
  | .lanternLit _ _ => []
  | .snuffEnd _ _ => []
  | .lanternDark _ _ => []
  | .powerGood => []
  | .firmwareVerify => []
  | .coreRelease => []
  | .restart => []
  | .correctedError => []
  | .uncorrectableError _ => []
  | .mgmtControlSpace _ _ _ _ => []
  | .mgmtRoutingId _ _ _ => []
  | .mgmtBootFlash _ _ _ => []
  | .attestationRequest _ _ => []
  | .fabricRead _ _ => []
  | .readResponse _ _ => []
  | .fabricWrite _ _ => []
  | .writeAcknowledgement _ => []
  | .fabricAtomic _ _ _ _ => []
  | .atomicResponse _ _ => []
  | .fabricReject _ => []
  | .managementResponse _ => []
  | .remoteTimeout _ => []
  | .reservedOpcode _ => []
  | .engineDelivery _ => []
  | .elementRequest _ _ => []
  | .streamOutBegin _ _ => []
  | .streamInBegin _ _ => []

/-- W must be 00 or 11. -/
def badW (w : BitVec 2) : Bool := w == 1 || w == 2
/-- W must be 01 or 10 (04 R101). -/
def badPack (w : BitVec 2) : Bool := w == 0 || w == 3
/-- Integer destinations accept OVF 00 and 11 (02 R39). -/
def badOvf (o : BitVec 2) : Bool := o == 1 || o == 2
/-- RM 100 to 111 are reserved (02 R32). -/
def badRm (r : BitVec 3) : Bool := decide (r.toNat ≥ 4)
/-- SCOPE 001 to 101 (R68). -/
def badScope (s : BitVec 3) : Bool := s == 0 || decide (s.toNat > 5)
/-- SCOPE die, pkg or sys (15 R298, 17 R334). -/
def badWide (s : BitVec 3) : Bool := decide (s.toNat < 3) || decide (s.toNat > 5)
/-- The ORD values that an atomic accepts (07 R162): `.ld` no release, `.st` no acquire. -/
def badOrd (op : BitVec 4) (ord : BitVec 2) : Bool := (op == 0 && ord == 2) || (op == 1 && ord == 1)
/-- The assigned system registers (12 R267). -/
def assignedSrn (n : Nat) : Bool :=
  n ≤ 7 || (0x10 ≤ n && n ≤ 0x17) || (0x20 ≤ n && n ≤ 0x27) || (0x30 ≤ n && n ≤ 0x39) || (0x100 ≤ n && n ≤ 0x102)

/-- A nonzero value in a field that this form of the instruction does not use (qualifier 2). DESIGN CHOICE (log 96): NW of ATOMS.st
is such a field (R64, R219). -/
def unusedSet : Instr → Bool
  | .hopr _ _ _ c rm ovf _ => (c == 3 || c == 4) && (rm != 0 || ovf != 0)
  | .br cond a b _ => cond == 6 && (a != 0 || b != 0)
  | .redux _ _ ty op rm ovf => !(ty == 2 && op == 0) && (rm != 0 || ovf != 0)
  | .atom d _ _ op _ _ _ _ => op == 1 && (d.r != 0 || d.nw)
  | .ldsx _ _ _ peer rank _ _ _ _ _ => !peer && rank != 0
  | .stsx _ _ _ peer rank _ _ _ _ => !peer && rank != 0
  | .atoms d _ _ c _ _ _ op peer rank => (!peer && rank != 0) || (op != 12 && c != 0) || (op == 1 && (d.r != 0 || d.nw))
  | .copy _ _ _ _ rm w ovf _ mode _ _ pfmt => (mode != 3 && (rm != 0 || ovf != 0 || pfmt != 0)) || ((mode == 0 || mode == 3) && w != 0)
  | _ => false

/-- A reserved value, or one the instruction does not accept, in a used field (qualifier 1). -/
def badValue : Instr → Bool
  | .shli _ _ imm => decide (imm.toNat ≥ 32)
  | .shri _ _ imm => decide (imm.toNat ≥ 32)
  | .sari _ _ imm => decide (imm.toNat ≥ 32)
  | .flags _ sc => decide (sc.toNat > 2)
  | .flgclr mask => decide (mask.toNat > 63)
  | .mad _ _ _ _ w u => badW w || (u && w == 0)
  | .bfe _ _ _ lenm1 pos => decide (pos.toNat + lenm1.toNat + 1 > 32)
  | .bfi _ _ _ lenm1 pos => decide (pos.toNat + lenm1.toNat + 1 > 32)
  | .leax _ _ _ ix _ _ => ix == 3
  | .clzw _ _ w => w == 3
  | .ffsw _ _ w => w == 3
  | .popcw _ _ w => w == 3
  | .padd _ _ _ w => badPack w
  | .psub _ _ _ w => badPack w
  | .padds _ _ _ w ovf _ => badPack w || badOvf ovf
  | .psubs _ _ _ w ovf _ => badPack w || badOvf ovf
  | .pmin _ _ _ w _ => badPack w
  | .pmax _ _ _ w _ => badPack w
  | .pmul _ _ _ w _ _ => badPack w
  | .pdot4 _ _ _ _ w _ _ => w != 2
  | .rqenc _ _ ovf => badOvf ovf
  | .cvti _ _ dt st ovf => decide (dt.toNat ≥ 8) || decide (st.toNat ≥ 8) || badOvf ovf
  | .ialui _ _ base _ => decide (base.toNat < 2) || decide (base.toNat > 0x16)
  | .falui _ _ base _ => decide (base.toNat < 0x30) || decide (base.toNat > 0x38)
  | .fopr _ _ _ c rm _ => decide (c.toNat < 0x30) || decide (c.toNat > 0x32) || badRm rm
  | .ffma _ _ _ _ rm _ => badRm rm
  | .frnd _ _ rm w => badRm rm || badW w
  | .fcvt _ _ dt st rm _ hi => decide (dt.toNat > 3) || decide (st.toNat > 3) || badRm rm || (hi && decide (st.toNat > 1))
  | .ftoi _ _ dt st rm ovf hi => decide (dt.toNat ≥ 8) || decide (st.toNat > 3) || badRm rm || badOvf ovf || (hi && decide (st.toNat > 1))
  | .itof _ _ dt st rm _ => decide (dt.toNat > 3) || decide (st.toNat ≥ 8) || badRm rm
  | .fdiv _ _ _ rm w _ => badW w || badRm rm
  | .fsqrt _ _ rm w _ => badW w || badRm rm
  | .dadd _ _ _ rm _ => badRm rm
  | .dsub _ _ _ rm _ => badRm rm
  | .dmul _ _ _ rm _ => badRm rm
  | .dfma _ _ _ _ rm _ => badRm rm
  | .dcmp _ _ _ c => decide (c.toNat > 3)
  | .hfma2 _ _ _ _ rm _ _ => badRm rm
  | .hopr _ _ _ c rm _ _ => decide (c.toNat > 4) || badRm rm
  | .jset bar => decide (bar.toNat > 15)
  | .jwait bar => decide (bar.toNat > 15)
  | .jdrop bar => decide (bar.toNat > 15)
  | .rep cnt _ => cnt == 0
  | .br cond _ _ _ => cond == 7
  | .shfl _ _ _ _ seg => decide (seg.toNat > 5)
  | .redux _ _ ty op rm _ => ty == 3 || decide (op.toNat > 5) || (ty == 2 && decide (op.toNat ≥ 3)) || badRm rm
  | .fence ord scope => ord == 0 || badScope scope
  | .flush _ scope => badScope scope
  | .inval _ scope => badScope scope
  | .pref _ lv => decide (lv.toNat > 1)
  | .ldgx _ _ _ _ _ xs sx w _ => (sx && (w == 0 || w == 3)) || (xs && (w != 0 || sx))
  | .stgx _ _ _ _ _ xs w _ => xs && w != 0
  | .atom _ _ _ op w scope ord _ => badW w || badScope scope || decide (op.toNat > 11) || badOrd op ord || (op == 11 && w == 3)
  | .cas _ _ _ _ w scope _ _ => badW w || badScope scope
  | .lds _ _ mode _ => mode == 3
  | .ldt _ _ buf xs _ => buf == 3 || (xs && buf == 2)
  | .stt _ _ buf xs _ => buf == 3 || (xs && buf == 2)
  | .qpop d => d.nw
  | .trap _ code => decide (code.toNat > 15)
  | .sysrd _ srn => !assignedSrn srn.toNat
  | .syswr _ srn => !assignedSrn srn.toNat
  | .clock _ ctr => decide (ctr.toNat > 1)
  | .ldsx _ _ _ _ rank mode sx w qw _ => mode == 3 || (sx && (w == 0 || w == 3)) || decide (qw.toNat ≥ 2) || (qw == 1 && (w != 0 || sx)) || decide (rank.toNat ≥ 12)
  | .stsx _ _ _ _ rank mode w qw _ => decide (mode.toNat ≥ 2) || decide (qw.toNat ≥ 2) || (qw == 1 && w != 0) || decide (rank.toNat ≥ 12)
  | .atoms _ _ _ _ w scope ord op _ _ => badW w || !(scope == 1 || scope == 2) || decide (op.toNat > 12) || badOrd op ord || (op == 11 && w == 3)
  | .copy _ _ _ _ rm w ovf scope mode dsp ssp pfmt => w == 3 || badRm rm || badScope scope || decide (dsp.toNat ≥ 4) || ssp == 3 || decide (ssp.toNat ≥ 5) || (mode == 3 && decide (pfmt.toNat ≥ 2) && badOvf ovf)
  | .mloop _ _ _ ct _ _ _ _ _ _ => ct.toNat % 2 == 1 || decide (ct.toNat > 14)
  | .mfold _ t => t.toNat % 2 == 1 || decide (t.toNat > 14)
  | .cvtdn _ _ t rm _ _ pfmt => decide (t.toNat > 15) || badRm rm || (decide (pfmt.toNat ≥ 2) && rm != 0)
  | .mzero _ t km1 => decide (t.toNat > 15) || decide (t.toNat + km1.toNat + 1 > 16)
  | .gather _ _ _ _ _ scope _ _ => badWide scope
  | .scatter _ _ _ _ _ scope _ _ => badWide scope
  | .scadd _ _ _ _ w scope ops _ _ _ => badWide scope || w != 0 || ops == 3
  | .substat _ _ clr _ => decide (clr.toNat > 1)
  | .lease _ kind _ => decide (kind.toNat > 1)
  | .mrg _ _ _ op w scope _ => decide (op.toNat > 4) || badW w || badWide scope
  | .nbrgrid _ _ _ scope _ => badWide scope
  | .nbrbin _ _ _ scope _ => badWide scope
  | .nbrpair _ _ _ scope _ => badWide scope
  | .nbrchk _ _ _ scope _ => badWide scope
  | .qput _ _ _ scope _ => badScope scope
  | .qdone _ _ _ scope => badScope scope
  | _ => false

/-- The NW misuse of R64 (qualifier 9): a destination named although it is not written. -/
def nwMisuse : Instr → Bool
  | .mov d _ => d.nw && d.r != 0
  | .add d _ _ => d.nw && d.r != 0
  | .sub d _ _ => d.nw && d.r != 0
  | .mullo d _ _ => d.nw && d.r != 0
  | .mulhi d _ _ => d.nw && d.r != 0
  | .mulhiu d _ _ => d.nw && d.r != 0
  | .and d _ _ => d.nw && d.r != 0
  | .or d _ _ => d.nw && d.r != 0
  | .xor d _ _ => d.nw && d.r != 0
  | .andn d _ _ => d.nw && d.r != 0
  | .shl d _ _ => d.nw && d.r != 0
  | .shr d _ _ => d.nw && d.r != 0
  | .sar d _ _ => d.nw && d.r != 0
  | .rol d _ _ => d.nw && d.r != 0
  | .min d _ _ => d.nw && d.r != 0
  | .max d _ _ => d.nw && d.r != 0
  | .minu d _ _ => d.nw && d.r != 0
  | .maxu d _ _ => d.nw && d.r != 0
  | .slt d _ _ => d.nw && d.r != 0
  | .sltu d _ _ => d.nw && d.r != 0
  | .seq d _ _ => d.nw && d.r != 0
  | .absd d _ _ => d.nw && d.r != 0
  | .clz d _ => d.nw && d.r != 0
  | .ffs d _ => d.nw && d.r != 0
  | .popc d _ => d.nw && d.r != 0
  | .brev d _ => d.nw && d.r != 0
  | .addi d _ _ => d.nw && d.r != 0
  | .shli d _ _ => d.nw && d.r != 0
  | .shri d _ _ => d.nw && d.r != 0
  | .sari d _ _ => d.nw && d.r != 0
  | .andi d _ _ => d.nw && d.r != 0
  | .lea d _ _ => d.nw && d.r != 0
  | .rqadd d _ _ => d.nw && d.r != 0
  | .rqsub d _ _ => d.nw && d.r != 0
  | .rqmul d _ _ => d.nw && d.r != 0
  | .rqdec d _ => d.nw && d.r != 0
  | .fadd d _ _ => d.nw && d.r != 0
  | .fsub d _ _ => d.nw && d.r != 0
  | .fmul d _ _ => d.nw && d.r != 0
  | .fmin d _ _ => d.nw && d.r != 0
  | .fmax d _ _ => d.nw && d.r != 0
  | .fslt d _ _ => d.nw && d.r != 0
  | .fsle d _ _ => d.nw && d.r != 0
  | .fseq d _ _ => d.nw && d.r != 0
  | .fsun d _ _ => d.nw && d.r != 0
  | .fneg d _ => d.nw && d.r != 0
  | .fabs d _ => d.nw && d.r != 0
  | .fclass d _ => d.nw && d.r != 0
  | .frcp d _ => d.nw && d.r != 0
  | .frsq d _ => d.nw && d.r != 0
  | .fex2 d _ => d.nw && d.r != 0
  | .flg2 d _ => d.nw && d.r != 0
  | .fsin d _ => d.nw && d.r != 0
  | .fcos d _ => d.nw && d.r != 0
  | .hadd2 d _ _ => d.nw && d.r != 0
  | .hmul2 d _ _ => d.nw && d.r != 0
  | .flags d _ => d.nw && d.r != 0
  | .movi d _ => d.nw && d.r != 0
  | .mad d _ _ _ _ _ => d.nw && d.r != 0
  | .sel d _ _ _ => d.nw && d.r != 0
  | .bfe d _ _ _ _ => d.nw && d.r != 0
  | .bfi d _ _ _ _ => d.nw && d.r != 0
  | .leax d _ _ _ _ _ => d.nw && d.r != 0
  | .clzw d _ _ => d.nw && d.r != 0
  | .ffsw d _ _ => d.nw && d.r != 0
  | .popcw d _ _ => d.nw && d.r != 0
  | .padd d _ _ _ => d.nw && d.r != 0
  | .psub d _ _ _ => d.nw && d.r != 0
  | .padds d _ _ _ _ _ => d.nw && d.r != 0
  | .psubs d _ _ _ _ _ => d.nw && d.r != 0
  | .pmin d _ _ _ _ => d.nw && d.r != 0
  | .pmax d _ _ _ _ => d.nw && d.r != 0
  | .pmul d _ _ _ _ _ => d.nw && d.r != 0
  | .pdot4 d _ _ _ _ _ _ => d.nw && d.r != 0
  | .rqmad d _ _ _ => d.nw && d.r != 0
  | .rqenc d _ _ => d.nw && d.r != 0
  | .cvti d _ _ _ _ => d.nw && d.r != 0
  | .ialui d _ _ _ => d.nw && d.r != 0
  | .falui d _ _ _ => d.nw && d.r != 0
  | .fopr d _ _ _ _ _ => d.nw && d.r != 0
  | .ffma d _ _ _ _ _ => d.nw && d.r != 0
  | .frnd d _ _ _ => d.nw && d.r != 0
  | .fcvt d _ _ _ _ _ _ => d.nw && d.r != 0
  | .ftoi d _ _ _ _ _ _ => d.nw && d.r != 0
  | .itof d _ _ _ _ _ => d.nw && d.r != 0
  | .fdiv d _ _ _ _ _ => d.nw && d.r != 0
  | .fsqrt d _ _ _ _ => d.nw && d.r != 0
  | .dadd d _ _ _ _ => d.nw && d.r != 0
  | .dsub d _ _ _ _ => d.nw && d.r != 0
  | .dmul d _ _ _ _ => d.nw && d.r != 0
  | .dfma d _ _ _ _ _ => d.nw && d.r != 0
  | .dcmp d _ _ _ => d.nw && d.r != 0
  | .hfma2 d _ _ _ _ _ _ => d.nw && d.r != 0
  | .hopr d _ _ _ _ _ _ => d.nw && d.r != 0
  | .callx d _ => d.nw && d.r != 0
  | .waitf d _ _ => d.nw && d.r != 0
  | .testf d _ => d.nw && d.r != 0
  | .movf d _ => d.nw && d.r != 0
  | .call d _ => d.nw && d.r != 0
  | .ballot d _ => d.nw && d.r != 0
  | .any d _ => d.nw && d.r != 0
  | .all d _ => d.nw && d.r != 0
  | .gpos d => d.nw && d.r != 0
  | .gsize d => d.nw && d.r != 0
  | .member d _ => d.nw && d.r != 0
  | .shfl d _ _ _ _ => d.nw && d.r != 0
  | .redux d _ _ _ _ _ => d.nw && d.r != 0
  | .ldg d _ _ => d.nw && d.r != 0
  | .ldk d _ _ => d.nw && d.r != 0
  | .ldgx d _ _ _ _ _ _ _ _ => d.nw && d.r != 0
  | .atom d _ _ _ _ _ _ _ => d.nw && d.r != 0
  | .cas d _ _ _ _ _ _ _ => d.nw && d.r != 0
  | .lds d _ _ _ => d.nw && d.r != 0
  | .fetest d _ => d.nw && d.r != 0
  | .ldf d _ _ => d.nw && d.r != 0
  | .ldt d _ _ _ _ => d.nw && d.r != 0
  | .qpop d => d.nw && d.r != 0
  | .sysrd d _ => d.nw && d.r != 0
  | .clock d _ => d.nw && d.r != 0
  | .ldsx d _ _ _ _ _ _ _ _ _ => d.nw && d.r != 0
  | .atoms d _ _ _ _ _ _ _ _ _ => d.nw && d.r != 0
  | .copy d _ _ _ _ _ _ _ _ _ _ _ => d.nw && d.r != 0
  | .mloop d _ _ _ _ _ _ _ _ _ => d.nw && d.r != 0
  | .mfold d _ => d.nw && d.r != 0
  | .cvtdn d _ _ _ _ _ _ => d.nw && d.r != 0
  | .mzero d _ _ => d.nw && d.r != 0
  | .gather d _ _ _ _ _ _ _ => d.nw && d.r != 0
  | .scatter d _ _ _ _ _ _ _ => d.nw && d.r != 0
  | .scadd d _ _ _ _ _ _ _ _ _ => d.nw && d.r != 0
  | .stand d _ _ _ => d.nw && d.r != 0
  | .unstand d _ _ => d.nw && d.r != 0
  | .substat d _ _ _ => d.nw && d.r != 0
  | .lease d _ _ => d.nw && d.r != 0
  | .unlease d _ => d.nw && d.r != 0
  | .mrg d _ _ _ _ _ _ => d.nw && d.r != 0
  | .lstat d _ => d.nw && d.r != 0
  | .nbrgrid d _ _ _ _ => d.nw && d.r != 0
  | .nbrbin d _ _ _ _ => d.nw && d.r != 0
  | .nbrpair d _ _ _ _ => d.nw && d.r != 0
  | .nbrchk d _ _ _ _ => d.nw && d.r != 0
  | .qput d _ _ _ _ => d.nw && d.r != 0
  | .qdone d _ _ _ => d.nw && d.r != 0
  | _ => false

/-- A select in the reserved ranges of R65, or a constant where only a register may stand. A field that its instruction describes as
"register or integer constant" (07 R158, R161, R162 and others) accepts an FP32 constant too and delivers its pattern, as R65 has
every field do: DESIGN CHOICE (log 81). -/
def badSelect (o : Opd) : Bool :=
  (0x84 ≤ o.sel.toNat && o.sel.toNat < 0x90) || decide (0xC0 ≤ o.sel.toNat) || (o.regOnly && decide (0x90 ≤ o.sel.toNat))

/-- Whether a select names a latch. -/
def Opd.isLatch (o : Opd) : Bool := decide (0x80 ≤ o.sel.toNat) && decide (o.sel.toNat < 0x84)

/-- The classes whose clauses hold latches (R70). -/
def Cls.latched : Cls → Bool
  | .alu | .sfu | .xl => true
  | _ => false

/-- The class of an instruction; events have none and read as `any`. -/
def insCls (i : Instr) : Cls := ((opcode i).bind opClass).getD .any

/-- An F64 instruction, or a conversion, FRND, FDIV or FSQRT one of whose operands or result is 64 bits wide: no position of it accepts
a latch (05 R110; that the result counts is DEDUCED, log 82). -/
def wideFloat : Instr → Bool
  | .dadd _ _ _ _ _ | .dsub _ _ _ _ _ | .dmul _ _ _ _ _ | .dfma _ _ _ _ _ _ | .dcmp _ _ _ _ => true
  | .frnd _ _ _ w | .fdiv _ _ _ _ w _ | .fsqrt _ _ _ w _ => w == 3
  | .fcvt _ _ dt st _ _ _ => fltWords dt == 2 || fltWords st == 2
  | .ftoi _ _ dt st _ _ _ => intWords dt == 2 || fltWords st == 2
  | .itof _ _ dt st _ _ => fltWords dt == 2 || intWords st == 2
  | _ => false

/-- Latch misuse that the instruction shows by itself (R67, R71, 05 R110, 06 R150): a latch in a position wider than 32 bits or
for a register only, in any position of an F64 instruction, or in an instruction of class MEM, ENG or SYS. -/
def badLatch (i : Instr) : Bool :=
  (opds i).any fun o => o.isLatch &&
    (o.words != 1 || o.regOnly || wideFloat i || !((insCls i).latched || insCls i == .ctrl))

/-- The first encoding fault that an instruction shows by itself, as an ILLEGAL qualifier, in the order of R80. -/
def encodingFault (i : Instr) : Option Nat :=
  if unusedSet i then some 2
  else if badValue i || (opds i).any badSelect then some 1
  else if nwMisuse i then some 9
  else if badLatch i then some 5
  else none

end Sys2Proof.Machine
end

