-- ==== Sys2Proof/WellFormed.lean ====
section
/-! DEFINITION. Which instructions an encoding of the spec can hold without an ILLEGAL fault of its own (03 R79, R80). -/

namespace Sys2Proof

/-- The rows of the table that a program word can hold; RESERVED_OPCODE stands for every reserved word (03 R81). -/
def Instr.isEvent (i : Instr) : Bool := (Machine.opcode i).isNone

/-- The events that an agenda may name: RESERVED_OPCODE is a word of a program. -/
def Instr.isTurn : Instr → Bool
  | .reservedOpcode _ => false
  | i => i.isEvent

/-- A SYSWR that is not one of the two rows the table names for themselves, FLOGPOP and ABORT (12 R267). -/
def Instr.ownRow : Instr → Bool
  | .syswr _ srn => srn != 0x0039#16 && srn != 0x0102#16
  | _ => true

/-- Well-formed: an instruction of the opcode map whose words raise no encoding fault of qualifiers 2, 1, 9 or 5. -/
def Instr.wellFormed (i : Instr) : Bool := !i.isEvent && i.ownRow && (Machine.encodingFault i).isNone

end Sys2Proof
end

