-- ==== Sys2Proof/Decode.lean ====
section
/-! DEFINITION. Decoding and encoding of instruction words (03 R63, R68, R81, and each instruction's own table). -/

namespace Sys2Proof

/-- A word from its fields, each a value and the position of its lowest bit. -/
def packFields (l : List (Nat × Nat)) : Word := BitVec.ofNat 32 (l.foldr (fun f n => f.1 * 2 ^ f.2 + n) 0)

/-- The words of an instruction: each field times the weight of its lowest bit. An event has none. -/
def encode : Instr → List Word
  | .nop => [packFields [(0x00, 24)]]
  | .mov d a => [packFields [(0x01, 24), (d.r.toNat, 17), (d.nw.toNat, 16), (a.toNat, 8)]]
  | .add d a b => [packFields [(0x02, 24), (d.r.toNat, 17), (d.nw.toNat, 16), (a.toNat, 8), (b.toNat, 0)]]
  | .sub d a b => [packFields [(0x03, 24), (d.r.toNat, 17), (d.nw.toNat, 16), (a.toNat, 8), (b.toNat, 0)]]
  | .mullo d a b => [packFields [(0x04, 24), (d.r.toNat, 17), (d.nw.toNat, 16), (a.toNat, 8), (b.toNat, 0)]]
  | .mulhi d a b => [packFields [(0x05, 24), (d.r.toNat, 17), (d.nw.toNat, 16), (a.toNat, 8), (b.toNat, 0)]]
  | .mulhiu d a b => [packFields [(0x06, 24), (d.r.toNat, 17), (d.nw.toNat, 16), (a.toNat, 8), (b.toNat, 0)]]
  | .and d a b => [packFields [(0x07, 24), (d.r.toNat, 17), (d.nw.toNat, 16), (a.toNat, 8), (b.toNat, 0)]]
  | .or d a b => [packFields [(0x08, 24), (d.r.toNat, 17), (d.nw.toNat, 16), (a.toNat, 8), (b.toNat, 0)]]
  | .xor d a b => [packFields [(0x09, 24), (d.r.toNat, 17), (d.nw.toNat, 16), (a.toNat, 8), (b.toNat, 0)]]
  | .andn d a b => [packFields [(0x0A, 24), (d.r.toNat, 17), (d.nw.toNat, 16), (a.toNat, 8), (b.toNat, 0)]]
  | .shl d a b => [packFields [(0x0B, 24), (d.r.toNat, 17), (d.nw.toNat, 16), (a.toNat, 8), (b.toNat, 0)]]
  | .shr d a b => [packFields [(0x0C, 24), (d.r.toNat, 17), (d.nw.toNat, 16), (a.toNat, 8), (b.toNat, 0)]]
  | .sar d a b => [packFields [(0x0D, 24), (d.r.toNat, 17), (d.nw.toNat, 16), (a.toNat, 8), (b.toNat, 0)]]
  | .rol d a b => [packFields [(0x0E, 24), (d.r.toNat, 17), (d.nw.toNat, 16), (a.toNat, 8), (b.toNat, 0)]]
  | .min d a b => [packFields [(0x0F, 24), (d.r.toNat, 17), (d.nw.toNat, 16), (a.toNat, 8), (b.toNat, 0)]]
  | .max d a b => [packFields [(0x10, 24), (d.r.toNat, 17), (d.nw.toNat, 16), (a.toNat, 8), (b.toNat, 0)]]
  | .minu d a b => [packFields [(0x11, 24), (d.r.toNat, 17), (d.nw.toNat, 16), (a.toNat, 8), (b.toNat, 0)]]
  | .maxu d a b => [packFields [(0x12, 24), (d.r.toNat, 17), (d.nw.toNat, 16), (a.toNat, 8), (b.toNat, 0)]]
  | .slt d a b => [packFields [(0x13, 24), (d.r.toNat, 17), (d.nw.toNat, 16), (a.toNat, 8), (b.toNat, 0)]]
  | .sltu d a b => [packFields [(0x14, 24), (d.r.toNat, 17), (d.nw.toNat, 16), (a.toNat, 8), (b.toNat, 0)]]
  | .seq d a b => [packFields [(0x15, 24), (d.r.toNat, 17), (d.nw.toNat, 16), (a.toNat, 8), (b.toNat, 0)]]
  | .absd d a b => [packFields [(0x16, 24), (d.r.toNat, 17), (d.nw.toNat, 16), (a.toNat, 8), (b.toNat, 0)]]
  | .clz d a => [packFields [(0x17, 24), (d.r.toNat, 17), (d.nw.toNat, 16), (a.toNat, 8)]]
  | .ffs d a => [packFields [(0x18, 24), (d.r.toNat, 17), (d.nw.toNat, 16), (a.toNat, 8)]]
  | .popc d a => [packFields [(0x19, 24), (d.r.toNat, 17), (d.nw.toNat, 16), (a.toNat, 8)]]
  | .brev d a => [packFields [(0x1A, 24), (d.r.toNat, 17), (d.nw.toNat, 16), (a.toNat, 8)]]
  | .addi d a imm => [packFields [(0x1B, 24), (d.r.toNat, 17), (d.nw.toNat, 16), (a.toNat, 8), (imm.toNat, 0)]]
  | .shli d a imm => [packFields [(0x1C, 24), (d.r.toNat, 17), (d.nw.toNat, 16), (a.toNat, 8), (imm.toNat, 0)]]
  | .shri d a imm => [packFields [(0x1D, 24), (d.r.toNat, 17), (d.nw.toNat, 16), (a.toNat, 8), (imm.toNat, 0)]]
  | .sari d a imm => [packFields [(0x1E, 24), (d.r.toNat, 17), (d.nw.toNat, 16), (a.toNat, 8), (imm.toNat, 0)]]
  | .andi d a imm => [packFields [(0x1F, 24), (d.r.toNat, 17), (d.nw.toNat, 16), (a.toNat, 8), (imm.toNat, 0)]]
  | .lea d a b => [packFields [(0x20, 24), (d.r.toNat, 17), (d.nw.toNat, 16), (a.toNat, 8), (b.toNat, 0)]]
  | .rqadd d a b => [packFields [(0x21, 24), (d.r.toNat, 17), (d.nw.toNat, 16), (a.toNat, 8), (b.toNat, 0)]]
  | .rqsub d a b => [packFields [(0x22, 24), (d.r.toNat, 17), (d.nw.toNat, 16), (a.toNat, 8), (b.toNat, 0)]]
  | .rqmul d a b => [packFields [(0x23, 24), (d.r.toNat, 17), (d.nw.toNat, 16), (a.toNat, 8), (b.toNat, 0)]]
  | .rqdec d a => [packFields [(0x24, 24), (d.r.toNat, 17), (d.nw.toNat, 16), (a.toNat, 8)]]
  | .fadd d a b => [packFields [(0x30, 24), (d.r.toNat, 17), (d.nw.toNat, 16), (a.toNat, 8), (b.toNat, 0)]]
  | .fsub d a b => [packFields [(0x31, 24), (d.r.toNat, 17), (d.nw.toNat, 16), (a.toNat, 8), (b.toNat, 0)]]
  | .fmul d a b => [packFields [(0x32, 24), (d.r.toNat, 17), (d.nw.toNat, 16), (a.toNat, 8), (b.toNat, 0)]]
  | .fmin d a b => [packFields [(0x33, 24), (d.r.toNat, 17), (d.nw.toNat, 16), (a.toNat, 8), (b.toNat, 0)]]
  | .fmax d a b => [packFields [(0x34, 24), (d.r.toNat, 17), (d.nw.toNat, 16), (a.toNat, 8), (b.toNat, 0)]]
  | .fslt d a b => [packFields [(0x35, 24), (d.r.toNat, 17), (d.nw.toNat, 16), (a.toNat, 8), (b.toNat, 0)]]
  | .fsle d a b => [packFields [(0x36, 24), (d.r.toNat, 17), (d.nw.toNat, 16), (a.toNat, 8), (b.toNat, 0)]]
  | .fseq d a b => [packFields [(0x37, 24), (d.r.toNat, 17), (d.nw.toNat, 16), (a.toNat, 8), (b.toNat, 0)]]
  | .fsun d a b => [packFields [(0x38, 24), (d.r.toNat, 17), (d.nw.toNat, 16), (a.toNat, 8), (b.toNat, 0)]]
  | .fneg d a => [packFields [(0x39, 24), (d.r.toNat, 17), (d.nw.toNat, 16), (a.toNat, 8)]]
  | .fabs d a => [packFields [(0x3A, 24), (d.r.toNat, 17), (d.nw.toNat, 16), (a.toNat, 8)]]
  | .fclass d a => [packFields [(0x3B, 24), (d.r.toNat, 17), (d.nw.toNat, 16), (a.toNat, 8)]]
  | .frcp d a => [packFields [(0x3C, 24), (d.r.toNat, 17), (d.nw.toNat, 16), (a.toNat, 8)]]
  | .frsq d a => [packFields [(0x3D, 24), (d.r.toNat, 17), (d.nw.toNat, 16), (a.toNat, 8)]]
  | .fex2 d a => [packFields [(0x3E, 24), (d.r.toNat, 17), (d.nw.toNat, 16), (a.toNat, 8)]]
  | .flg2 d a => [packFields [(0x3F, 24), (d.r.toNat, 17), (d.nw.toNat, 16), (a.toNat, 8)]]
  | .fsin d a => [packFields [(0x40, 24), (d.r.toNat, 17), (d.nw.toNat, 16), (a.toNat, 8)]]
  | .fcos d a => [packFields [(0x41, 24), (d.r.toNat, 17), (d.nw.toNat, 16), (a.toNat, 8)]]
  | .hadd2 d a b => [packFields [(0x42, 24), (d.r.toNat, 17), (d.nw.toNat, 16), (a.toNat, 8), (b.toNat, 0)]]
  | .hmul2 d a b => [packFields [(0x43, 24), (d.r.toNat, 17), (d.nw.toNat, 16), (a.toNat, 8), (b.toNat, 0)]]
  | .flags d sc => [packFields [(0x44, 24), (d.r.toNat, 17), (d.nw.toNat, 16), (sc.toNat, 0)]]
  | .flgclr mask => [packFields [(0x45, 24), (mask.toNat, 0)]]
  | .movi d imm => [packFields [(0x80, 24), (d.r.toNat, 17), (d.nw.toNat, 16)], packFields [(imm.toNat, 0)]]
  | .mad d a b c w u => [packFields [(0x81, 24), (d.r.toNat, 17), (d.nw.toNat, 16), (a.toNat, 8), (b.toNat, 0)], packFields [(c.toNat, 24), (w.toNat, 19), (u.toNat, 0)]]
  | .sel d a b c => [packFields [(0x82, 24), (d.r.toNat, 17), (d.nw.toNat, 16), (a.toNat, 8), (b.toNat, 0)], packFields [(c.toNat, 24)]]
  | .bfe d a sx lenm1 pos => [packFields [(0x83, 24), (d.r.toNat, 17), (d.nw.toNat, 16), (a.toNat, 8)], packFields [(sx.toNat, 10), (lenm1.toNat, 5), (pos.toNat, 0)]]
  | .bfi d a b lenm1 pos => [packFields [(0x84, 24), (d.r.toNat, 17), (d.nw.toNat, 16), (a.toNat, 8), (b.toNat, 0)], packFields [(lenm1.toNat, 5), (pos.toNat, 0)]]
  | .leax d a b ix sh imm => [packFields [(0x85, 24), (d.r.toNat, 17), (d.nw.toNat, 16), (a.toNat, 8), (b.toNat, 0)], packFields [(ix.toNat, 28), (sh.toNat, 24), (imm.toNat, 0)]]
  | .clzw d a w => [packFields [(0x86, 24), (d.r.toNat, 17), (d.nw.toNat, 16), (a.toNat, 8)], packFields [(w.toNat, 19)]]
  | .ffsw d a w => [packFields [(0x87, 24), (d.r.toNat, 17), (d.nw.toNat, 16), (a.toNat, 8)], packFields [(w.toNat, 19)]]
  | .popcw d a w => [packFields [(0x88, 24), (d.r.toNat, 17), (d.nw.toNat, 16), (a.toNat, 8)], packFields [(w.toNat, 19)]]
  | .padd d a b w => [packFields [(0x89, 24), (d.r.toNat, 17), (d.nw.toNat, 16), (a.toNat, 8), (b.toNat, 0)], packFields [(w.toNat, 19)]]
  | .psub d a b w => [packFields [(0x8A, 24), (d.r.toNat, 17), (d.nw.toNat, 16), (a.toNat, 8), (b.toNat, 0)], packFields [(w.toNat, 19)]]
  | .padds d a b w ovf u => [packFields [(0x8B, 24), (d.r.toNat, 17), (d.nw.toNat, 16), (a.toNat, 8), (b.toNat, 0)], packFields [(w.toNat, 19), (ovf.toNat, 17), (u.toNat, 0)]]
  | .psubs d a b w ovf u => [packFields [(0x8C, 24), (d.r.toNat, 17), (d.nw.toNat, 16), (a.toNat, 8), (b.toNat, 0)], packFields [(w.toNat, 19), (ovf.toNat, 17), (u.toNat, 0)]]
  | .pmin d a b w u => [packFields [(0x8D, 24), (d.r.toNat, 17), (d.nw.toNat, 16), (a.toNat, 8), (b.toNat, 0)], packFields [(w.toNat, 19), (u.toNat, 0)]]
  | .pmax d a b w u => [packFields [(0x8E, 24), (d.r.toNat, 17), (d.nw.toNat, 16), (a.toNat, 8), (b.toNat, 0)], packFields [(w.toNat, 19), (u.toNat, 0)]]
  | .pmul d a b w hi u => [packFields [(0x8F, 24), (d.r.toNat, 17), (d.nw.toNat, 16), (a.toNat, 8), (b.toNat, 0)], packFields [(w.toNat, 19), (hi.toNat, 1), (u.toNat, 0)]]
  | .pdot4 d a b c w ub ua => [packFields [(0x90, 24), (d.r.toNat, 17), (d.nw.toNat, 16), (a.toNat, 8), (b.toNat, 0)], packFields [(c.toNat, 24), (w.toNat, 19), (ub.toNat, 1), (ua.toNat, 0)]]
  | .rqmad d a b c => [packFields [(0x91, 24), (d.r.toNat, 17), (d.nw.toNat, 16), (a.toNat, 8), (b.toNat, 0)], packFields [(c.toNat, 24)]]
  | .rqenc d a ovf => [packFields [(0x92, 24), (d.r.toNat, 17), (d.nw.toNat, 16), (a.toNat, 8)], packFields [(ovf.toNat, 17)]]
  | .cvti d a dt st ovf => [packFields [(0x93, 24), (d.r.toNat, 17), (d.nw.toNat, 16), (a.toNat, 8)], packFields [(dt.toNat, 28), (st.toNat, 24), (ovf.toNat, 17)]]
  | .ialui d a base imm => [packFields [(0x94, 24), (d.r.toNat, 17), (d.nw.toNat, 16), (a.toNat, 8), (base.toNat, 0)], packFields [(imm.toNat, 0)]]
  | .falui d a base imm => [packFields [(0x98, 24), (d.r.toNat, 17), (d.nw.toNat, 16), (a.toNat, 8), (base.toNat, 0)], packFields [(imm.toNat, 0)]]
  | .fopr d a b c rm ovf => [packFields [(0x99, 24), (d.r.toNat, 17), (d.nw.toNat, 16), (a.toNat, 8), (b.toNat, 0)], packFields [(c.toNat, 24), (rm.toNat, 21), (ovf.toNat, 17)]]
  | .ffma d a b c rm ovf => [packFields [(0x9A, 24), (d.r.toNat, 17), (d.nw.toNat, 16), (a.toNat, 8), (b.toNat, 0)], packFields [(c.toNat, 24), (rm.toNat, 21), (ovf.toNat, 17)]]
  | .frnd d a rm w => [packFields [(0x9B, 24), (d.r.toNat, 17), (d.nw.toNat, 16), (a.toNat, 8)], packFields [(rm.toNat, 21), (w.toNat, 19)]]
  | .fcvt d a dt st rm ovf hi => [packFields [(0x9C, 24), (d.r.toNat, 17), (d.nw.toNat, 16), (a.toNat, 8)], packFields [(dt.toNat, 28), (st.toNat, 24), (rm.toNat, 21), (ovf.toNat, 17), (hi.toNat, 0)]]
  | .ftoi d a dt st rm ovf hi => [packFields [(0x9D, 24), (d.r.toNat, 17), (d.nw.toNat, 16), (a.toNat, 8)], packFields [(dt.toNat, 28), (st.toNat, 24), (rm.toNat, 21), (ovf.toNat, 17), (hi.toNat, 0)]]
  | .itof d a dt st rm ovf => [packFields [(0x9E, 24), (d.r.toNat, 17), (d.nw.toNat, 16), (a.toNat, 8)], packFields [(dt.toNat, 28), (st.toNat, 24), (rm.toNat, 21), (ovf.toNat, 17)]]
  | .fdiv d a b rm w ovf => [packFields [(0x9F, 24), (d.r.toNat, 17), (d.nw.toNat, 16), (a.toNat, 8), (b.toNat, 0)], packFields [(rm.toNat, 21), (w.toNat, 19), (ovf.toNat, 17)]]
  | .fsqrt d a rm w ovf => [packFields [(0xA0, 24), (d.r.toNat, 17), (d.nw.toNat, 16), (a.toNat, 8)], packFields [(rm.toNat, 21), (w.toNat, 19), (ovf.toNat, 17)]]
  | .dadd d a b rm ovf => [packFields [(0xA1, 24), (d.r.toNat, 17), (d.nw.toNat, 16), (a.toNat, 8), (b.toNat, 0)], packFields [(rm.toNat, 21), (ovf.toNat, 17)]]
  | .dsub d a b rm ovf => [packFields [(0xA2, 24), (d.r.toNat, 17), (d.nw.toNat, 16), (a.toNat, 8), (b.toNat, 0)], packFields [(rm.toNat, 21), (ovf.toNat, 17)]]
  | .dmul d a b rm ovf => [packFields [(0xA3, 24), (d.r.toNat, 17), (d.nw.toNat, 16), (a.toNat, 8), (b.toNat, 0)], packFields [(rm.toNat, 21), (ovf.toNat, 17)]]
  | .dfma d a b c rm ovf => [packFields [(0xA4, 24), (d.r.toNat, 17), (d.nw.toNat, 16), (a.toNat, 8), (b.toNat, 0)], packFields [(c.toNat, 24), (rm.toNat, 21), (ovf.toNat, 17)]]
  | .dcmp d a b c => [packFields [(0xA5, 24), (d.r.toNat, 17), (d.nw.toNat, 16), (a.toNat, 8), (b.toNat, 0)], packFields [(c.toNat, 24)]]
  | .hfma2 d a b c rm ovf fmt => [packFields [(0xA6, 24), (d.r.toNat, 17), (d.nw.toNat, 16), (a.toNat, 8), (b.toNat, 0)], packFields [(c.toNat, 24), (rm.toNat, 21), (ovf.toNat, 17), (fmt.toNat, 0)]]
  | .hopr d a b c rm ovf fmt => [packFields [(0xA7, 24), (d.r.toNat, 17), (d.nw.toNat, 16), (a.toNat, 8), (b.toNat, 0)], packFields [(c.toNat, 24), (rm.toNat, 21), (ovf.toNat, 17), (fmt.toNat, 0)]]
  | .brx a => [packFields [(0x50, 24), (a.toNat, 8)]]
  | .callx d a => [packFields [(0x51, 24), (d.r.toNat, 17), (d.nw.toNat, 16), (a.toNat, 8)]]
  | .ret a => [packFields [(0x52, 24), (a.toNat, 8)]]
  | .jset bar => [packFields [(0x53, 24), (bar.toNat, 0)]]
  | .jwait bar => [packFields [(0x54, 24), (bar.toNat, 0)]]
  | .jdrop bar => [packFields [(0x55, 24), (bar.toNat, 0)]]
  | .yield => [packFields [(0x56, 24)]]
  | .exit => [packFields [(0x57, 24)]]
  | .rep cnt st => [packFields [(0x58, 24), (cnt.toNat, 8), (st.toNat, 0)]]
  | .waitf d a chk => [packFields [(0x59, 24), (d.r.toNat, 17), (d.nw.toNat, 16), (a.toNat, 8), (chk.toNat, 0)]]
  | .testf d a => [packFields [(0x5A, 24), (d.r.toNat, 17), (d.nw.toNat, 16), (a.toNat, 8)]]
  | .cancelf a rel => [packFields [(0x5B, 24), (a.toNat, 8), (rel.toNat, 0)]]
  | .movf d a => [packFields [(0x5C, 24), (d.r.toNat, 17), (d.nw.toNat, 16), (a.toNat, 8)]]
  | .br cond a b disp => [packFields [(0xB0, 24), (cond.toNat, 21), (a.toNat, 8), (b.toNat, 0)], packFields [(disp.toNat, 0)]]
  | .call d disp => [packFields [(0xB1, 24), (d.r.toNat, 17), (d.nw.toNat, 16)], packFields [(disp.toNat, 0)]]
  | .ballot d a => [packFields [(0x60, 24), (d.r.toNat, 17), (d.nw.toNat, 16), (a.toNat, 8)]]
  | .any d a => [packFields [(0x61, 24), (d.r.toNat, 17), (d.nw.toNat, 16), (a.toNat, 8)]]
  | .all d a => [packFields [(0x62, 24), (d.r.toNat, 17), (d.nw.toNat, 16), (a.toNat, 8)]]
  | .gpos d => [packFields [(0x63, 24), (d.r.toNat, 17), (d.nw.toNat, 16)]]
  | .gsize d => [packFields [(0x64, 24), (d.r.toNat, 17), (d.nw.toNat, 16)]]
  | .member d a => [packFields [(0x65, 24), (d.r.toNat, 17), (d.nw.toNat, 16), (a.toNat, 8)]]
  | .shfl d a b mode seg => [packFields [(0xB8, 24), (d.r.toNat, 17), (d.nw.toNat, 16), (a.toNat, 8), (b.toNat, 0)], packFields [(mode.toNat, 24), (seg.toNat, 0)]]
  | .redux d a ty op rm ovf => [packFields [(0xB9, 24), (d.r.toNat, 17), (d.nw.toNat, 16), (a.toNat, 8)], packFields [(ty.toNat, 28), (op.toNat, 24), (rm.toNat, 21), (ovf.toNat, 17)]]
  | .ldg d a off => [packFields [(0x68, 24), (d.r.toNat, 17), (d.nw.toNat, 16), (a.toNat, 8), (off.toNat, 0)]]
  | .stg rs a off => [packFields [(0x69, 24), (rs.toNat, 17), (a.toNat, 8), (off.toNat, 0)]]
  | .ldk d a off => [packFields [(0x6A, 24), (d.r.toNat, 17), (d.nw.toNat, 16), (a.toNat, 8), (off.toNat, 0)]]
  | .fence ord scope => [packFields [(0x6B, 24), (ord.toNat, 4), (scope.toNat, 0)]]
  | .flush a scope => [packFields [(0x6C, 24), (a.toNat, 8), (scope.toNat, 0)]]
  | .inval a scope => [packFields [(0x6D, 24), (a.toNat, 8), (scope.toNat, 0)]]
  | .pref a lv => [packFields [(0x6E, 24), (a.toNat, 8), (lv.toNat, 0)]]
  | .ldgx d a b scl na xs sx w imm => [packFields [(0xC0, 24), (d.r.toNat, 17), (d.nw.toNat, 16), (a.toNat, 8), (b.toNat, 0)], packFields [(scl.toNat, 28), (na.toNat, 26), (xs.toNat, 25), (sx.toNat, 24), (w.toNat, 19), (imm.toNat, 0)]]
  | .stgx rs a b scl na xs w imm => [packFields [(0xC1, 24), (rs.toNat, 17), (a.toNat, 8), (b.toNat, 0)], packFields [(scl.toNat, 28), (na.toNat, 26), (xs.toNat, 25), (w.toNat, 19), (imm.toNat, 0)]]
  | .atom d a b op w scope ord imm => [packFields [(0xC2, 24), (d.r.toNat, 17), (d.nw.toNat, 16), (a.toNat, 8), (b.toNat, 0)], packFields [(op.toNat, 24), (w.toNat, 19), (scope.toNat, 14), (ord.toNat, 12), (imm.toNat, 0)]]
  | .cas d a b c w scope ord imm => [packFields [(0xC3, 24), (d.r.toNat, 17), (d.nw.toNat, 16), (a.toNat, 8), (b.toNat, 0)], packFields [(c.toNat, 24), (w.toNat, 19), (scope.toNat, 14), (ord.toNat, 12), (imm.toNat, 0)]]
  | .lds d a mode off => [packFields [(0x70, 24), (d.r.toNat, 17), (d.nw.toNat, 16), (a.toNat, 8), (mode.toNat, 6), (off.toNat, 0)]]
  | .sts rs fill a off => [packFields [(0x71, 24), (rs.toNat, 17), (fill.toNat, 16), (a.toNat, 8), (off.toNat, 0)]]
  | .feset clr a b => [packFields [(0x72, 24), (clr.toNat, 16), (a.toNat, 8), (b.toNat, 0)]]
  | .fetest d a => [packFields [(0x73, 24), (d.r.toNat, 17), (d.nw.toNat, 16), (a.toNat, 8)]]
  | .stf rs a off => [packFields [(0x74, 24), (rs.toNat, 17), (a.toNat, 8), (off.toNat, 0)]]
  | .ldf d a off => [packFields [(0x75, 24), (d.r.toNat, 17), (d.nw.toNat, 16), (a.toNat, 8), (off.toNat, 0)]]
  | .ldt d a buf xs off => [packFields [(0x76, 24), (d.r.toNat, 17), (d.nw.toNat, 16), (a.toNat, 8), (buf.toNat, 6), (xs.toNat, 5), (off.toNat, 0)]]
  | .stt rs a buf xs off => [packFields [(0x77, 24), (rs.toNat, 17), (a.toNat, 8), (buf.toNat, 6), (xs.toNat, 5), (off.toNat, 0)]]
  | .qpop d => [packFields [(0x78, 24), (d.r.toNat, 17), (d.nw.toNat, 16)]]
  | .trap a code => [packFields [(0x79, 24), (a.toNat, 8), (code.toNat, 0)]]
  | .tret => [packFields [(0x7A, 24)]]
  | .sysrd d srn => [packFields [(0x7B, 24), (d.r.toNat, 17), (d.nw.toNat, 16), (srn.toNat, 0)]]
  | .syswr rs srn => [packFields [(0x7C, 24), (rs.toNat, 17), (srn.toNat, 0)]]
  | .flogpop rs => [packFields [(0x7C, 24), (rs.toNat, 17), (0x39, 0)]]
  | .abort rs => [packFields [(0x7C, 24), (rs.toNat, 17), (0x102, 0)]]
  | .clock d ctr => [packFields [(0x7D, 24), (d.r.toNat, 17), (d.nw.toNat, 16), (ctr.toNat, 0)]]
  | .bkpt code => [packFields [(0x7E, 24), (code.toNat, 0)]]
  | .ldsx d a b peer rank mode sx w qw imm => [packFields [(0xC8, 24), (d.r.toNat, 17), (d.nw.toNat, 16), (a.toNat, 8), (b.toNat, 0)], packFields [(peer.toNat, 31), (rank.toNat, 27), (mode.toNat, 25), (sx.toNat, 24), (w.toNat, 19), (qw.toNat, 17), (imm.toNat, 0)]]
  | .stsx rs a b peer rank mode w qw imm => [packFields [(0xC9, 24), (rs.toNat, 17), (a.toNat, 8), (b.toNat, 0)], packFields [(peer.toNat, 31), (rank.toNat, 27), (mode.toNat, 25), (w.toNat, 19), (qw.toNat, 17), (imm.toNat, 0)]]
  | .atoms d a b c w scope ord op peer rank => [packFields [(0xCA, 24), (d.r.toNat, 17), (d.nw.toNat, 16), (a.toNat, 8), (b.toNat, 0)], packFields [(c.toNat, 24), (w.toNat, 19), (scope.toNat, 14), (ord.toNat, 12), (op.toNat, 8), (peer.toNat, 7), (rank.toNat, 3)]]
  | .copy d a b c rm w ovf scope mode dsp ssp pfmt => [packFields [(0xCB, 24), (d.r.toNat, 17), (d.nw.toNat, 16), (a.toNat, 8), (b.toNat, 0)], packFields [(c.toNat, 24), (rm.toNat, 21), (w.toNat, 19), (ovf.toNat, 17), (scope.toNat, 14), (mode.toNat, 10), (dsp.toNat, 7), (ssp.toNat, 4), (pfmt.toNat, 2)]]
  | .mloop d a b ct ainc winc fmt fin zero steps => [packFields [(0xD0, 24), (d.r.toNat, 17), (d.nw.toNat, 16), (a.toNat, 8), (b.toNat, 0)], packFields [(ct.toNat, 24), (ainc.toNat, 20), (winc.toNat, 16), (fmt.toNat, 14), (fin.toNat, 13), (zero.toNat, 12), (steps.toNat, 0)]]
  | .mfold d t => [packFields [(0xD1, 24), (d.r.toNat, 17), (d.nw.toNat, 16)], packFields [(t.toNat, 24)]]
  | .cvtdn d a t rm ovf dsp pfmt => [packFields [(0xD2, 24), (d.r.toNat, 17), (d.nw.toNat, 16), (a.toNat, 8)], packFields [(t.toNat, 24), (rm.toNat, 21), (ovf.toNat, 17), (dsp.toNat, 2), (pfmt.toNat, 0)]]
  | .mzero d t km1 => [packFields [(0xD3, 24), (d.r.toNat, 17), (d.nw.toNat, 16)], packFields [(t.toNat, 24), (km1.toNat, 0)]]
  | .gather d a b c w scope sx base => [packFields [(0xD8, 24), (d.r.toNat, 17), (d.nw.toNat, 16), (a.toNat, 8), (b.toNat, 0)], packFields [(c.toNat, 24), (w.toNat, 19), (scope.toNat, 14), (sx.toNat, 8), (base.toNat, 0)]]
  | .scatter d a b c w scope sx base => [packFields [(0xD9, 24), (d.r.toNat, 17), (d.nw.toNat, 16), (a.toNat, 8), (b.toNat, 0)], packFields [(c.toNat, 24), (w.toNat, 19), (scope.toNat, 14), (sx.toNat, 8), (base.toNat, 0)]]
  | .scadd d a b c w scope ops ft sx base => [packFields [(0xDA, 24), (d.r.toNat, 17), (d.nw.toNat, 16), (a.toNat, 8), (b.toNat, 0)], packFields [(c.toNat, 24), (w.toNat, 19), (scope.toNat, 14), (ops.toNat, 10), (ft.toNat, 9), (sx.toNat, 8), (base.toNat, 0)]]
  | .stand d a b imm => [packFields [(0xDB, 24), (d.r.toNat, 17), (d.nw.toNat, 16), (a.toNat, 8), (b.toNat, 0)], packFields [(imm.toNat, 0)]]
  | .unstand d b imm => [packFields [(0xDC, 24), (d.r.toNat, 17), (d.nw.toNat, 16), (b.toNat, 0)], packFields [(imm.toNat, 0)]]
  | .substat d b clr imm => [packFields [(0xDD, 24), (d.r.toNat, 17), (d.nw.toNat, 16), (b.toNat, 0)], packFields [(clr.toNat, 24), (imm.toNat, 0)]]
  | .lease d kind pri => [packFields [(0xE0, 24), (d.r.toNat, 17), (d.nw.toNat, 16)], packFields [(kind.toNat, 24), (pri.toNat, 0)]]
  | .unlease d a => [packFields [(0xE1, 24), (d.r.toNat, 17), (d.nw.toNat, 16), (a.toNat, 8)], 0]
  | .mrg d a b op w scope imm => [packFields [(0xE2, 24), (d.r.toNat, 17), (d.nw.toNat, 16), (a.toNat, 8), (b.toNat, 0)], packFields [(op.toNat, 24), (w.toNat, 19), (scope.toNat, 14), (imm.toNat, 0)]]
  | .lstat d a => [packFields [(0xE3, 24), (d.r.toNat, 17), (d.nw.toNat, 16), (a.toNat, 8)], 0]
  | .nbrgrid d a b scope imm => [packFields [(0xE4, 24), (d.r.toNat, 17), (d.nw.toNat, 16), (a.toNat, 8), (b.toNat, 0)], packFields [(scope.toNat, 14), (imm.toNat, 0)]]
  | .nbrbin d a b scope imm => [packFields [(0xE5, 24), (d.r.toNat, 17), (d.nw.toNat, 16), (a.toNat, 8), (b.toNat, 0)], packFields [(scope.toNat, 14), (imm.toNat, 0)]]
  | .nbrpair d a b scope imm => [packFields [(0xE6, 24), (d.r.toNat, 17), (d.nw.toNat, 16), (a.toNat, 8), (b.toNat, 0)], packFields [(scope.toNat, 14), (imm.toNat, 0)]]
  | .nbrchk d a b scope imm => [packFields [(0xE7, 24), (d.r.toNat, 17), (d.nw.toNat, 16), (a.toNat, 8), (b.toNat, 0)], packFields [(scope.toNat, 14), (imm.toNat, 0)]]
  | .qput d a b scope imm => [packFields [(0xE8, 24), (d.r.toNat, 17), (d.nw.toNat, 16), (a.toNat, 8), (b.toNat, 0)], packFields [(scope.toNat, 14), (imm.toNat, 0)]]
  | .qdone d a b scope => [packFields [(0xE9, 24), (d.r.toNat, 17), (d.nw.toNat, 16), (a.toNat, 8), (b.toNat, 0)], packFields [(scope.toNat, 14)]]
  | .tail a retain => [packFields [(0xEA, 24), (a.toNat, 8)], packFields [(retain.toNat, 0)]]
  | .clauseStart _ _ => []
  | .groupFormation _ _ => []
  | .stallDissolution _ _ => []
  | .registerResultLands _ => []
  | .futureCompletion _ => []
  | .l1Fill _ _ => []
  | .homeWriteBack _ _ _ => []
  | .atomicAtHome _ => []
  | .hbmFill _ _ => []
  | .scaddUpdate _ _ => []
  | .pushDelivery _ => []
  | .typedBufferHandover _ _ _ => []
  | .matrixOpBegin _ => []
  | .mloopStepBoundary _ _ => []
  | .tlbWalkComplete _ _ _ => []
  | .replayAll _ => []
  | .refuse _ => []
  | .invPage _ => []
  | .invAsid _ => []
  | .invAll _ => []
  | .registerWrite _ _ _ => []
  | .windowFieldWrite _ _ _ => []
  | .windowEnable _ _ => []
  | .queueEnable _ => []
  | .queueSlotTaken _ => []
  | .launchBind _ => []
  | .clusterBind _ => []
  | .taskDelivery _ => []
  | .teamEnd _ _ => []
  | .contextSwitchOut _ => []
  | .streamOutComplete _ => []
  | .streamInComplete _ => []
  | .migration _ _ => []
  | .crossDieMigration _ _ => []
  | .controlInterval => []
  | .powerControlWrite _ _ _ => []
  | .lanternLit _ _ => []
  | .snuffEnd _ _ => []
  | .lanternDark _ _ => []
  | .powerGood => []
  | .firmwareVerify => []
  | .coreRelease => []
  | .restart => []
  | .correctedError => []
  | .uncorrectableError _ => []
  | .mgmtControlSpace _ _ _ _ => []
  | .mgmtRoutingId _ _ _ => []
  | .mgmtBootFlash _ _ _ => []
  | .attestationRequest _ _ => []
  | .fabricRead _ _ => []
  | .readResponse _ _ => []
  | .fabricWrite _ _ => []
  | .writeAcknowledgement _ => []
  | .fabricAtomic _ _ _ _ => []
  | .atomicResponse _ _ => []
  | .fabricReject _ => []
  | .managementResponse _ => []
  | .remoteTimeout _ => []
  | .reservedOpcode w => [w]
  | .engineDelivery _ => []
  | .elementRequest _ _ => []
  | .streamOutBegin _ _ => []
  | .streamInBegin _ _ => []

/-- Why words are no instruction: unused bits that are not 0 (ILLEGAL qualifier 2 of R79), or bytes that end before the
instruction does. A reserved opcode is the instruction that raises qualifier 0. -/
inductive DecodeError where
  | unusedBits | tooShort
  deriving DecidableEq, Repr

/-- The fields of opcodes 0x00 to 0x0F; `lo` is the low digit. -/
def fields0 (lo : Nat) (w0 : Word) : Option Instr :=
  match lo with
  | 0 => some (.nop)
  | 1 => some (.mov ⟨w0.extractLsb' 17 7, w0.getLsbD 16⟩ (w0.extractLsb' 8 8))
  | 2 => some (.add ⟨w0.extractLsb' 17 7, w0.getLsbD 16⟩ (w0.extractLsb' 8 8) (w0.extractLsb' 0 8))
  | 3 => some (.sub ⟨w0.extractLsb' 17 7, w0.getLsbD 16⟩ (w0.extractLsb' 8 8) (w0.extractLsb' 0 8))
  | 4 => some (.mullo ⟨w0.extractLsb' 17 7, w0.getLsbD 16⟩ (w0.extractLsb' 8 8) (w0.extractLsb' 0 8))
  | 5 => some (.mulhi ⟨w0.extractLsb' 17 7, w0.getLsbD 16⟩ (w0.extractLsb' 8 8) (w0.extractLsb' 0 8))
  | 6 => some (.mulhiu ⟨w0.extractLsb' 17 7, w0.getLsbD 16⟩ (w0.extractLsb' 8 8) (w0.extractLsb' 0 8))
  | 7 => some (.and ⟨w0.extractLsb' 17 7, w0.getLsbD 16⟩ (w0.extractLsb' 8 8) (w0.extractLsb' 0 8))
  | 8 => some (.or ⟨w0.extractLsb' 17 7, w0.getLsbD 16⟩ (w0.extractLsb' 8 8) (w0.extractLsb' 0 8))
  | 9 => some (.xor ⟨w0.extractLsb' 17 7, w0.getLsbD 16⟩ (w0.extractLsb' 8 8) (w0.extractLsb' 0 8))
  | 10 => some (.andn ⟨w0.extractLsb' 17 7, w0.getLsbD 16⟩ (w0.extractLsb' 8 8) (w0.extractLsb' 0 8))
  | 11 => some (.shl ⟨w0.extractLsb' 17 7, w0.getLsbD 16⟩ (w0.extractLsb' 8 8) (w0.extractLsb' 0 8))
  | 12 => some (.shr ⟨w0.extractLsb' 17 7, w0.getLsbD 16⟩ (w0.extractLsb' 8 8) (w0.extractLsb' 0 8))
  | 13 => some (.sar ⟨w0.extractLsb' 17 7, w0.getLsbD 16⟩ (w0.extractLsb' 8 8) (w0.extractLsb' 0 8))
  | 14 => some (.rol ⟨w0.extractLsb' 17 7, w0.getLsbD 16⟩ (w0.extractLsb' 8 8) (w0.extractLsb' 0 8))
  | 15 => some (.min ⟨w0.extractLsb' 17 7, w0.getLsbD 16⟩ (w0.extractLsb' 8 8) (w0.extractLsb' 0 8))
  | _ => none

/-- The fields of opcodes 0x10 to 0x1F; `lo` is the low digit. -/
def fields1 (lo : Nat) (w0 : Word) : Option Instr :=
  match lo with
  | 0 => some (.max ⟨w0.extractLsb' 17 7, w0.getLsbD 16⟩ (w0.extractLsb' 8 8) (w0.extractLsb' 0 8))
  | 1 => some (.minu ⟨w0.extractLsb' 17 7, w0.getLsbD 16⟩ (w0.extractLsb' 8 8) (w0.extractLsb' 0 8))
  | 2 => some (.maxu ⟨w0.extractLsb' 17 7, w0.getLsbD 16⟩ (w0.extractLsb' 8 8) (w0.extractLsb' 0 8))
  | 3 => some (.slt ⟨w0.extractLsb' 17 7, w0.getLsbD 16⟩ (w0.extractLsb' 8 8) (w0.extractLsb' 0 8))
  | 4 => some (.sltu ⟨w0.extractLsb' 17 7, w0.getLsbD 16⟩ (w0.extractLsb' 8 8) (w0.extractLsb' 0 8))
  | 5 => some (.seq ⟨w0.extractLsb' 17 7, w0.getLsbD 16⟩ (w0.extractLsb' 8 8) (w0.extractLsb' 0 8))
  | 6 => some (.absd ⟨w0.extractLsb' 17 7, w0.getLsbD 16⟩ (w0.extractLsb' 8 8) (w0.extractLsb' 0 8))
  | 7 => some (.clz ⟨w0.extractLsb' 17 7, w0.getLsbD 16⟩ (w0.extractLsb' 8 8))
  | 8 => some (.ffs ⟨w0.extractLsb' 17 7, w0.getLsbD 16⟩ (w0.extractLsb' 8 8))
  | 9 => some (.popc ⟨w0.extractLsb' 17 7, w0.getLsbD 16⟩ (w0.extractLsb' 8 8))
  | 10 => some (.brev ⟨w0.extractLsb' 17 7, w0.getLsbD 16⟩ (w0.extractLsb' 8 8))
  | 11 => some (.addi ⟨w0.extractLsb' 17 7, w0.getLsbD 16⟩ (w0.extractLsb' 8 8) (w0.extractLsb' 0 8))
  | 12 => some (.shli ⟨w0.extractLsb' 17 7, w0.getLsbD 16⟩ (w0.extractLsb' 8 8) (w0.extractLsb' 0 8))
  | 13 => some (.shri ⟨w0.extractLsb' 17 7, w0.getLsbD 16⟩ (w0.extractLsb' 8 8) (w0.extractLsb' 0 8))
  | 14 => some (.sari ⟨w0.extractLsb' 17 7, w0.getLsbD 16⟩ (w0.extractLsb' 8 8) (w0.extractLsb' 0 8))
  | 15 => some (.andi ⟨w0.extractLsb' 17 7, w0.getLsbD 16⟩ (w0.extractLsb' 8 8) (w0.extractLsb' 0 8))
  | _ => none

/-- The fields of opcodes 0x20 to 0x2F; `lo` is the low digit. -/
def fields2 (lo : Nat) (w0 : Word) : Option Instr :=
  match lo with
  | 0 => some (.lea ⟨w0.extractLsb' 17 7, w0.getLsbD 16⟩ (w0.extractLsb' 8 8) (w0.extractLsb' 0 8))
  | 1 => some (.rqadd ⟨w0.extractLsb' 17 7, w0.getLsbD 16⟩ (w0.extractLsb' 8 8) (w0.extractLsb' 0 8))
  | 2 => some (.rqsub ⟨w0.extractLsb' 17 7, w0.getLsbD 16⟩ (w0.extractLsb' 8 8) (w0.extractLsb' 0 8))
  | 3 => some (.rqmul ⟨w0.extractLsb' 17 7, w0.getLsbD 16⟩ (w0.extractLsb' 8 8) (w0.extractLsb' 0 8))
  | 4 => some (.rqdec ⟨w0.extractLsb' 17 7, w0.getLsbD 16⟩ (w0.extractLsb' 8 8))
  | _ => none

/-- The fields of opcodes 0x30 to 0x3F; `lo` is the low digit. -/
def fields3 (lo : Nat) (w0 : Word) : Option Instr :=
  match lo with
  | 0 => some (.fadd ⟨w0.extractLsb' 17 7, w0.getLsbD 16⟩ (w0.extractLsb' 8 8) (w0.extractLsb' 0 8))
  | 1 => some (.fsub ⟨w0.extractLsb' 17 7, w0.getLsbD 16⟩ (w0.extractLsb' 8 8) (w0.extractLsb' 0 8))
  | 2 => some (.fmul ⟨w0.extractLsb' 17 7, w0.getLsbD 16⟩ (w0.extractLsb' 8 8) (w0.extractLsb' 0 8))
  | 3 => some (.fmin ⟨w0.extractLsb' 17 7, w0.getLsbD 16⟩ (w0.extractLsb' 8 8) (w0.extractLsb' 0 8))
  | 4 => some (.fmax ⟨w0.extractLsb' 17 7, w0.getLsbD 16⟩ (w0.extractLsb' 8 8) (w0.extractLsb' 0 8))
  | 5 => some (.fslt ⟨w0.extractLsb' 17 7, w0.getLsbD 16⟩ (w0.extractLsb' 8 8) (w0.extractLsb' 0 8))
  | 6 => some (.fsle ⟨w0.extractLsb' 17 7, w0.getLsbD 16⟩ (w0.extractLsb' 8 8) (w0.extractLsb' 0 8))
  | 7 => some (.fseq ⟨w0.extractLsb' 17 7, w0.getLsbD 16⟩ (w0.extractLsb' 8 8) (w0.extractLsb' 0 8))
  | 8 => some (.fsun ⟨w0.extractLsb' 17 7, w0.getLsbD 16⟩ (w0.extractLsb' 8 8) (w0.extractLsb' 0 8))
  | 9 => some (.fneg ⟨w0.extractLsb' 17 7, w0.getLsbD 16⟩ (w0.extractLsb' 8 8))
  | 10 => some (.fabs ⟨w0.extractLsb' 17 7, w0.getLsbD 16⟩ (w0.extractLsb' 8 8))
  | 11 => some (.fclass ⟨w0.extractLsb' 17 7, w0.getLsbD 16⟩ (w0.extractLsb' 8 8))
  | 12 => some (.frcp ⟨w0.extractLsb' 17 7, w0.getLsbD 16⟩ (w0.extractLsb' 8 8))
  | 13 => some (.frsq ⟨w0.extractLsb' 17 7, w0.getLsbD 16⟩ (w0.extractLsb' 8 8))
  | 14 => some (.fex2 ⟨w0.extractLsb' 17 7, w0.getLsbD 16⟩ (w0.extractLsb' 8 8))
  | 15 => some (.flg2 ⟨w0.extractLsb' 17 7, w0.getLsbD 16⟩ (w0.extractLsb' 8 8))
  | _ => none

/-- The fields of opcodes 0x40 to 0x4F; `lo` is the low digit. -/
def fields4 (lo : Nat) (w0 : Word) : Option Instr :=
  match lo with
  | 0 => some (.fsin ⟨w0.extractLsb' 17 7, w0.getLsbD 16⟩ (w0.extractLsb' 8 8))
  | 1 => some (.fcos ⟨w0.extractLsb' 17 7, w0.getLsbD 16⟩ (w0.extractLsb' 8 8))
  | 2 => some (.hadd2 ⟨w0.extractLsb' 17 7, w0.getLsbD 16⟩ (w0.extractLsb' 8 8) (w0.extractLsb' 0 8))
  | 3 => some (.hmul2 ⟨w0.extractLsb' 17 7, w0.getLsbD 16⟩ (w0.extractLsb' 8 8) (w0.extractLsb' 0 8))
  | 4 => some (.flags ⟨w0.extractLsb' 17 7, w0.getLsbD 16⟩ (w0.extractLsb' 0 8))
  | 5 => some (.flgclr (w0.extractLsb' 0 8))
  | _ => none

/-- The fields of opcodes 0x50 to 0x5F; `lo` is the low digit. -/
def fields5 (lo : Nat) (w0 : Word) : Option Instr :=
  match lo with
  | 0 => some (.brx (w0.extractLsb' 8 8))
  | 1 => some (.callx ⟨w0.extractLsb' 17 7, w0.getLsbD 16⟩ (w0.extractLsb' 8 8))
  | 2 => some (.ret (w0.extractLsb' 8 8))
  | 3 => some (.jset (w0.extractLsb' 0 8))
  | 4 => some (.jwait (w0.extractLsb' 0 8))
  | 5 => some (.jdrop (w0.extractLsb' 0 8))
  | 6 => some (.yield)
  | 7 => some (.exit)
  | 8 => some (.rep (w0.extractLsb' 8 6) (w0.extractLsb' 0 4))
  | 9 => some (.waitf ⟨w0.extractLsb' 17 7, w0.getLsbD 16⟩ (w0.extractLsb' 8 8) (w0.getLsbD 0))
  | 10 => some (.testf ⟨w0.extractLsb' 17 7, w0.getLsbD 16⟩ (w0.extractLsb' 8 8))
  | 11 => some (.cancelf (w0.extractLsb' 8 8) (w0.getLsbD 0))
  | 12 => some (.movf ⟨w0.extractLsb' 17 7, w0.getLsbD 16⟩ (w0.extractLsb' 8 8))
  | _ => none

/-- The fields of opcodes 0x60 to 0x6F; `lo` is the low digit. -/
def fields6 (lo : Nat) (w0 : Word) : Option Instr :=
  match lo with
  | 0 => some (.ballot ⟨w0.extractLsb' 17 7, w0.getLsbD 16⟩ (w0.extractLsb' 8 8))
  | 1 => some (.any ⟨w0.extractLsb' 17 7, w0.getLsbD 16⟩ (w0.extractLsb' 8 8))
  | 2 => some (.all ⟨w0.extractLsb' 17 7, w0.getLsbD 16⟩ (w0.extractLsb' 8 8))
  | 3 => some (.gpos ⟨w0.extractLsb' 17 7, w0.getLsbD 16⟩)
  | 4 => some (.gsize ⟨w0.extractLsb' 17 7, w0.getLsbD 16⟩)
  | 5 => some (.member ⟨w0.extractLsb' 17 7, w0.getLsbD 16⟩ (w0.extractLsb' 8 8))
  | 8 => some (.ldg ⟨w0.extractLsb' 17 7, w0.getLsbD 16⟩ (w0.extractLsb' 8 8) (w0.extractLsb' 0 8))
  | 9 => some (.stg (w0.extractLsb' 17 7) (w0.extractLsb' 8 8) (w0.extractLsb' 0 8))
  | 10 => some (.ldk ⟨w0.extractLsb' 17 7, w0.getLsbD 16⟩ (w0.extractLsb' 8 8) (w0.extractLsb' 0 8))
  | 11 => some (.fence (w0.extractLsb' 4 2) (w0.extractLsb' 0 3))
  | 12 => some (.flush (w0.extractLsb' 8 8) (w0.extractLsb' 0 3))
  | 13 => some (.inval (w0.extractLsb' 8 8) (w0.extractLsb' 0 3))
  | 14 => some (.pref (w0.extractLsb' 8 8) (w0.extractLsb' 0 8))
  | _ => none

/-- The fields of opcodes 0x70 to 0x7F; `lo` is the low digit. -/
def fields7 (lo : Nat) (w0 : Word) : Option Instr :=
  match lo with
  | 0 => some (.lds ⟨w0.extractLsb' 17 7, w0.getLsbD 16⟩ (w0.extractLsb' 8 8) (w0.extractLsb' 6 2) (w0.extractLsb' 0 6))
  | 1 => some (.sts (w0.extractLsb' 17 7) (w0.getLsbD 16) (w0.extractLsb' 8 8) (w0.extractLsb' 0 8))
  | 2 => some (.feset (w0.getLsbD 16) (w0.extractLsb' 8 8) (w0.extractLsb' 0 8))
  | 3 => some (.fetest ⟨w0.extractLsb' 17 7, w0.getLsbD 16⟩ (w0.extractLsb' 8 8))
  | 4 => some (.stf (w0.extractLsb' 17 7) (w0.extractLsb' 8 8) (w0.extractLsb' 0 8))
  | 5 => some (.ldf ⟨w0.extractLsb' 17 7, w0.getLsbD 16⟩ (w0.extractLsb' 8 8) (w0.extractLsb' 0 8))
  | 6 => some (.ldt ⟨w0.extractLsb' 17 7, w0.getLsbD 16⟩ (w0.extractLsb' 8 8) (w0.extractLsb' 6 2) (w0.getLsbD 5) (w0.extractLsb' 0 5))
  | 7 => some (.stt (w0.extractLsb' 17 7) (w0.extractLsb' 8 8) (w0.extractLsb' 6 2) (w0.getLsbD 5) (w0.extractLsb' 0 5))
  | 8 => some (.qpop ⟨w0.extractLsb' 17 7, w0.getLsbD 16⟩)
  | 9 => some (.trap (w0.extractLsb' 8 8) (w0.extractLsb' 0 8))
  | 10 => some (.tret)
  | 11 => some (.sysrd ⟨w0.extractLsb' 17 7, w0.getLsbD 16⟩ (w0.extractLsb' 0 16))
  | 12 => (if w0.extractLsb' 0 16 = 0x0039#16 then some (.flogpop (w0.extractLsb' 17 7))
    else if w0.extractLsb' 0 16 = 0x0102#16 then some (.abort (w0.extractLsb' 17 7))
    else some (.syswr (w0.extractLsb' 17 7) (w0.extractLsb' 0 16)))
  | 13 => some (.clock ⟨w0.extractLsb' 17 7, w0.getLsbD 16⟩ (w0.extractLsb' 0 8))
  | 14 => some (.bkpt (w0.extractLsb' 0 8))
  | _ => none

/-- The fields of opcodes 0x80 to 0x8F; `lo` is the low digit. -/
def fields8 (lo : Nat) (w0 w1 : Word) : Option Instr :=
  match lo with
  | 0 => some (.movi ⟨w0.extractLsb' 17 7, w0.getLsbD 16⟩ (w1.extractLsb' 0 32))
  | 1 => some (.mad ⟨w0.extractLsb' 17 7, w0.getLsbD 16⟩ (w0.extractLsb' 8 8) (w0.extractLsb' 0 8) (w1.extractLsb' 24 8) (w1.extractLsb' 19 2) (w1.getLsbD 0))
  | 2 => some (.sel ⟨w0.extractLsb' 17 7, w0.getLsbD 16⟩ (w0.extractLsb' 8 8) (w0.extractLsb' 0 8) (w1.extractLsb' 24 8))
  | 3 => some (.bfe ⟨w0.extractLsb' 17 7, w0.getLsbD 16⟩ (w0.extractLsb' 8 8) (w1.getLsbD 10) (w1.extractLsb' 5 5) (w1.extractLsb' 0 5))
  | 4 => some (.bfi ⟨w0.extractLsb' 17 7, w0.getLsbD 16⟩ (w0.extractLsb' 8 8) (w0.extractLsb' 0 8) (w1.extractLsb' 5 5) (w1.extractLsb' 0 5))
  | 5 => some (.leax ⟨w0.extractLsb' 17 7, w0.getLsbD 16⟩ (w0.extractLsb' 8 8) (w0.extractLsb' 0 8) (w1.extractLsb' 28 2) (w1.extractLsb' 24 4) (w1.extractLsb' 0 12))
  | 6 => some (.clzw ⟨w0.extractLsb' 17 7, w0.getLsbD 16⟩ (w0.extractLsb' 8 8) (w1.extractLsb' 19 2))
  | 7 => some (.ffsw ⟨w0.extractLsb' 17 7, w0.getLsbD 16⟩ (w0.extractLsb' 8 8) (w1.extractLsb' 19 2))
  | 8 => some (.popcw ⟨w0.extractLsb' 17 7, w0.getLsbD 16⟩ (w0.extractLsb' 8 8) (w1.extractLsb' 19 2))
  | 9 => some (.padd ⟨w0.extractLsb' 17 7, w0.getLsbD 16⟩ (w0.extractLsb' 8 8) (w0.extractLsb' 0 8) (w1.extractLsb' 19 2))
  | 10 => some (.psub ⟨w0.extractLsb' 17 7, w0.getLsbD 16⟩ (w0.extractLsb' 8 8) (w0.extractLsb' 0 8) (w1.extractLsb' 19 2))
  | 11 => some (.padds ⟨w0.extractLsb' 17 7, w0.getLsbD 16⟩ (w0.extractLsb' 8 8) (w0.extractLsb' 0 8) (w1.extractLsb' 19 2) (w1.extractLsb' 17 2) (w1.getLsbD 0))
  | 12 => some (.psubs ⟨w0.extractLsb' 17 7, w0.getLsbD 16⟩ (w0.extractLsb' 8 8) (w0.extractLsb' 0 8) (w1.extractLsb' 19 2) (w1.extractLsb' 17 2) (w1.getLsbD 0))
  | 13 => some (.pmin ⟨w0.extractLsb' 17 7, w0.getLsbD 16⟩ (w0.extractLsb' 8 8) (w0.extractLsb' 0 8) (w1.extractLsb' 19 2) (w1.getLsbD 0))
  | 14 => some (.pmax ⟨w0.extractLsb' 17 7, w0.getLsbD 16⟩ (w0.extractLsb' 8 8) (w0.extractLsb' 0 8) (w1.extractLsb' 19 2) (w1.getLsbD 0))
  | 15 => some (.pmul ⟨w0.extractLsb' 17 7, w0.getLsbD 16⟩ (w0.extractLsb' 8 8) (w0.extractLsb' 0 8) (w1.extractLsb' 19 2) (w1.getLsbD 1) (w1.getLsbD 0))
  | _ => none

/-- The fields of opcodes 0x90 to 0x9F; `lo` is the low digit. -/
def fields9 (lo : Nat) (w0 w1 : Word) : Option Instr :=
  match lo with
  | 0 => some (.pdot4 ⟨w0.extractLsb' 17 7, w0.getLsbD 16⟩ (w0.extractLsb' 8 8) (w0.extractLsb' 0 8) (w1.extractLsb' 24 8) (w1.extractLsb' 19 2) (w1.getLsbD 1) (w1.getLsbD 0))
  | 1 => some (.rqmad ⟨w0.extractLsb' 17 7, w0.getLsbD 16⟩ (w0.extractLsb' 8 8) (w0.extractLsb' 0 8) (w1.extractLsb' 24 8))
  | 2 => some (.rqenc ⟨w0.extractLsb' 17 7, w0.getLsbD 16⟩ (w0.extractLsb' 8 8) (w1.extractLsb' 17 2))
  | 3 => some (.cvti ⟨w0.extractLsb' 17 7, w0.getLsbD 16⟩ (w0.extractLsb' 8 8) (w1.extractLsb' 28 4) (w1.extractLsb' 24 4) (w1.extractLsb' 17 2))
  | 4 => some (.ialui ⟨w0.extractLsb' 17 7, w0.getLsbD 16⟩ (w0.extractLsb' 8 8) (w0.extractLsb' 0 8) (w1.extractLsb' 0 32))
  | 8 => some (.falui ⟨w0.extractLsb' 17 7, w0.getLsbD 16⟩ (w0.extractLsb' 8 8) (w0.extractLsb' 0 8) (w1.extractLsb' 0 32))
  | 9 => some (.fopr ⟨w0.extractLsb' 17 7, w0.getLsbD 16⟩ (w0.extractLsb' 8 8) (w0.extractLsb' 0 8) (w1.extractLsb' 24 8) (w1.extractLsb' 21 3) (w1.extractLsb' 17 2))
  | 10 => some (.ffma ⟨w0.extractLsb' 17 7, w0.getLsbD 16⟩ (w0.extractLsb' 8 8) (w0.extractLsb' 0 8) (w1.extractLsb' 24 8) (w1.extractLsb' 21 3) (w1.extractLsb' 17 2))
  | 11 => some (.frnd ⟨w0.extractLsb' 17 7, w0.getLsbD 16⟩ (w0.extractLsb' 8 8) (w1.extractLsb' 21 3) (w1.extractLsb' 19 2))
  | 12 => some (.fcvt ⟨w0.extractLsb' 17 7, w0.getLsbD 16⟩ (w0.extractLsb' 8 8) (w1.extractLsb' 28 4) (w1.extractLsb' 24 4) (w1.extractLsb' 21 3) (w1.extractLsb' 17 2) (w1.getLsbD 0))
  | 13 => some (.ftoi ⟨w0.extractLsb' 17 7, w0.getLsbD 16⟩ (w0.extractLsb' 8 8) (w1.extractLsb' 28 4) (w1.extractLsb' 24 4) (w1.extractLsb' 21 3) (w1.extractLsb' 17 2) (w1.getLsbD 0))
  | 14 => some (.itof ⟨w0.extractLsb' 17 7, w0.getLsbD 16⟩ (w0.extractLsb' 8 8) (w1.extractLsb' 28 4) (w1.extractLsb' 24 4) (w1.extractLsb' 21 3) (w1.extractLsb' 17 2))
  | 15 => some (.fdiv ⟨w0.extractLsb' 17 7, w0.getLsbD 16⟩ (w0.extractLsb' 8 8) (w0.extractLsb' 0 8) (w1.extractLsb' 21 3) (w1.extractLsb' 19 2) (w1.extractLsb' 17 2))
  | _ => none

/-- The fields of opcodes 0xA0 to 0xAF; `lo` is the low digit. -/
def fieldsA (lo : Nat) (w0 w1 : Word) : Option Instr :=
  match lo with
  | 0 => some (.fsqrt ⟨w0.extractLsb' 17 7, w0.getLsbD 16⟩ (w0.extractLsb' 8 8) (w1.extractLsb' 21 3) (w1.extractLsb' 19 2) (w1.extractLsb' 17 2))
  | 1 => some (.dadd ⟨w0.extractLsb' 17 7, w0.getLsbD 16⟩ (w0.extractLsb' 8 8) (w0.extractLsb' 0 8) (w1.extractLsb' 21 3) (w1.extractLsb' 17 2))
  | 2 => some (.dsub ⟨w0.extractLsb' 17 7, w0.getLsbD 16⟩ (w0.extractLsb' 8 8) (w0.extractLsb' 0 8) (w1.extractLsb' 21 3) (w1.extractLsb' 17 2))
  | 3 => some (.dmul ⟨w0.extractLsb' 17 7, w0.getLsbD 16⟩ (w0.extractLsb' 8 8) (w0.extractLsb' 0 8) (w1.extractLsb' 21 3) (w1.extractLsb' 17 2))
  | 4 => some (.dfma ⟨w0.extractLsb' 17 7, w0.getLsbD 16⟩ (w0.extractLsb' 8 8) (w0.extractLsb' 0 8) (w1.extractLsb' 24 8) (w1.extractLsb' 21 3) (w1.extractLsb' 17 2))
  | 5 => some (.dcmp ⟨w0.extractLsb' 17 7, w0.getLsbD 16⟩ (w0.extractLsb' 8 8) (w0.extractLsb' 0 8) (w1.extractLsb' 24 8))
  | 6 => some (.hfma2 ⟨w0.extractLsb' 17 7, w0.getLsbD 16⟩ (w0.extractLsb' 8 8) (w0.extractLsb' 0 8) (w1.extractLsb' 24 8) (w1.extractLsb' 21 3) (w1.extractLsb' 17 2) (w1.getLsbD 0))
  | 7 => some (.hopr ⟨w0.extractLsb' 17 7, w0.getLsbD 16⟩ (w0.extractLsb' 8 8) (w0.extractLsb' 0 8) (w1.extractLsb' 24 8) (w1.extractLsb' 21 3) (w1.extractLsb' 17 2) (w1.getLsbD 0))
  | _ => none

/-- The fields of opcodes 0xB0 to 0xBF; `lo` is the low digit. -/
def fieldsB (lo : Nat) (w0 w1 : Word) : Option Instr :=
  match lo with
  | 0 => some (.br (w0.extractLsb' 21 3) (w0.extractLsb' 8 8) (w0.extractLsb' 0 8) (w1.extractLsb' 0 32))
  | 1 => some (.call ⟨w0.extractLsb' 17 7, w0.getLsbD 16⟩ (w1.extractLsb' 0 32))
  | 8 => some (.shfl ⟨w0.extractLsb' 17 7, w0.getLsbD 16⟩ (w0.extractLsb' 8 8) (w0.extractLsb' 0 8) (w1.extractLsb' 24 2) (w1.extractLsb' 0 3))
  | 9 => some (.redux ⟨w0.extractLsb' 17 7, w0.getLsbD 16⟩ (w0.extractLsb' 8 8) (w1.extractLsb' 28 2) (w1.extractLsb' 24 4) (w1.extractLsb' 21 3) (w1.extractLsb' 17 2))
  | _ => none

/-- The fields of opcodes 0xC0 to 0xCF; `lo` is the low digit. -/
def fieldsC (lo : Nat) (w0 w1 : Word) : Option Instr :=
  match lo with
  | 0 => some (.ldgx ⟨w0.extractLsb' 17 7, w0.getLsbD 16⟩ (w0.extractLsb' 8 8) (w0.extractLsb' 0 8) (w1.extractLsb' 28 2) (w1.getLsbD 26) (w1.getLsbD 25) (w1.getLsbD 24) (w1.extractLsb' 19 2) (w1.extractLsb' 0 12))
  | 1 => some (.stgx (w0.extractLsb' 17 7) (w0.extractLsb' 8 8) (w0.extractLsb' 0 8) (w1.extractLsb' 28 2) (w1.getLsbD 26) (w1.getLsbD 25) (w1.extractLsb' 19 2) (w1.extractLsb' 0 12))
  | 2 => some (.atom ⟨w0.extractLsb' 17 7, w0.getLsbD 16⟩ (w0.extractLsb' 8 8) (w0.extractLsb' 0 8) (w1.extractLsb' 24 4) (w1.extractLsb' 19 2) (w1.extractLsb' 14 3) (w1.extractLsb' 12 2) (w1.extractLsb' 0 12))
  | 3 => some (.cas ⟨w0.extractLsb' 17 7, w0.getLsbD 16⟩ (w0.extractLsb' 8 8) (w0.extractLsb' 0 8) (w1.extractLsb' 24 8) (w1.extractLsb' 19 2) (w1.extractLsb' 14 3) (w1.extractLsb' 12 2) (w1.extractLsb' 0 12))
  | 8 => some (.ldsx ⟨w0.extractLsb' 17 7, w0.getLsbD 16⟩ (w0.extractLsb' 8 8) (w0.extractLsb' 0 8) (w1.getLsbD 31) (w1.extractLsb' 27 4) (w1.extractLsb' 25 2) (w1.getLsbD 24) (w1.extractLsb' 19 2) (w1.extractLsb' 17 2) (w1.extractLsb' 0 12))
  | 9 => some (.stsx (w0.extractLsb' 17 7) (w0.extractLsb' 8 8) (w0.extractLsb' 0 8) (w1.getLsbD 31) (w1.extractLsb' 27 4) (w1.extractLsb' 25 2) (w1.extractLsb' 19 2) (w1.extractLsb' 17 2) (w1.extractLsb' 0 12))
  | 10 => some (.atoms ⟨w0.extractLsb' 17 7, w0.getLsbD 16⟩ (w0.extractLsb' 8 8) (w0.extractLsb' 0 8) (w1.extractLsb' 24 8) (w1.extractLsb' 19 2) (w1.extractLsb' 14 3) (w1.extractLsb' 12 2) (w1.extractLsb' 8 4) (w1.getLsbD 7) (w1.extractLsb' 3 4))
  | 11 => some (.copy ⟨w0.extractLsb' 17 7, w0.getLsbD 16⟩ (w0.extractLsb' 8 8) (w0.extractLsb' 0 8) (w1.extractLsb' 24 8) (w1.extractLsb' 21 3) (w1.extractLsb' 19 2) (w1.extractLsb' 17 2) (w1.extractLsb' 14 3) (w1.extractLsb' 10 2) (w1.extractLsb' 7 3) (w1.extractLsb' 4 3) (w1.extractLsb' 2 2))
  | _ => none

/-- The fields of opcodes 0xD0 to 0xDF; `lo` is the low digit. -/
def fieldsD (lo : Nat) (w0 w1 : Word) : Option Instr :=
  match lo with
  | 0 => some (.mloop ⟨w0.extractLsb' 17 7, w0.getLsbD 16⟩ (w0.extractLsb' 8 8) (w0.extractLsb' 0 8) (w1.extractLsb' 24 8) (w1.extractLsb' 20 4) (w1.extractLsb' 16 4) (w1.extractLsb' 14 2) (w1.getLsbD 13) (w1.getLsbD 12) (w1.extractLsb' 0 12))
  | 1 => some (.mfold ⟨w0.extractLsb' 17 7, w0.getLsbD 16⟩ (w1.extractLsb' 24 8))
  | 2 => some (.cvtdn ⟨w0.extractLsb' 17 7, w0.getLsbD 16⟩ (w0.extractLsb' 8 8) (w1.extractLsb' 24 8) (w1.extractLsb' 21 3) (w1.extractLsb' 17 2) (w1.getLsbD 2) (w1.extractLsb' 0 2))
  | 3 => some (.mzero ⟨w0.extractLsb' 17 7, w0.getLsbD 16⟩ (w1.extractLsb' 24 8) (w1.extractLsb' 0 4))
  | 8 => some (.gather ⟨w0.extractLsb' 17 7, w0.getLsbD 16⟩ (w0.extractLsb' 8 8) (w0.extractLsb' 0 8) (w1.extractLsb' 24 8) (w1.extractLsb' 19 2) (w1.extractLsb' 14 3) (w1.getLsbD 8) (w1.extractLsb' 0 7))
  | 9 => some (.scatter ⟨w0.extractLsb' 17 7, w0.getLsbD 16⟩ (w0.extractLsb' 8 8) (w0.extractLsb' 0 8) (w1.extractLsb' 24 8) (w1.extractLsb' 19 2) (w1.extractLsb' 14 3) (w1.getLsbD 8) (w1.extractLsb' 0 7))
  | 10 => some (.scadd ⟨w0.extractLsb' 17 7, w0.getLsbD 16⟩ (w0.extractLsb' 8 8) (w0.extractLsb' 0 8) (w1.extractLsb' 24 8) (w1.extractLsb' 19 2) (w1.extractLsb' 14 3) (w1.extractLsb' 10 2) (w1.getLsbD 9) (w1.getLsbD 8) (w1.extractLsb' 0 7))
  | 11 => some (.stand ⟨w0.extractLsb' 17 7, w0.getLsbD 16⟩ (w0.extractLsb' 8 8) (w0.extractLsb' 0 8) (w1.extractLsb' 0 12))
  | 12 => some (.unstand ⟨w0.extractLsb' 17 7, w0.getLsbD 16⟩ (w0.extractLsb' 0 8) (w1.extractLsb' 0 12))
  | 13 => some (.substat ⟨w0.extractLsb' 17 7, w0.getLsbD 16⟩ (w0.extractLsb' 0 8) (w1.extractLsb' 24 8) (w1.extractLsb' 0 12))
  | _ => none

/-- The fields of opcodes 0xE0 to 0xEF; `lo` is the low digit. -/
def fieldsE (lo : Nat) (w0 w1 : Word) : Option Instr :=
  match lo with
  | 0 => some (.lease ⟨w0.extractLsb' 17 7, w0.getLsbD 16⟩ (w1.extractLsb' 24 8) (w1.extractLsb' 0 2))
  | 1 => some (.unlease ⟨w0.extractLsb' 17 7, w0.getLsbD 16⟩ (w0.extractLsb' 8 8))
  | 2 => some (.mrg ⟨w0.extractLsb' 17 7, w0.getLsbD 16⟩ (w0.extractLsb' 8 8) (w0.extractLsb' 0 8) (w1.extractLsb' 24 8) (w1.extractLsb' 19 2) (w1.extractLsb' 14 3) (w1.extractLsb' 0 12))
  | 3 => some (.lstat ⟨w0.extractLsb' 17 7, w0.getLsbD 16⟩ (w0.extractLsb' 8 8))
  | 4 => some (.nbrgrid ⟨w0.extractLsb' 17 7, w0.getLsbD 16⟩ (w0.extractLsb' 8 8) (w0.extractLsb' 0 8) (w1.extractLsb' 14 3) (w1.extractLsb' 0 12))
  | 5 => some (.nbrbin ⟨w0.extractLsb' 17 7, w0.getLsbD 16⟩ (w0.extractLsb' 8 8) (w0.extractLsb' 0 8) (w1.extractLsb' 14 3) (w1.extractLsb' 0 12))
  | 6 => some (.nbrpair ⟨w0.extractLsb' 17 7, w0.getLsbD 16⟩ (w0.extractLsb' 8 8) (w0.extractLsb' 0 8) (w1.extractLsb' 14 3) (w1.extractLsb' 0 12))
  | 7 => some (.nbrchk ⟨w0.extractLsb' 17 7, w0.getLsbD 16⟩ (w0.extractLsb' 8 8) (w0.extractLsb' 0 8) (w1.extractLsb' 14 3) (w1.extractLsb' 0 12))
  | 8 => some (.qput ⟨w0.extractLsb' 17 7, w0.getLsbD 16⟩ (w0.extractLsb' 8 8) (w0.extractLsb' 0 8) (w1.extractLsb' 14 3) (w1.extractLsb' 0 12))
  | 9 => some (.qdone ⟨w0.extractLsb' 17 7, w0.getLsbD 16⟩ (w0.extractLsb' 8 8) (w0.extractLsb' 0 8) (w1.extractLsb' 14 3))
  | 10 => some (.tail (w0.extractLsb' 8 8) (w1.getLsbD 0))
  | _ => none

/-- The instruction whose fields stand in two words, whatever its unused bits hold; a reserved opcode is recognised from
word 0 alone (R81). -/
def fieldsOf (w0 w1 : Word) : Instr :=
  let op := (w0.extractLsb' 24 8).toNat
  (match op / 16 with
  | 0 => fields0 (op % 16) w0
  | 1 => fields1 (op % 16) w0
  | 2 => fields2 (op % 16) w0
  | 3 => fields3 (op % 16) w0
  | 4 => fields4 (op % 16) w0
  | 5 => fields5 (op % 16) w0
  | 6 => fields6 (op % 16) w0
  | 7 => fields7 (op % 16) w0
  | 8 => fields8 (op % 16) w0 w1
  | 9 => fields9 (op % 16) w0 w1
  | 10 => fieldsA (op % 16) w0 w1
  | 11 => fieldsB (op % 16) w0 w1
  | 12 => fieldsC (op % 16) w0 w1
  | 13 => fieldsD (op % 16) w0 w1
  | 14 => fieldsE (op % 16) w0 w1
  | _ => none).getD (.reservedOpcode w0)

/-- Whether word 0 begins a two-word instruction (R63). -/
def twoWord (w0 : Word) : Bool := (Machine.opClass (w0.extractLsb' 24 8).toNat).isSome && w0.getLsbD 31

/-- The number of words of the instruction that word 0 begins (R81: a reserved opcode is one word). -/
def wordCount (w0 : Word) : Nat := if twoWord w0 then 2 else 1

/-- Decode one or two words: the fields, accepted only where encoding them again gives the same words, which is to say
that every unused bit is 0 (R69). -/
def decodeWords (w0 w1 : Word) : Except DecodeError Instr :=
  let i := fieldsOf w0 w1
  if encode i = (if twoWord w0 then [w0, w1] else [w0]) then .ok i else .error .unusedBits

/-- A word from four bytes in little-endian order. -/
def wordOf (b0 b1 b2 b3 : Byte) : Word := b3 ++ b2 ++ b1 ++ b0

/-- Decode an instruction from bytes; the rest of the bytes comes back with it. -/
def decode : List Byte → Except DecodeError (Instr × List Byte)
  | b0 :: b1 :: b2 :: b3 :: rest =>
    let w0 := wordOf b0 b1 b2 b3
    if twoWord w0 then
      match rest with
      | c0 :: c1 :: c2 :: c3 :: rest' => (decodeWords w0 (wordOf c0 c1 c2 c3)).map (·, rest')
      | _ => .error .tooShort
    else (decodeWords w0 0).map (·, rest)
  | _ => .error .tooShort

/-- The bytes of an instruction in memory. -/
def wordBytes (w : Word) : List Byte :=
  [w.extractLsb' 0 8, w.extractLsb' 8 8, w.extractLsb' 16 8, w.extractLsb' 24 8]

/-- The two words of an instruction numbered as the opcode table numbers its bits; bits above `nbits` are 0. -/
def tableWords (nbits w : Nat) : Word × Word :=
  let v := w % 2 ^ nbits
  (BitVec.ofNat 32 v, BitVec.ofNat 32 (v / 2 ^ 32))

/-- What the decoder reads from an instruction whose bits are `w`, numbered as the opcode table numbers them. -/
def decodeTableWord (nbits w : Nat) : Option Instr :=
  let (w0, w1) := tableWords nbits w
  match decode (wordBytes w0 ++ wordBytes w1) with
  | .ok (i, _) => some i
  | .error _ => none

end Sys2Proof
end

