-- ==== Sys2Proof/Config.lean ====
section
/-! DEFINITION. The values the spec leaves open, as constants with no body: a proof about them holds whatever they are. Each is
applied to the counter State.draws, or to the operands it is a fixed function of, and named in the assumption log. -/

namespace Sys2Proof.Config

/-- A free natural number for each draw (log 4). -/
opaque freeNat : Nat → Nat

/-- A free choice of two for each draw (log 4). -/
opaque freeBool : Nat → Bool

/-- The result of a special function within its bound: 0 FRCP, 1 FRSQ, 2 FEX2, 3 FLG2, 4 FSIN, 5 FCOS, of its argument
bits (05 R122; log 5). -/
opaque special : Nat → Word → Word

/-- The public key whose SHA-512 hash is fused into die 0 to verify firmware images (22 R408; log 6). -/
opaque firmwareKey : List Byte

/-- The 64 bytes of a key's hash among the fuse settings, whose layout the spec does not give (22 R408; log 6). -/
opaque keyHash : List Byte → List Byte

/-- Whether an RSASSA-PSS signature over a hash verifies under a key (22 R408; log 6): the key, the hash, the signature. -/
opaque signatureOk : List Byte → List Byte → List Byte → Bool

/-- The public certificate of the identity key (22 R409; log 6). -/
opaque identityCert : List Byte

/-- The signature of the attestation report under the fused identity key (22 R409; log 6). -/
opaque sign : List Byte → Vector Byte 512

/-- The set of an L2 slice that a 256-byte line of local memory belongs to, which the spec does not state (15 R297; log 86). -/
opaque l2Set : Nat → Nat

end Sys2Proof.Config
end

