-- ==== Sys2Proof/Machine/Bits.lean ====
section
/-! DEFINITION. Bit fields, sign extension and byte order (00 R5, R8). -/

namespace Sys2Proof.Machine

/-- Bits hi..lo of a value as a number. -/
def field (x hi lo : Nat) : Nat := (x >>> lo) % 2 ^ (hi + 1 - lo)

/-- The two's-complement value of the low `n` bits of `x`. -/
def sint (n x : Nat) : Int :=
  if x % 2 ^ n < 2 ^ (n - 1) then (x % 2 ^ n : Nat) else ((x % 2 ^ n : Nat) : Int) - 2 ^ n

/-- An integer as an `n`-bit two's-complement pattern. -/
def wrap (n : Nat) (v : Int) : Nat := (v % (2 ^ n : Nat)).toNat

/-- The `n` bytes of `v`, least significant first. -/
def leBytes : Nat → Nat → List Byte
  | 0, _ => []
  | n + 1, v => BitVec.ofNat 8 v :: leBytes n (v / 256)

/-- The number that bytes in little-endian order hold. -/
def leNat : List Byte → Nat
  | [] => 0
  | b :: bs => b.toNat + 256 * leNat bs

/-- A 64-bit value from its low and high words (01 R13). -/
def pairOf (lo hi : Word) : Pair := hi ++ lo

/-- The low word of a pair. -/
def loWord (p : Pair) : Word := p.setWidth 32

/-- The high word of a pair. -/
def hiWord (p : Pair) : Word := (p >>> 32).setWidth 32

/-- A 56-bit code address as a 64-bit virtual address (03 R56). -/
def va56 (h : BitVec 56) : Pair := h.signExtend 64

/-- An address is canonical when bits 63..56 equal bit 55 (07 R152). -/
def canonical (ea : Pair) : Bool := (ea.setWidth 56).signExtend 64 == ea

/-- A signed field of any width as a 64-bit addend. -/
def sx64 {n : Nat} (x : BitVec n) : Pair := x.signExtend 64

/-- A boolean as a word. -/
def bit (b : Bool) : Word := if b then 1 else 0

/-- The ceiling of a quotient. -/
def ceilDiv (a b : Nat) : Nat := (a + b - 1) / b

/-- The numbers `from, from+1, …`, `n` of them. -/
def upTo (start n : Nat) : List Nat := (List.range n).map (start + ·)

/-- The index of the lowest set bit of `x` among its first `n` bits, or `n`. -/
def lowestBit (x n : Nat) : Nat := ((List.range n).find? x.testBit).getD n

/-- The number of set bits among the first `n`. -/
def popCount (x n : Nat) : Nat := ((List.range n).filter x.testBit).length

end Sys2Proof.Machine
end

