-- ==== Sys2Proof/Machine/Float.lean ====
section
/-! DEFINITION. Floating-point formats, exact values, rounding and the overflow rule (02 R29 to R36). A finite value is held
exactly as a sign, a natural significand and a power of two, and rounded once. -/

namespace Sys2Proof.Machine

/-- A format: exponent bits and fraction bits (R29). -/
structure Fmt where
  eb : Nat
  mb : Nat
  deriving DecidableEq, Repr

def f64 : Fmt := ⟨11, 52⟩
def f32 : Fmt := ⟨8, 23⟩
def f16 : Fmt := ⟨5, 10⟩
def bf16 : Fmt := ⟨8, 7⟩

/-- The exponent bias. -/
def Fmt.bias (f : Fmt) : Int := 2 ^ (f.eb - 1) - 1
/-- The all-ones exponent field. -/
def Fmt.emax (f : Fmt) : Nat := 2 ^ f.eb - 1
/-- The sign bit. -/
def Fmt.sign (f : Fmt) (s : Bool) : Nat := if s then 2 ^ (f.eb + f.mb) else 0
def Fmt.inf (f : Fmt) (s : Bool) : Nat := f.sign s + f.emax * 2 ^ f.mb
def Fmt.maxFinite (f : Fmt) (s : Bool) : Nat := f.inf s - 1
/-- The canonical NaN: quiet, sign 0, no payload (R30). -/
def Fmt.nan (f : Fmt) : Nat := f.emax * 2 ^ f.mb + 2 ^ (f.mb - 1)
def Fmt.width (f : Fmt) : Nat := f.eb + f.mb + 1

/-- The value of a pattern: NaN, an infinity, or (−1)^s × m × 2^e exactly (m = 0 for a zero). -/
inductive FV where
  | nan
  | inf (s : Bool)
  | fin (s : Bool) (m : Nat) (e : Int)
  deriving DecidableEq, Repr

/-- The value of a bit pattern (R29, R31). -/
def Fmt.value (f : Fmt) (b : Nat) : FV :=
  let s := b.testBit (f.eb + f.mb)
  let ex := b / 2 ^ f.mb % 2 ^ f.eb
  let fr := b % 2 ^ f.mb
  if ex = f.emax then (if fr = 0 then .inf s else .nan)
  else if ex = 0 then .fin s fr (1 - f.bias - f.mb)
  else .fin s (fr + 2 ^ f.mb) (ex - f.bias - f.mb)

/-- The sticky flags of R15, as the bits of a flag word. -/
def flIV : BitVec 6 := 1
def flDZ : BitVec 6 := 2
def flOF : BitVec 6 := 4
def flUF : BitVec 6 := 8
def flIX : BitVec 6 := 16
def flSAT : BitVec 6 := 32

/-- What an arithmetic operation delivers: a pattern, the conditions it meets, the clamped elements, and the trap that
OVF = 11 turns a condition into (R36, R38). -/
structure FRes where
  bits : Nat
  flags : BitVec 6
  sat : Nat
  trap : Option Nat
  deriving DecidableEq, Repr

def FRes.ok (b : Nat) : FRes := ⟨b, 0, 0, none⟩
def FRes.iv (b : Nat) : FRes := ⟨b, flIV, 0, none⟩

/-- Whether rounding a discarded part `rem` of `2 ^ sh` rounds the magnitude `q` up (R32). -/
def roundsUp (rm : BitVec 3) (s : Bool) (q rem sh : Nat) : Bool :=
  match rm.toNat with
  | 0 => decide (2 * rem > 2 ^ sh) || (decide (2 * rem = 2 ^ sh) && q % 2 == 1)
  | 1 => false
  | 2 => s && decide (rem ≠ 0)
  | _ => !s && decide (rem ≠ 0)

/-- Drop `sh` low bits of `m` with rounding; also says whether the drop was inexact. -/
def roundShift (rm : BitVec 3) (s : Bool) (m sh : Nat) : Nat × Bool :=
  let q := m / 2 ^ sh
  let rem := m % 2 ^ sh
  (if roundsUp rm s q rem sh then q + 1 else q, decide (rem ≠ 0))

/-- The magnitude m × 2^e as a multiple of 2^q, rounded. -/
def roundAt (rm : BitVec 3) (s : Bool) (m : Nat) (e q : Int) : Nat × Bool :=
  if e ≥ q then (m * 2 ^ (e - q).toNat, false) else roundShift rm s m (q - e).toNat

/-- The delivered overflow result (R36). -/
def overflow (f : Fmt) (rm : BitVec 3) (ovf : BitVec 2) (s : Bool) (trap : Nat) : FRes :=
  match ovf.toNat with
  | 0 => ⟨f.maxFinite s, flOF ||| flIX ||| flSAT, 1, none⟩
  | 1 =>
    let big := match rm.toNat with
      | 0 => true
      | 1 => false
      | 2 => s
      | _ => !s
    ⟨if big then f.inf s else f.maxFinite s, flOF ||| flIX, 0, none⟩
  | 2 => ⟨f.nan, flOF ||| flIX, 0, none⟩
  | _ => ⟨0, flOF ||| flIX, 0, some trap⟩

/-- Round the exact nonzero value (−1)^s × m × 2^e to a format (R32, R34, R36). `trap` is the cause that OVF = 11 raises. -/
def Fmt.round (f : Fmt) (rm : BitVec 3) (ovf : BitVec 2) (trap : Nat) (s : Bool) (m : Nat) (e : Int) : FRes :=
  if m = 0 then .ok (f.sign s) else
  let top : Int := e + m.log2
  let emin : Int := 1 - f.bias
  let q := max top emin - f.mb
  let (k, ix) := roundAt rm s m e q
  let free := (roundAt rm s m e (top - f.mb)).1
  let tiny := decide (top < emin) && !(decide (top = emin - 1) && decide (free ≥ 2 ^ (f.mb + 1)))
  let body := if k < 2 ^ f.mb then k else ((q + f.mb + f.bias).toNat - 1) * 2 ^ f.mb + k
  if body ≥ f.emax * 2 ^ f.mb then overflow f rm ovf s trap
  else ⟨f.sign s + body, (if ix then flIX else 0) ||| (if tiny && ix then flUF else 0), 0, none⟩

/-- An exact result: undefined (with IV), NaN from a NaN operand, an infinity, or an exact value. -/
inductive Ex where
  | invalid | nan
  | inf (s : Bool)
  | val (s : Bool) (m : Nat) (e : Int)
  deriving DecidableEq, Repr

/-- The exact sum of two finite values; an exact zero of opposite signs is −0 only under RDN. -/
def sumFin (rm : BitVec 3) (s1 : Bool) (m1 : Nat) (e1 : Int) (s2 : Bool) (m2 : Nat) (e2 : Int) : Ex :=
  let e := min e1 e2
  let a : Int := (m1 * 2 ^ (e1 - e).toNat : Nat)
  let b : Int := (m2 * 2 ^ (e2 - e).toNat : Nat)
  let t := (if s1 then -a else a) + (if s2 then -b else b)
  if t = 0 then .val (if s1 = s2 then s1 else rm.toNat == 2) 0 e
  else .val (decide (t < 0)) t.natAbs e

/-- The exact sum (R34: ∞ − ∞ is invalid). -/
def addV (rm : BitVec 3) : FV → FV → Ex
  | .nan, _ => .nan
  | _, .nan => .nan
  | .inf s1, .inf s2 => if s1 = s2 then .inf s1 else .invalid
  | .inf s, _ => .inf s
  | _, .inf s => .inf s
  | .fin s1 m1 e1, .fin s2 m2 e2 => sumFin rm s1 m1 e1 s2 m2 e2

/-- The exact product (R34: 0 × ∞ is invalid). -/
def mulV : FV → FV → Ex
  | .nan, _ => .nan
  | _, .nan => .nan
  | .inf s1, .inf s2 => .inf (s1 != s2)
  | .inf s1, .fin s2 m _ => if m = 0 then .invalid else .inf (s1 != s2)
  | .fin s1 m _, .inf s2 => if m = 0 then .invalid else .inf (s1 != s2)
  | .fin s1 m1 e1, .fin s2 m2 e2 => .val (s1 != s2) (m1 * m2) (e1 + e2)

/-- The exact a × b + c (05 R116): an invalid product is reported even beside a NaN addend. -/
def fmaV (rm : BitVec 3) (a b c : FV) : Ex :=
  match mulV a b with
  | .invalid => .invalid
  | .nan => .nan
  | .inf s => addV rm (.inf s) c
  | .val s m e => addV rm (.fin s m e) c

/-- Deliver an exact result in a format. -/
def Fmt.deliver (f : Fmt) (rm : BitVec 3) (ovf : BitVec 2) (trap : Nat) : Ex → FRes
  | .invalid => .iv f.nan
  | .nan => .ok f.nan
  | .inf s => .ok (f.inf s)
  | .val s m e => f.round rm ovf trap s m e

/-- The sign-flipped value. -/
def FV.neg : FV → FV
  | .nan => .nan
  | .inf s => .inf (!s)
  | .fin s m e => .fin (!s) m e

/-- An exact value as a signed number at a scale at most `e`. -/
def scaled (s : Bool) (m : Nat) (e : Int) (lo : Int) : Int :=
  let v : Int := ((m : Nat) * 2 ^ (e - lo).toNat : Nat)
  if s then -v else v

/-- Strict order of values, −0 equal to +0; false for a NaN. -/
def FV.lt : FV → FV → Bool
  | .nan, _ => false
  | _, .nan => false
  | .inf s1, .inf s2 => s1 && !s2
  | .inf s, _ => s
  | _, .inf s => !s
  | .fin s1 m1 e1, .fin s2 m2 e2 =>
    let e := min e1 e2
    decide (scaled s1 m1 e1 e < scaled s2 m2 e2 e)

/-- Equality of values, −0 equal to +0; false for a NaN. -/
def FV.eq (a b : FV) : Bool :=
  match a, b with
  | .nan, _ => false
  | _, .nan => false
  | a, b => !(a.lt b) && !(b.lt a)

def FV.isNan : FV → Bool
  | .nan => true
  | _ => false

/-- Whether a value is a zero. -/
def FV.isZero : FV → Bool
  | .fin _ m _ => m == 0
  | _ => false

def FV.isNeg : FV → Bool
  | .nan => false
  | .inf s => s
  | .fin s _ _ => s

/-- Minimum and maximum on patterns (05 R112): −0 lies below +0 and a lone NaN loses. -/
def Fmt.minMax (f : Fmt) (isMax : Bool) (a b : Nat) : Nat :=
  let x := f.value a
  let y := f.value b
  if x.isNan && y.isNan then f.nan
  else if x.isNan then b
  else if y.isNan then a
  else
    let aLow := x.lt y || (!(y.lt x) && x.isNeg && !y.isNeg)
    if aLow != isMax then a else b

/-- F32 addition with RNE and overflow to infinity, no flags (07 R163, 15 R305, 02 R52). -/
def addF32 (a b : Nat) : Nat := (f32.deliver 0 1 0 (addV 0 (f32.value a) (f32.value b))).bits

/-- An exact value rounded to an integer under a mode, with whether it was inexact. -/
def roundInt (rm : BitVec 3) (s : Bool) (m : Nat) (e : Int) : Int × Bool :=
  let (k, ix) := roundAt rm s m e 0
  (if s then -(k : Int) else k, ix)

/-- A quotient of two significands with a sticky low bit: enough bits to round to any format once. -/
def divExact (m1 m2 : Nat) (e1 e2 : Int) : Nat × Int :=
  let k := m2.log2 + 72
  let n := m1 * 2 ^ k
  (2 * (n / m2) + (if n % m2 = 0 then 0 else 1), e1 - e2 - k - 1)

/-- The integer square root, one result bit for each unit of fuel. -/
def isqrt : Nat → Nat → Nat
  | 0, _ => 0
  | fuel + 1, n =>
    let r := 2 * isqrt fuel (n / 4)
    if (r + 1) * (r + 1) ≤ n then r + 1 else r

/-- A square root with a sticky low bit. -/
def sqrtExact (m : Nat) (e : Int) : Nat × Int :=
  let k : Nat := 160 + (if e % 2 = 0 then 0 else 1)
  let n := m * 2 ^ k
  let r := isqrt (n.log2 / 2 + 1) n
  (2 * r + (if r * r = n then 0 else 1), (e - k) / 2 - 1)

end Sys2Proof.Machine
end

