-- ==== Sys2Proof/Machine/Mem.lean ====
section
/-! DEFINITION. Sparse tables and sparse bytes in their canonical form, and the bytes of a sector (log 2). -/

namespace Sys2Proof.Machine

/-- The value under a key. -/
def tget {α : Type} : Tab α → Nat → Option α
  | [], _ => none
  | (k, v) :: r, x => if x = k then some v else tget r x

/-- Put a value under a key, keeping the keys in rising order. -/
def tset {α : Type} : Tab α → Nat → α → Tab α
  | [], x, v => [(x, v)]
  | (k, w) :: r, x, v =>
    if x < k then (x, v) :: (k, w) :: r else if x = k then (x, v) :: r else (k, w) :: tset r x v

/-- Remove a key. -/
def tdel {α : Type} : Tab α → Nat → Tab α
  | [], _ => []
  | (k, v) :: r, x => if x = k then r else (k, v) :: tdel r x

/-- Change the value under a key, if there is one. -/
def tmod {α : Type} : Tab α → Nat → (α → α) → Tab α
  | [], _, _ => []
  | (k, v) :: r, x, f => if x = k then (k, f v) :: r else (k, v) :: tmod r x f

/-- Change every value. -/
def tmap {α : Type} (t : Tab α) (f : Nat → α → α) : Tab α := t.map fun e => (e.1, f e.1 e.2)

/-- One byte of sparse memory, in which an unlisted address `a` reads as `d a`. -/
def dread (d : Nat → Byte) (m : Mem) (a : Nat) : Byte := (tget m a).getD (d a)

/-- Write one byte; writing what an unlisted address reads as removes the entry. -/
def dwrite (d : Nat → Byte) (m : Mem) (a : Nat) (b : Byte) : Mem := if b = d a then tdel m a else tset m a b

/-- Write bytes at rising addresses. -/
def dwriteL (d : Nat → Byte) (m : Mem) (a : Nat) : List Byte → Mem
  | [] => m
  | b :: bs => dwriteL d (dwrite d m a b) (a + 1) bs

/-- Keys rise strictly from a lower bound, and no entry holds what its address reads as unlisted. -/
def Mem.dwfFrom (d : Nat → Byte) : Nat → Mem → Bool
  | _, [] => true
  | lo, (k, b) :: r => decide (lo ≤ k) && b != d k && Mem.dwfFrom d (k + 1) r

/-- What every store but HBM4 holds unlisted: 0 (log 2). -/
def zeroByte (_ : Nat) : Byte := 0

/-- What an address of HBM4 reads as unlisted: the reset value of the queue descriptors, whose LOG2SIZE is 4 in byte 8 of each
(19 R358), that of Wick's mirror of the remap tables with every core working (14 R289), and 0 (22 R406; log 2, log 3). -/
def hbmReset (a : Nat) : Byte :=
  let q := qtbaseReset.toNat
  let r := mirrorReset.toNat
  if q ≤ a ∧ a < q + 64 * 2048 then (if (a - q) % 64 = 8 then 0x40 else 0)
  else if r ≤ a ∧ a < r + 0x2000 * 4 ∧ 0x1000 ≤ (a - r) % 0x2000 ∧ (a - r) % 0x2000 < 0x1060 then
    BitVec.ofNat 8 (128 + ((a - r) % 0x2000 - 0x1000))
  else 0

/-- One byte of HBM4, bytes written there, and its canonical form. -/
def hread (m : Mem) (a : Nat) : Byte := dread hbmReset m a
def hwrite (m : Mem) (a : Nat) (b : Byte) : Mem := dwrite hbmReset m a b
def hwriteL (m : Mem) (a : Nat) (l : List Byte) : Mem := dwriteL hbmReset m a l
def Mem.hbmWf (m : Mem) : Bool := Mem.dwfFrom hbmReset 0 m

/-- One byte of a sparse store, and one byte written there. -/
def mread (m : Mem) (a : Nat) : Byte := dread zeroByte m a
def mwrite (m : Mem) (a : Nat) (b : Byte) : Mem := dwrite zeroByte m a b

/-- Read `n` bytes in little-endian order. -/
def mreadN (m : Mem) (a : Nat) : Nat → Nat
  | 0 => 0
  | n + 1 => (mread m a).toNat + 256 * mreadN m (a + 1) n

/-- Write bytes at rising addresses. -/
def mwriteL (m : Mem) (a : Nat) (l : List Byte) : Mem := dwriteL zeroByte m a l

/-- Write the `n` low bytes of a number in little-endian order. -/
def mwriteN (m : Mem) (a n v : Nat) : Mem := mwriteL m a (leBytes n v)
def hwriteN (m : Mem) (a n v : Nat) : Mem := hwriteL m a (leBytes n v)

/-- The canonical form of a sparse store. -/
def Mem.wf (m : Mem) : Bool := Mem.dwfFrom zeroByte 0 m

/-- Byte `k` of a sector. -/
def secByte (d : SectorData) (k : Nat) : Byte := BitVec.ofNat 8 (d.toNat / 2 ^ (8 * k))

/-- A sector from its bytes. -/
def secOf (l : List Byte) : SectorData := BitVec.ofNat 1024 (leNat l)

/-- The bytes `k .. k+n-1` of a sector as a number. -/
def secGet (d : SectorData) (k n : Nat) : Nat := d.toNat / 2 ^ (8 * k) % 2 ^ (8 * n)

/-- A mask of `n` bytes from byte `k`. -/
def maskOf (k n : Nat) : SectorMask := BitVec.ofNat 128 ((2 ^ n - 1) * 2 ^ k)

/-- Every byte of a sector. -/
def maskAll : SectorMask := BitVec.allOnes 128

/-- The bytes of `new` where the mask is set, else those of `old`. -/
def secMerge (mask : SectorMask) (new old : SectorData) : SectorData :=
  if mask = 0 then old else if mask = maskAll then new else
  secOf ((List.range 128).map fun k => if mask.getLsbD k then secByte new k else secByte old k)

/-- A sector holding the `n` low bytes of `v` at byte `k`, and 0 elsewhere. -/
def secPut (k n v : Nat) : SectorData := BitVec.ofNat 1024 (v % 2 ^ (8 * n) * 2 ^ (8 * k))

end Sys2Proof.Machine
end

