-- ==== Sys2Proof/Machine/Ops.lean ====
section
/-! DEFINITION. The named operations over state, threads, registers and groups: accessors, taking an exception and returning
from one (12 R269 to R274), ending threads, join-barrier releases (06 R137), landings (01 R17), and the issue of one word by
a group with the check order of 03 R80. -/

namespace Sys2Proof.Machine

/-! ## Accessors -/

/-- Draw a free natural number (log 4). -/
def State.drawNat (s : State) : Nat × State := (Config.freeNat s.draws, { s with draws := s.draws + 1 })
/-- Draw a free choice (log 4). -/
def State.drawBool (s : State) : Bool × State := (Config.freeBool s.draws, { s with draws := s.draws + 1 })

/-- The time counter moves on freely within its microsecond, and never back (log 24). -/
def State.readTime (s : State) : Pair × State :=
  let (n, s) := s.drawNat
  let t := max s.ns.toNat (min (s.ns.toNat + n % 1000) (1000 * s.us + 999))
  let v := BitVec.ofNat 64 t
  (v, { s with ns := v })

/-- A core by its number in the package: 96 × die + physical core. -/
def State.core (s : State) (g : Nat) : Core := (tget s.cores g).getD Core.reset
def State.modCore (s : State) (g : Nat) (f : Core → Core) : State := { s with cores := tset s.cores g (f (s.core g)) }
def State.ctx? (s : State) (c : Nat) : Option Ctx := tget s.ctxs c
def State.modCtx (s : State) (c : Nat) (f : Ctx → Ctx) : State := { s with ctxs := tmod s.ctxs c f }
def State.team? (s : State) (c t : Nat) : Option Team := (s.ctx? c).bind fun x => tget x.teams t
def State.modTeam (s : State) (c t : Nat) (f : Team → Team) : State :=
  s.modCtx c fun x => { x with teams := tmod x.teams t f }
def State.thread? (s : State) (k : Key) : Option Thread := (s.team? k.ctx k.tslot).bind fun t => tget t.threads k.tid
def State.modThread (s : State) (k : Key) (f : Thread → Thread) : State :=
  s.modTeam k.ctx k.tslot fun t => { t with threads := tmod t.threads k.tid f }
def State.die (s : State) (d : Nat) : Die := s.dies[d % 4]'(Nat.mod_lt _ (by decide))
def State.modDie (s : State) (d : Nat) (f : Die → Die) : State :=
  { s with dies := s.dies.set (d % 4) (f (s.die d)) (Nat.mod_lt _ (by decide)) }
def State.modPkg (s : State) (f : Pkg → Pkg) : State := { s with pkg := f s.pkg }
/-- The die of a core. -/
def dieOf (core : Nat) : Nat := core / 96
/-- A fresh identifier. -/
def State.freshId (s : State) : Nat × State := (s.fresh, { s with fresh := s.fresh + 1 })

/-- Change each of the given threads of one context. -/
def State.mapMembers (s : State) (c : Nat) (ms : List (Nat × Nat)) (f : Nat → Team → Nat → Thread → Thread) : State :=
  s.modCtx c fun x => { x with teams := tmap x.teams fun ts t =>
    { t with threads := tmap t.threads fun tid th => if ms.contains (ts, tid) then f ts t tid th else th } }

/-- Send a notice to Wick and the host (12 R280). -/
def State.notify (s : State) (cause : Nat) (w0 w1 : BitVec 64) : State :=
  { s with notices := s.notices ++ [⟨.wick, cause, w0, w1⟩, ⟨.host, cause, w0, w1⟩] }

/-- Send a notice to the host alone. -/
def State.notifyHost (s : State) (cause : Nat) (w0 w1 : BitVec 64) : State :=
  { s with notices := s.notices ++ [⟨.host, cause, w0, w1⟩] }

/-! ## The bits of context and trap registers that are not reserved, which read 0 (00 R7) -/

/-- FPCTL (02 R37), MATCTL and MATNANPOS (11 R245, R247), TRAPDLG (12 R272), DBGCTL (12 R276), ESTAT (12 R269). -/
def fpctlMask : Word := 0x3F#32
def matctlMask : Word := 1#32
def matnanposMask : Word := 0x801F0FFF#32
def trapdlgMask : Word := 0x000EFFF7#32
def dbgctlMask : Word := 3#32
def estatMask : Word := 0x0007FFFF#32

/-! ## Registers of a thread -/

/-- G[r]: g0 reads 0 (01 R11). -/
def Thread.get (th : Thread) (r : Nat) : Word := if r = 0 then 0 else (th.regs[r]?).getD 0
/-- G[r] := v: a write to g0 is discarded (01 R11). -/
def Thread.set (th : Thread) (r : Nat) (v : Word) : Thread :=
  if r = 0 then th else { th with regs := th.regs.setIfInBounds r v }
/-- P[r]: the pair named g0 reads 0 (01 R13). -/
def Thread.pair (th : Thread) (r : Nat) : Pair := if r = 0 then 0 else pairOf (th.get r) (th.get (r + 1))
/-- The writes of a 64-bit result: a write to the pair named g0 is discarded entirely (01 R13). -/
def pairWrites (r : Nat) (v : Pair) : List (Nat × Word) := if r = 0 then [] else [(r, loWord v), (r + 1, hiWord v)]
/-- Perform register writes in order. -/
def Thread.writes (th : Thread) (ws : List (Nat × Word)) : Thread := ws.foldl (fun t w => t.set w.1 w.2) th
/-- Whether the thread runs a handler (12 R269). -/
def Thread.inh (th : Thread) : Bool := th.estat.getLsbD 18
/-- Whether a register waits for a result; g0 never does. -/
def Thread.pendingOn (th : Thread) (r : Nat) : Option Pend := if r = 0 then none else tget th.pend r
def Thread.count (th : Thread) (k : Nat) : Nat := (th.counts[k]?).getD 0
def Thread.addCount (th : Thread) (k : Nat) : Thread :=
  { th with counts := th.counts.setIfInBounds k (th.count k + 1) }
def Thread.subCount (th : Thread) (k : Nat) : Thread :=
  { th with counts := th.counts.setIfInBounds k (th.count k - 1) }
def Thread.noLatches (th : Thread) : Thread := { th with latches := Vector.replicate 4 .unwritten }
def Thread.bar (th : Thread) (b : Nat) : Bar := (th.bars[b]?).getD .none
def Thread.setBar (th : Thread) (b : Nat) (v : Bar) : Thread := { th with bars := th.bars.setIfInBounds b v }

/-! ## Operand values (03 R65 to R67) -/

/-- The FP32 constants of R66. -/
def fpConst (k : Nat) : Word :=
  BitVec.ofNat 32 (([0x00000000, 0x3E800000, 0x3F000000, 0x3F800000, 0x40000000, 0x40800000, 0x41000000, 0x41800000,
    0xBE800000, 0xBF000000, 0xBF800000, 0xC0000000, 0xC0800000, 0x3F317218, 0x3FB8AA3B, 0x40490FDB] : List Nat).getD k 0)

/-- The value of a latch that has one. -/
def Latch.val : Latch → Word
  | .value w => w
  | _ => 0

/-- How far REP has stepped a field (03 R78): repeat index times the registers the field names. -/
def stepOf (rep : Option Rep) (idx : BitVec 6) (f : Fld) (words : Nat) : Nat :=
  match rep with
  | none => 0
  | some r =>
    let k := match f with
      | .d => 0
      | .a => 1
      | .b => 2
      | .c => 3
      | .base => 4
    if r.step.getLsbD k then idx.toNat * words else 0

/-- The 32-bit value a select delivers in a field. -/
def rd32 (rep : Option Rep) (th : Thread) (f : Fld) (sel : Sel) : Word :=
  let v := sel.toNat
  if v < 0x80 then th.get (v + stepOf rep th.repidx f 1)
  else if v < 0x84 then ((th.latches[v - 0x80]?).getD .unwritten).val
  else if v < 0xB0 then BitVec.ofInt 32 ((v : Int) - 0xA0)
  else fpConst (v - 0xB0)

/-- The 64-bit value a select delivers: a pair, a sign-extended integer, or an FP32 constant converted to F64. -/
def rd64 (rep : Option Rep) (th : Thread) (f : Fld) (sel : Sel) : Pair :=
  let v := sel.toNat
  if v < 0x80 then th.pair (v + stepOf rep th.repidx f 2)
  else if v < 0xB0 then BitVec.ofInt 64 ((v : Int) - 0xA0)
  else BitVec.ofNat 64 (match f32.value (fpConst (v - 0xB0)).toNat with
    | .fin sg m e => (f64.round 0 1 0 sg m e).bits
    | _ => 0)

/-- A pair or a single register by a width in words, as 64 bits. -/
def rdW (rep : Option Rep) (th : Thread) (f : Fld) (sel : Sel) (words : Nat) : Pair :=
  if words = 2 then rd64 rep th f sel else (rd32 rep th f sel).setWidth 64

/-- The register a destination or an S field names at this repeat. -/
def dstReg (rep : Option Rep) (th : Thread) (r : BitVec 7) (words : Nat) : Nat := r.toNat + stepOf rep th.repidx .d words

/-- The writes of a 32-bit result; none with NW = 1 (03 R64). -/
def dst32 (rep : Option Rep) (th : Thread) (d : Dst) (v : Word) : List (Nat × Word) :=
  if d.nw then [] else [(dstReg rep th d.r 1, v)]

/-- The writes of a 64-bit result. -/
def dst64 (rep : Option Rep) (th : Thread) (d : Dst) (v : Pair) : List (Nat × Word) :=
  if d.nw then [] else pairWrites (dstReg rep th d.r 2) v

/-! ## Threads that end, and join barriers -/

/-- A thread released from a join barrier (06 R137). -/
def Thread.released (th : Thread) (b : Nat) (after : PC) : Thread :=
  { (th.setBar b .none) with pc := after, run := .runnable }

/-- The release test of 06 R137 for one barrier of a team. -/
def Team.releaseTest (t : Team) (b : Nat) : Team :=
  let alive := t.threads.filter fun e => e.2.run != .ended
  if alive.any (fun e => e.2.bar b == .expected) || !(alive.any fun e => e.2.bar b == .arrived) then t
  else { t with threads := tmap t.threads fun _ th =>
    match th.run with
    | .waiting (.barrier b' after _) => if b' = b ∧ th.bar b = .arrived then th.released b after else th
    | _ => th }

/-- The release test on every barrier. -/
def Team.releaseAll (t : Team) : Team := (List.range 16).foldl Team.releaseTest t

/-- What ending does to a thread of a team: it ends, its barrier states become NONE, and its flags join the team's
(01 R23, 06 R137, 05 R124). -/
def Team.endThread (t : Team) (tid : Nat) : Team :=
  match tget t.threads tid with
  | none => t
  | some th =>
    if th.run = .ended then t else
    { t with
      endFlags := t.endFlags ||| th.flags
      threads := tmod t.threads tid fun th => { th with run := .ended, bars := Vector.replicate 16 .none } }

/-- A report to a launch's completion record (06 R151, 19 R361). -/
def Launch.report (l : Launch) (e : FlogEntry) : Launch :=
  { l with nrep := min (l.nrep + 1) 0xFFFFFFFF, reports := if l.reports.length < 30 then l.reports ++ [e] else l.reports }

/-- A report to the team's fault log, or to the completion record once the team has ended (06 R151). -/
def State.report (s : State) (c tslot launch : Nat) (e : FlogEntry) : State :=
  match s.team? c tslot with
  | some t =>
    if t.threads.any fun x => x.2.run != .ended then
      s.modTeam c tslot fun t =>
        if t.flog.length < 16 then { t with flog := t.flog ++ [e] } else { t with ovfcnt := min (t.ovfcnt + 1) 65535 }
    else { s with launches := tmod s.launches t.launch fun l => l.report e }
  | none => { s with launches := tmod s.launches launch fun l => l.report e }

/-- FLOGSTAT of a team (12 R278). -/
def Team.flogstat (t : Team) : Word := BitVec.ofNat 32 (t.ovfcnt * 65536 + t.flog.length)

/-- Remove members from a group. -/
def Group.drop (g : Group) (f : Nat × Nat → Bool) : Group :=
  let keep := (g.members.zip g.cols).filter fun m => !(f m.1)
  { g with members := keep.map (·.1), cols := keep.map (·.2) }

/-- Remove the members of a team from the groups of a core; a group left empty frees its slot. -/
def Core.dropTeam (c : Core) (ctx tslot : Nat) : Core :=
  { c with groups := (tmap c.groups fun _ g => if g.ctx = ctx then g.drop fun m => m.1 == tslot else g).filter fun g => !g.2.members.isEmpty }

/-- The age counts of a core that still have a run: those at the PC of a Runnable thread of its active context (09 R197). -/
def State.pruneAges (s : State) (ctx : Nat) : State :=
  match s.ctx? ctx with
  | none => s
  | some c =>
    if c.place != .active then s else
    s.modCore c.core fun k => { k with ages := k.ages.filter (fun a =>
      c.teams.any fun t => t.2.threads.any fun th => th.2.run == .runnable && th.2.pc == a.1) }

/-- A team abort (12 R273): every thread ends, the values go to the completion record, the remaining log entries follow, and
running lantern commands of the team are cancelled at their safe points (17 R333). -/
def State.abortTeam (s : State) (k : Key) (estat einfo : Word) (epc eaddr : Pair) : State :=
  match s.team? k.ctx k.tslot with
  | none => s
  | some t =>
    let s := s.modCore (((s.ctx? k.ctx).map (·.core)).getD 0) fun c => c.dropTeam k.ctx k.tslot
    let s := { s with feWaits := s.feWaits.filter fun w => !(w.key.ctx == k.ctx && w.key.tslot == k.tslot) }
    let info : AbortInfo := ⟨k.tid, t.index, estat, einfo, t.flogstat, epc, eaddr⟩
    let s := s.modTeam k.ctx k.tslot fun t =>
      { (t.threads.foldl (fun t e => t.endThread e.1) t) with aborted := true, flog := [] }
    let s := s.pruneAges k.ctx
    { s with
      qreqs := s.qreqs.filter fun r => !(r.key.ctx == k.ctx && r.key.tslot == k.tslot && r.got.isNone)
      ops := tmap s.ops fun _ o =>
        match o.work with
        | .cmd w => if w.begun ∧ o.key.ctx = k.ctx ∧ o.key.tslot = k.tslot then { o with canceled := true } else o
        | _ => o
      launches := tmod s.launches t.launch fun l =>
        t.flog.foldl Launch.report { l with aborted := true, abort := l.abort.or (some info) } }

/-! ## Taking an exception and returning from one (12 R269, R270, R274) -/

/-- ESTAT from its fields (R269). -/
def estatOf (inh : Bool) (rwi fwi : Nat) (pprv : Bool) (cause : Nat) : Word :=
  BitVec.ofNat 32 ((if inh then 2 ^ 18 else 0) + rwi % 16 * 2 ^ 14 + fwi % 16 * 2 ^ 10 + (if pprv then 2 ^ 9 else 0)
    + cause % 512)

/-- ESTAT with another cause. -/
def withCause (e : Word) (cause : Nat) : Word := (e &&& ~~~(0x1FF#32)) ||| BitVec.ofNat 32 (cause % 512)

/-- A code address that meets 06 R130: canonical, and a multiple of 4. -/
def codeAddr (t : Pair) : Bool := canonical t && t.toNat % 4 == 0

/-- The thread as it enters its handler: nothing but its PC, its level and its place in a group changes. JT is not checked there
(R270). -/
def Thread.enter (th : Thread) (handler : Pair) (priv : Bool) : Thread :=
  { th.noLatches with priv, pc := ⟨handler.setWidth 56, 0⟩, run := .runnable, atStart := false }

/-- The trap registers that R270 writes. -/
def Thread.trapRegs (th : Thread) (cause fwi : Nat) (resume : PC) (einfo : Word) (eaddr : Pair) : Thread :=
  { th with estat := estatOf true resume.wi fwi th.priv cause, einfo, eaddr, epc := va56 resume.h }

/-- Whether a cause class is delivered to the user handler (R272): bits 3, 16 and 20 to 23 are never 1. -/
def delegated (dlg : Word) (cause : Nat) : Bool := dlg.getLsbD (cause / 16) && (0x0E_FFF7#32).getLsbD (cause / 16)

/-- Trap entry (R270): `resume` is where TRET resumes, `fwi` the word that raised the trap. DESIGN CHOICE (log 93): an abort for a
handler address that fails R130 reports the EINFO and EADDR of the trap that was being taken. -/
def State.takeTrap (s : State) (k : Key) (cause fwi : Nat) (resume : PC) (einfo : Word) (eaddr : Pair) : State :=
  match s.thread? k, s.ctx? k.ctx with
  | some th, some c =>
    if th.run = .ended then s
    else if th.inh then
      let t1 := { th with estat := withCause th.estat 0x102, einfo := BitVec.ofNat 32 cause }
      (s.modThread k fun _ => t1).abortTeam k t1.estat t1.einfo t1.epc t1.eaddr
    else
      let t1 := th.trapRegs cause fwi resume einfo eaddr
      let vec := if delegated th.view.trapdlg cause && th.view.trapvec != 0 then th.view.trapvec
        else (s.die (dieOf c.core)).sysvec
      let priv := !(delegated th.view.trapdlg cause && th.view.trapvec != 0)
      let s1 := s.modThread k fun _ => t1
      if vec = 0 then s1.abortTeam k t1.estat t1.einfo t1.epc t1.eaddr
      else if codeAddr vec then s1.modThread k fun _ => t1.enter vec priv
      else s1.abortTeam k (withCause t1.estat 0x02C) t1.einfo t1.epc t1.eaddr
  | _, _ => s

/-- The live threads of a team. -/
def Team.live (t : Team) : Tab Thread := t.threads.filter fun e => e.2.run != .ended

/-- The barriers on which some thread of a team is in a state, as a mask. -/
def Team.barMask (t : Team) (v : Bar) : Nat :=
  (List.range 16).foldl (fun m b => if t.live.any fun e => e.2.bar b == v then m + 2 ^ b else m) 0

/-- Whether a thread waits in a JWAIT: its barrier and whether its clause is restartable. -/
def Thread.atBarrier (th : Thread) : Option (Nat × Bool) :=
  match th.run with
  | .waiting (.barrier b _ r) => some (b, r)
  | _ => none

/-- JOIN_CYCLE (06 R139): when every live thread has arrived on some barrier, the one with the lowest TID traps. DESIGN CHOICE
(log 80): EXPMASK and ARRMASK are those before its own state returns to EXPECTED. -/
def State.joinCycle (s : State) (c tslot : Nat) : State :=
  match s.team? c tslot with
  | none => s
  | some t =>
    match t.live with
    | [] => s
    | (tid, th) :: rest =>
      if rest.any fun e => e.2.atBarrier.isNone then s else
      match th.atBarrier with
      | none => s
      | some (b, restart) =>
        let info := BitVec.ofNat 32 (t.barMask .expected * 65536 + t.barMask .arrived)
        let k : Key := ⟨c, tslot, tid⟩
        let s := s.modThread k fun th => th.setBar b .expected
        s.takeTrap k 0x0A0 th.pc.wi (if restart then { th.pc with wi := 0 } else th.pc) info 0

/-- A thread ends: barriers are tested, and its unassigned QPOP requests are withdrawn (19 R366). -/
def State.endThread (s : State) (k : Key) : State :=
  let s := (s.modTeam k.ctx k.tslot fun t => (t.endThread k.tid).releaseAll).joinCycle k.ctx k.tslot
  { s with qreqs := s.qreqs.filter fun r => r.key != k || r.got.isSome }

/-- Where a clause resumes after an interruption (03 R72, R78): at its start in an ALU, SFU or XL clause, else at the word
itself, which in a REP clause is the REP word. -/
def resumeAt (cls : Cls) (h : BitVec 56) (wi : Nat) (rep : Bool) : PC :=
  ⟨h, if cls.latched then 0 else if rep then 1 else wi⟩

/-! ## Groups -/

/-- What executing a word does to one member. -/
inductive Out where
  | next
  | jump (h : BitVec 56)
  | wait (w : WaitOn)
  | lag (w : WaitOn)
  | trap (cause : Nat) (einfo : Word) (eaddr : Pair)
  | park (ea : Pair) (kind : Nat)
  | ended
  | back (pc : PC)
  | resume (pc : PC)
  deriving DecidableEq, Repr

/-- Whether a member has returned from a handler: it starts a clause anew wherever it resumes (12 R274). -/
def Out.returns : Out → Bool
  | .resume _ => true
  | _ => false

/-- The PC of a member when its group is interrupted: a restartable clause in progress starts again, and so does a clause
whose first word has not been executed, but for a REP in progress (03 R72, R78). -/
def interruptedPC (g : Group) (pc : PC) (repidx : BitVec 6) : PC :=
  if g.started && pc.h == g.h && (g.cls.latched || (pc.wi == 1 && repidx == 0)) then { pc with wi := 0 } else pc

/-- The group's threads re-enter the PC table, each at its own PC, and its slot becomes free (09 R202). -/
def State.dissolve (s : State) (core slot : Nat) : State :=
  match tget (s.core core).groups slot with
  | none => s
  | some g =>
    let s := s.mapMembers g.ctx g.members fun _ _ _ th =>
      let th := { th.noLatches with pc := interruptedPC g th.pc th.repidx }
      if th.run = .issuing then { th with run := .runnable } else th
    s.modCore core fun c => { c with groups := tdel c.groups slot }

/-- The PC after a word of `n` words at word index `wi` (06 R129). -/
def afterWord (h : BitVec 56) (count wi n : Nat) : PC :=
  if wi + n > count then ⟨h + BitVec.ofNat 56 (4 * (count + 1)), 0⟩ else ⟨h, wi + n⟩

/-- The number of words of an instruction. -/
def insWords (i : Instr) : Nat := (encode i).length

/-- A member parked on a missing page (20 R382): it waits with the PC at which it will execute the word again. -/
def Thread.parked (th : Thread) (resume : PC) (ea : Pair) (kind fwi : Nat) : Thread :=
  { th.noLatches with pc := resume, run := .waiting (.park ea kind fwi) }

/-- A trap that resumes after the trapping word (12 R270): TRAP and BKPT causes. -/
def resumesAfter (cause : Nat) : Bool := cause / 16 == 18 || cause == 0x110

/-- Whether a thread is live. -/
def State.alive (s : State) (k : Key) : Bool := (s.thread? k).any fun th => th.run != .ended

/-- Settle one member after the word: its new PC, its wait, its trap, its park or its end; a member whose team has been aborted
stays ended. -/
def State.settle (s : State) (i : Instr) (m : Nat × Nat) (o : Out) : State :=
  let st := s.site
  let k : Key := ⟨st.ctx, m.1, m.2⟩
  if !(s.alive k) then s else
  let after := afterWord st.h st.count st.wi (insWords i)
  let resume := resumeAt st.cls st.h st.wi st.rep.isSome
  match o with
  | .next => s.modThread k fun th =>
      match st.rep with
      | none => { th with pc := after }
      | some r => if th.repidx.toNat + 1 ≥ r.n then { th with repidx := 0, pc := after }
          else { th with repidx := th.repidx + 1, pc := ⟨st.h, 1⟩ }
  | .jump h => s.modThread k fun th => { th with pc := ⟨h, 0⟩ }
  | .back pc => s.modThread k fun th => { th with pc }
  | .resume pc => s.modThread k fun th => { th with pc }
  | .wait w => s.modThread k fun th => { th with run := .waiting w, pc := ⟨st.h, st.wi⟩ }
  | .lag w => s.modThread k fun th => { th with run := .waiting w }
  | .trap c e a => s.takeTrap k c st.wi (if resumesAfter c then after else resume) e a
  | .park ea kind => s.modThread k fun th => th.parked resume ea kind st.wi
  | .ended => s.endThread k

/-- Whether a member leaves its group. -/
def Out.leaves : Out → Bool
  | .wait _ | .trap _ _ _ | .park _ _ | .ended => true
  | _ => false

/-- Whether a member's leaving interrupts the clause (03 R76, 20 R382). -/
def Out.breaks : Out → Bool
  | .trap _ _ _ | .park _ _ => true
  | _ => false

/-- Where the group stands after its members have settled: it goes on whole, ends its clause, or dissolves (09 R202). -/
def State.regroup (s : State) (core slot : Nat) (broke left : Bool) : State :=
  match tget (s.core core).groups slot with
  | none => s
  | some g =>
    let ths := g.members.filterMap fun m => s.thread? ⟨g.ctx, m.1, m.2⟩
    let put (g' : Group) : State := s.modCore core fun c => { c with groups := tset c.groups slot g' }
    match ths with
    | [] => s.modCore core fun c => { c with groups := tdel c.groups slot }
    | t0 :: _ =>
      if broke && g.cls.latched then s.dissolve core slot
      else
        let g := if broke then { g with dissolve := true } else g
        let busy := g.rep.isSome && ths.any fun t => t.pc == ⟨g.h, 1⟩
        if busy then put { g with stalled := 0 }
        else if ths.any fun t => t.run != .issuing then put { g with stalled := 0 }
        else if ths.any fun t => t.pc != t0.pc then s.dissolve core slot
        else if !left && t0.pc.h == g.h && t0.pc.wi != 0 then put { g with wi := t0.pc.wi, stalled := 0 }
        else if g.dissolve then (put g).dissolve core slot
        else put { g with
          h := t0.pc.h, wi := t0.pc.wi, entered := false, passed := false, started := false, stalled := 0, rep := none }

/-- The end of an issue: every member settles in ascending position, those that leave are removed, and the group goes on. -/
def State.retire (s : State) (i : Instr) (outs : List ((Nat × Nat) × Out)) : State :=
  let st := s.site
  let s := outs.foldl (fun s o => s.settle i o.1 o.2) s
  let gone := fun m => outs.any fun o => o.1 == m && o.2.leaves
  let s := s.modCore st.core fun c => { c with groups := tmod c.groups st.slot (Group.drop · gone) }
  s.regroup st.core st.slot (outs.any fun o => o.2.breaks) (outs.any fun o => o.2.returns)

/-- A stalled issue: one more stalled cycle (09 R202, R203). -/
def State.noteStall (s : State) : State :=
  s.modCore s.site.core fun c => { c with groups := tmod c.groups s.site.slot fun g => { g with stalled := g.stalled + 1 } }

/-! ## The checks of a word (03 R79, R80) -/

/-- The transfers that must stand last in their clause (qualifier 6). -/
def mustBeLast : Instr → Bool
  | .br _ _ _ _ | .call _ _ | .brx _ | .callx _ _ | .ret _ | .exit | .tail _ _ => true
  | _ => false

def isRep : Instr → Bool
  | .rep _ _ => true
  | _ => false

/-- Qualifier 4: a word outside its clause's class (R59). REP belongs to the clause whose first word it is (R78), and a CTRL
instruction may begin at the last position of any clause (R128). -/
def outsideClass (i : Instr) (cls : Cls) (count wi n : Nat) : Bool :=
  !(insCls i == .any || insCls i == cls || (isRep i && wi == 1) || (insCls i == .ctrl && decide (count + 1 ≤ wi + n)))

/-- A marked field that names no register of the target (qualifier 7 of R78). DEDUCED (log 77): a marked field that the target does
not use, or that holds an immediate, names no register either. -/
def badStep (i : Instr) (r : Rep) : Bool :=
  ([(0, Fld.d), (1, .a), (2, .b), (3, .c)] : List (Nat × Fld)).any fun e =>
    r.step.getLsbD e.1 && !((opds i).any fun o => o.fld == e.2 && decide (o.sel.toNat < 0x80))

/-- Qualifier 7 (R78): the REP word at a position other than 0 or with a COUNT no target has; the target's COUNT, class and
marked fields. DESIGN CHOICE (log 78): a COUNT that is neither 2 nor 3 traps at the REP word, one that does not match the
target at the target. -/
def repMisuse (i : Instr) (rep : Option Rep) (count wi n : Nat) : Bool :=
  match rep with
  | none => isRep i && !(wi == 1 && (count == 2 || count == 3))
  | some r => isRep i || insCls i == .ctrl || insCls i == .sys || count != n + 1 || badStep i r

/-- The qualifiers of a word that depend on its place, in the order of R80; `none` when the word is accepted. -/
def wordQual (i : Instr) (st : Site) : Option Nat :=
  let n := insWords i
  if outsideClass i st.cls st.count st.wi n then some 4
  else if (mustBeLast i && st.wi + n != st.count + 1) || st.wi + n > st.count + 1 then some 6
  else match encodingFault i with
    | some q => some q
    | none =>
      if st.rep.isSome && (opds i).any Opd.isLatch then some 5
      else if !st.cls.latched && (opds i).any Opd.isLatch then some 5
      else none

/-- A latch that no earlier word of the clause has written (R71). -/
def unwrittenLatch (i : Instr) (th : Thread) : Bool :=
  (opds i).any fun o => o.isLatch && (th.latches[o.sel.toNat - 0x80]?).getD .unwritten == .unwritten

/-- OPERAND (01 R12, R13): 1 a register beyond the allocation, which is at most 128 registers, 2 a misaligned pair, quad or
octet. DESIGN CHOICE (log 74): where both hold of one operand, 1. -/
def operandFault (rep : Option Rep) (th : Thread) (alloc : Nat) (o : Opd) : Option Nat :=
  if o.sel.toNat ≥ 0x80 then none else
  let n := min alloc 128
  let r := o.sel.toNat + stepOf rep th.repidx o.fld o.words
  if r ≥ n then some 1 else if r % o.words ≠ 0 then some 2 else if r + o.words > n then some 1 else none

/-- The first trap that the encoding or its registers raise for one member, as a cause (R80, points 1 to 9). DESIGN CHOICE
(log 74): of two operands that raise OPERAND, the first of D, A, B, C, which is their order in `opds`. -/
def wordFault (i : Instr) (st : Site) (th : Thread) (n : Nat) : Option Nat :=
  match wordQual i st with
  | some q => some q
  | none =>
    if unwrittenLatch i th then some 5
    else if repMisuse i st.rep st.count st.wi (insWords i) then some 7
    else ((opds i).findSome? (operandFault st.rep th n)).map (0x10 + ·)

/-! ## Stalls (01 R17, R18, 03 R70) -/

/-- The outstanding-count kinds of an instruction while it is in flight (01 R17; 07 R170, 09 R206, 10 R228, R233, 11 R238,
15 R298, 16 R312, 17 R334, 18 R345, 19 R366, R367, R369). -/
def countKinds : Instr → List Nat
  | .ldg _ _ _ | .ldgx _ _ _ _ _ _ _ _ _ | .qpop _ | .gather _ _ _ _ _ _ _ _ | .stand _ _ _ _ | .unstand _ _ _
  | .substat _ _ _ _ => [0]
  | .stg _ _ _ | .stgx _ _ _ _ _ _ _ _ | .flush _ _ | .inval _ _ | .scatter _ _ _ _ _ _ _ _ | .scadd _ _ _ _ _ _ _ _ _ _
  | .mrg _ _ _ _ _ _ _ | .nbrgrid _ _ _ _ _ | .nbrbin _ _ _ _ _ | .nbrpair _ _ _ _ _ | .nbrchk _ _ _ _ _ => [1]
  | .lds _ _ _ _ | .ldsx _ _ _ _ _ _ _ _ _ _ | .ldf _ _ _ | .fetest _ _ => [2]
  | .sts _ _ _ _ | .stsx _ _ _ _ _ _ _ _ _ | .stf _ _ _ | .feset _ _ _ => [3]
  | .atom _ _ _ _ _ _ _ _ | .cas _ _ _ _ _ _ _ _ | .atoms _ _ _ _ _ _ _ _ _ _ | .lease _ _ _ | .unlease _ _ | .lstat _ _
  | .qput _ _ _ _ _ | .qdone _ _ _ _ => [4]
  | .ldt _ _ _ _ _ | .stt _ _ _ _ _ | .mloop _ _ _ _ _ _ _ _ _ _ | .mfold _ _ | .mzero _ _ _ => [5]
  | .cvtdn _ _ _ _ _ dsp _ => if dsp then [5, 1] else [5]
  | .copy _ _ _ _ _ _ _ _ _ dsp ssp _ =>
    (if dsp == 2 || dsp == 3 || ssp == 2 || ssp == 4 then [5] else []) ++ (if dsp == 0 || ssp == 0 then [1] else []) ++
    (if dsp == 1 && ssp == 1 then [3] else [])
  | .ldk _ _ _ => [6]
  | i => if insCls i == .sfu || insCls i == .xl then [7] else []

/-- The registers that an operand names. The pair named g0 touches none: it reads 0, and a write to it is discarded (01 R13). -/
def Opd.regs (rep : Option Rep) (th : Thread) (o : Opd) : List Nat :=
  let r := o.sel.toNat + stepOf rep th.repidx o.fld o.words
  if o.sel.toNat ≥ 0x80 ∨ (o.words = 2 ∧ r = 0) then [] else upTo r o.words

/-- Whether a pending register holds its reader or writer: STF, TESTF, CANCELF and MOVF read a register that is pending on a
future without waiting (01 R18). -/
def Opd.holds (th : Thread) (o : Opd) (r : Nat) : Bool :=
  match th.pendingOn r with
  | none => false
  | some (.future _ _) => !o.quick
  | some (.landing _) => true

/-- TESTF and CANCELF never wait, whatever their register is pending on (06 R148, R149). -/
def neverWaits : Instr → Bool
  | .testf _ _ | .cancelf _ _ => true
  | _ => false

/-- What a member waits for before the word can start, if anything. -/
def stallOn (i : Instr) (st : Site) (th : Thread) : Option WaitOn :=
  let waits := fun o : Opd => if neverWaits i && !o.dst then [] else (o.regs st.rep th).filter (o.holds th)
  match (opds i).flatMap waits with
  | r :: _ => some (.reg r)
  | [] => (opds i).findSome? fun o =>
      if !o.isLatch then none else
      match (th.latches[o.sel.toNat - 0x80]?).getD .unwritten with
      | .pending id => some (.latch id)
      | _ => none

/-- A count that the word would raise above 63 (01 R17). -/
def countFull (i : Instr) (th : Thread) : Bool := (countKinds i).any fun k => decide (th.count k ≥ 63)

/-! ## Issuing a word -/

/-- The members that execute the word: every member of the group, or in a REP those with repeats left (06 R142). -/
def State.member? (s : State) (m : Nat × Nat) : Option (Team × Thread) :=
  (s.team? s.site.ctx m.1).bind fun t => (tget t.threads m.2).map (t, ·)

/-- Whether the word raises a trap of the checks 1 to 9 for this member. -/
def State.faultOf (s : State) (i : Instr) (m : Nat × Nat) : Option Nat :=
  (s.member? m).bind fun x => wordFault i s.site x.2 x.1.n

/-- Whether some member that the word does not trap must wait. -/
def State.stalls (s : State) (i : Instr) : Bool :=
  s.site.members.any fun m => (s.faultOf i m).isNone &&
    match s.member? m with
    | some (_, th) => (stallOn i s.site th).isSome || countFull i th
    | none => false

/-- A member's effect when it is confined to its own thread: register writes, the 32-bit result for its latch, flags, clamps,
and what happens next. -/
structure Eff where
  regs : List (Nat × Word)
  latch : Option Word
  flags : BitVec 6
  sat : Nat
  out : Out
  deriving DecidableEq, Repr

/-- A trap with nothing written. -/
def Eff.trap (cause : Nat) (einfo : Word) : Eff := ⟨[], none, 0, 0, .trap cause einfo 0⟩
/-- Nothing but going on. -/
def Eff.none : Eff := ⟨[], Option.none, 0, 0, .next⟩

/-- The latch that the word at a position writes (03 R70). -/
def Site.latch (st : Site) : Nat := (st.wi - 1) % 4

/-- A member's effect on its own thread. -/
def Thread.apply (th : Thread) (st : Site) (e : Eff) : Thread :=
  let th := { (th.writes e.regs) with flags := th.flags ||| e.flags }
  match e.latch with
  | some w => if st.cls.latched then { th with latches := th.latches.setIfInBounds st.latch (.value w) } else th
  | none => th

/-- Add clamped elements to SATCOUNT, which saturates (02 R40). -/
def satAdd (w : Word) (n : Nat) : Word := BitVec.ofNat 32 (min (w.toNat + n) 0xFFFFFFFF)

/-- The effect of the word for a member, traps of the checks 1 to 9 first. -/
def effOf (i : Instr) (st : Site) (f : Thread → Eff) (t : Team) (th : Thread) : Eff :=
  match wordFault i st th t.n with
  | some c => .trap c st.w0
  | none => f th

/-- Issue a word whose effect on each member is confined to its own thread. -/
def State.issueLocal (s : State) (i : Instr) (f : Thread → Eff) : State :=
  if s.stalls i then s.noteStall else
  let st := s.site
  let effs := st.members.filterMap fun m => (s.member? m).map fun x => (m, effOf i st f x.1 x.2)
  let s := effs.foldl (fun s e => s.modThread ⟨st.ctx, e.1.1, e.1.2⟩ (·.apply st e.2)) s
  let s := s.modCtx st.ctx fun c => { c with satcount := satAdd c.satcount ((effs.map fun e => e.2.sat).sum) }
  s.retire i (effs.map fun e => (e.1, e.2.out))

/-- Issue a word whose members act one after another, in ascending position. -/
def State.issueEach (s : State) (i : Instr) (f : State → Key → Team → Thread → State × Out) : State :=
  if s.stalls i then s.noteStall else
  let st := s.site
  let r := st.members.foldl (fun (acc : State × List ((Nat × Nat) × Out)) m =>
    match acc.1.member? m with
    | some (t, th) =>
      if th.run = .ended then acc else
      match wordFault i st th t.n with
      | some c => (acc.1, acc.2 ++ [(m, .trap c st.w0 0)])
      | none =>
        let (s', o) := f acc.1 ⟨st.ctx, m.1, m.2⟩ t th
        (s', acc.2 ++ [(m, o)])
    | none => acc) (s, [])
  r.1.retire i r.2

/-! ## Landings (01 R17) -/

/-- The landing reaches its thread: registers still pending on it are written and freed, its latch is written, its count and
flags follow, and a thread that waited on it becomes Runnable (01 R17, R22). -/
def Thread.land (th : Thread) (id : Nat) (l : Landing) : Thread :=
  let ws := l.regs.filter fun w => tget th.pend w.1 == some (.landing id)
  let th := th.writes ws
  let th := { th with
    pend := th.pend.filter fun p => p.2 != .landing id
    flags := th.flags ||| l.flags
    latches := th.latches.map fun x => if x = .pending id then .value l.latchVal else x }
  match l.kind with
  | some k => th.subCount k
  | none => th

/-- A thread whose wait has ended: Runnable again, or issuing again if its group still holds it. -/
def Thread.wake (th : Thread) (inGroup : Bool) : Thread := { th with run := if inGroup then .issuing else .runnable }

/-- Whether a thread waits on a register or a latch that has its result; `out` holds the landings still under way. -/
def Thread.waitOver (th : Thread) (out : Tab Landing) : Bool :=
  match th.run with
  | .waiting (.reg r) => (th.pendingOn r).isNone
  | .waiting (.latch id) => (tget out id).isNone
  | _ => false

/-- Wake the threads of a context whose registers or latches have landed. -/
def State.wakeCtx (s : State) (c : Nat) : State :=
  s.modCtx c fun x => { x with teams := tmap x.teams fun _ t =>
    { t with threads := tmap t.threads (fun _ th => if th.waitOver s.landings then th.wake false else th) } }

/-- A deferred result lands. A result for an ended thread is discarded (01 R23). DESIGN CHOICE (log 73): its flags are discarded
with it, and its clamps reach SATCOUNT. -/
def State.land (s : State) (id : Nat) : State :=
  match tget s.landings id with
  | none => s
  | some l =>
    let s := { s with landings := tdel s.landings id }
    let s := s.modThread l.key fun th => if th.run = .ended then th else th.land id l
    let s := s.modCtx l.key.ctx fun c => { c with satcount := satAdd c.satcount l.sat }
    s.wakeCtx l.key.ctx

/-- Register a deferred result: its destination registers and latch become pending and its kind is counted. -/
def State.defer (s : State) (l : Landing) : State :=
  let (id, s) := s.freshId
  let s := { s with landings := tset s.landings id l }
  s.modThread l.key fun th =>
    let th := { th with pend := l.regs.foldl (fun p w => if w.1 = 0 then p else tset p w.1 (.landing id)) th.pend }
    let th := match l.latch with
      | some k => { th with latches := th.latches.setIfInBounds k (.pending id) }
      | none => th
    match l.kind with
    | some k => th.addCount k
    | none => th

end Sys2Proof.Machine
end

