-- ==== Sys2Proof/Machine/Home.lean ====
section
/-! DEFINITION. Physical memory and the home slices: the physical map (22 R398, R399), home sectors and their sidebands
(15 R297, R308, 22 R403, R404), and the pushes that a write at the home causes (16 R317). -/

namespace Sys2Proof.Machine

/-- The device id of a physical address (00 R2). -/
def devOf (pa : Pair) : BitVec 19 := pa.extractLsb' 45 19
/-- The local part of a physical address. -/
def localOf (pa : Pair) : Nat := pa.toNat % 2 ^ 45
/-- An address of this package. -/
def State.isLocal (s : State) (pa : Pair) : Bool := devOf pa == s.pkg.deviceId
/-- HBM4-backed local addresses (22 R398). -/
def inHbm (a : Nat) : Bool := decide (a < 512000000000)
/-- Control space (22 R398). -/
def inControl (a : Nat) : Bool := decide (0x1F0000000000 ≤ a) && decide (a < 0x1F0000010000)
/-- The home die of a local address: the die of its stack (22 R397, R398). -/
def homeDie (a : Nat) : Nat := field a 14 12 / 2
/-- The home slice within the die (15 R296). -/
def homeSlice (a : Nat) : Nat :=
  field a 13 8 ^^^ field a 19 14 ^^^ field a 25 20 ^^^ field a 31 26 ^^^ field a 37 32
/-- An unbacked access has taken place (22 R399). -/
def State.setUnbk (s : State) : State := s.modPkg fun p => { p with unbk := true }

/-- A byte as its home gives it: the cached sector, else memory; unbacked addresses read 0. -/
def State.homeByte (s : State) (a : Nat) : Byte :=
  if !inHbm a then 0 else
  match tget s.pkg.l2 (a / 128) with
  | some h => secByte h.data (a % 128)
  | none => hread s.pkg.hbm a

/-- `n` bytes from the home, as a number. -/
def State.homeNat (s : State) (a : Nat) : Nat → Nat
  | 0 => 0
  | n + 1 => (s.homeByte a).toNat + 256 * s.homeNat (a + 1) n

/-- The window that holds a local address and carries a sideband (22 R401, R403). -/
def State.windowAt (s : State) (a : Nat) : Option (Nat × Window) :=
  s.pkg.windows.find? fun e => e.2.en && (e.2.fmt == 1 || e.2.fmt == 2) && decide (e.2.base.toNat ≤ a) &&
    decide (a < e.2.limit.toNat)

/-- The block size of a window format (02 R46). -/
def blockSize (fmt : BitVec 2) : Nat := if fmt == 1 then 64 else 32

/-- The exponent bytes of a sector: where the first lies, and how many (02 R46). -/
def expBytes (w : Window) (a : Nat) : Nat × Nat :=
  (w.expbase.toNat + (a / 128 * 128 - w.base.toNat) / blockSize w.fmt, 128 / blockSize w.fmt)

/-- Fill a sector into its home with its sideband (22 R403). -/
def State.fillSector (s : State) (sec : Nat) : HomeSector :=
  let data := secOf ((List.range 128).map fun k => hread s.pkg.hbm (128 * sec + k))
  match s.windowAt (128 * sec) with
  | some (i, w) =>
    let e := expBytes w (128 * sec)
    { data, st := .clean, tag := some (i, w.fmt), side := BitVec.ofNat 32 (s.homeNat e.1 e.2), sideDirty := false,
      used := 0 }
  | none => { data, st := .clean, tag := none, side := 0, sideDirty := false, used := 0 }

/-- An Update-only sector merged into the data array, where it is Dirty with the same bytes (15 R308). -/
def HomeSector.merged (h : HomeSector) : HomeSector :=
  match h.st with
  | .updateOnly _ => { h with st := .dirty }
  | _ => h

/-! ## Constant data that is stored to (07 R161) -/

/-- Whether a constant space holds bytes of a local sector. -/
def ConstSpace.holds (c : ConstSpace) (s : State) (sec : Nat) : Bool :=
  c.pages.any fun p => s.isLocal p.2 && localOf p.2 / 65536 == sec / 512

/-- Whether a local sector holds constant data of a launch or of a team. -/
def State.isConst (s : State) (sec : Nat) : Bool :=
  s.launches.any (fun l => l.2.konst.holds s sec) || s.ctxs.any fun c => c.2.teams.any fun t => t.2.konst.holds s sec

/-- Note a sector of constant data as it now is. -/
def State.noteConst (s : State) (sec : Nat) : State :=
  if !(s.isConst sec) then s else
  let d := ((tget s.pkg.l2 sec).getD (s.fillSector sec)).data
  s.modPkg fun p => { p with noted := p.noted ++ [(sec, d)] }

/-! ## Sectors that leave (15 R297, 22 R404) -/

/-- The lines of the data array of a sector's slice, its own apart, each with its last use (15 R297). -/
def State.l2Lines (s : State) (sec : Nat) : Tab Nat :=
  s.pkg.l2.foldl (fun acc e =>
    match e.2.st with
    | .updateOnly _ => acc
    | _ =>
      if e.1 / 2 != sec / 2 && homeDie (128 * e.1) == homeDie (128 * sec) && homeSlice (128 * e.1) == homeSlice (128 * sec) then
        tset acc (e.1 / 2) (max e.2.used ((tget acc (e.1 / 2)).getD 0))
      else acc) []

/-- The least recently used line of some. -/
def lruLine : Tab Nat → Option Nat
  | [] => none
  | e :: r => some (r.foldl (fun m x => if x.2 < m.2 then x else m) e).1

/-- Whether a sector is held in the update array, and not in the data array. -/
def HomeSector.inUpdate (h : HomeSector) : Bool :=
  match h.st with
  | .updateOnly _ => true
  | _ => false

/-- Whether the data array holds a sector. -/
def State.inData (s : State) (sec : Nat) : Bool := (tget s.pkg.l2 sec).any fun h => !h.inUpdate

/-- Room for a sector in the data array of its slice: where its line is not there and its set, of 512, holds 16 others, the least
recently used of them leaves by `evict` (15 R297). -/
def State.roomBy (evict : State → Nat → State) (s : State) (sec : Nat) : State :=
  if s.inData (2 * (sec / 2)) || s.inData (2 * (sec / 2) + 1) then s else
  let lines := s.l2Lines sec
  if lines.length < 16 then s else
  let set := lines.filter fun l => Config.l2Set l.1 % 512 == Config.l2Set (sec / 2) % 512
  if set.length < 16 then s else
  match lruLine set with
  | some l => [2 * l, 2 * l + 1].foldl (fun s k => if s.inData k then evict s k else s) s
  | none => s

/-- An exponent byte that leaves with its sector merges at its home: in the cached sector, which becomes Dirty in the data array, or in
memory (log 86). -/
def State.expPutBy (evict : State → Nat → State) (s : State) (a : Nat) (b : Byte) : State :=
  if !inHbm a then s.setUnbk else
  let s := if (tget s.pkg.l2 (a / 128)).any HomeSector.inUpdate then s.roomBy evict (a / 128) else s
  (match tget s.pkg.l2 (a / 128) with
    | some h => s.modPkg fun p => { p with
        l2 := tset p.l2 (a / 128) { h.merged with data := secMerge (maskOf (a % 128) 1) (secPut (a % 128) 1 b.toNat) h.data, st := .dirty } }
    | none => s.modPkg fun p => { p with hbm := hwrite p.hbm a b }).noteConst (a / 128)

/-- Write a home sector to HBM4, its dirty sideband into the exponent region if its window is still enabled with the same
format, and leave it clean (22 R404). -/
def State.cleanBy (evict : State → Nat → State) (s : State) (sec : Nat) : State :=
  match tget s.pkg.l2 sec with
  | none => s
  | some h =>
    let hbm := if h.st = .clean then s.pkg.hbm else hwriteL s.pkg.hbm (128 * sec) (leBytes 128 h.data.toNat)
    let s := s.modPkg fun p => { p with hbm, l2 := tset p.l2 sec { h with st := .clean, sideDirty := false } }
    match h.sideDirty, h.tag with
    | true, some (i, fmt) =>
      match tget s.pkg.windows i with
      | some w => if w.en && w.fmt == fmt then
          let e := expBytes w (128 * sec)
          (List.range e.2).foldl (fun s k => s.expPutBy evict (e.1 + k) (BitVec.ofNat 8 (field h.side.toNat (8 * k + 7) (8 * k)))) s
        else s
      | none => s
    | _, _ => s

/-- Write a home sector back and drop it. Its exponents may need room, and what leaves for them room again, to a depth that the number
of sectors bounds. -/
def State.evictDeep : Nat → State → Nat → State
  | 0, s, _ => s
  | n + 1, s, sec => (s.cleanBy (State.evictDeep n) sec).modPkg fun p => { p with l2 := tdel p.l2 sec }

/-- Write a home sector back and leave it clean. -/
def State.cleanHome (s : State) (sec : Nat) : State := s.cleanBy (State.evictDeep s.pkg.l2.length) sec

/-- Write a home sector back and drop it. -/
def State.evictHome (s : State) (sec : Nat) : State := State.evictDeep (s.pkg.l2.length + 1) s sec

/-- Room for a sector in the data array of its slice. -/
def State.l2Room (s : State) (sec : Nat) : State := s.roomBy State.evictHome sec

/-- The fill of a sector whose exponents are unbacked sets UNBK (22 R399, R403). -/
def State.filled (s : State) (sec : Nat) : State :=
  match s.windowAt (128 * sec), tget s.pkg.l2 sec with
  | some (_, w), none => if inHbm (expBytes w (128 * sec)).1 then s else s.setUnbk
  | _, _ => s

/-- The sector at its home, filled if Invalid and merged if Update-only, and used now (15 R297, R308). -/
def State.homeGet (s : State) (sec : Nat) : HomeSector × State :=
  let s := (s.l2Room sec).filled sec
  let (n, s) := s.freshId
  let h := { ((tget s.pkg.l2 sec).getD (s.fillSector sec)).merged with used := n }
  (h, s.modPkg fun p => { p with l2 := tset p.l2 sec h })

/-- An Update-only sector is merged into the data array (15 R308). -/
def State.mergeUpdate (s : State) (sec : Nat) : State :=
  if (tget s.pkg.l2 sec).any HomeSector.inUpdate then (s.homeGet sec).2 else s

/-- One push to one subscriber, parked while its context is out (16 R318, R321). -/
def Subscriber.push (b : Subscriber) (v : BitVec 128) (scope : Nat) : Subscriber :=
  if b.removing then b
  else if b.parked then { b with pval := v, pscope := scope, parkn := min 15 (b.parkn + 1) }
  else { b with queued := b.queued ++ [(v, scope)] }

/-- The 16 bytes of a granule at its home. -/
def State.granule (s : State) (g : Nat) : BitVec 128 := BitVec.ofNat 128 (s.homeNat (16 * g) 16)

/-- The pushes of a write that carries a release at a scope: one for each subscribed granule of the sector that the write
touches (16 R317, R319). -/
def State.pushes (s : State) (sec : Nat) (mask : SectorMask) (scope : Nat) : State :=
  (List.range 8).foldl (fun s k =>
    if mask &&& maskOf (16 * k) 16 = 0 then s else
    match tget s.pkg.subs (8 * sec + k) with
    | none => s
    | some _ =>
      let v := s.granule (8 * sec + k)
      s.modPkg fun p => { p with subs := tmod p.subs (8 * sec + k) (List.map (Subscriber.push · v scope)) }) s

/-- Merge bytes into a home sector, which becomes Dirty (15 R297); no push. Unbacked bytes are discarded. -/
def State.mergeHome (s : State) (sec : Nat) (mask : SectorMask) (data : SectorData) : State :=
  if mask = 0 then s else if !inHbm (128 * sec) then s.setUnbk else
  let (h, s) := s.homeGet sec
  (s.modPkg fun p => { p with l2 := tset p.l2 sec { h with data := secMerge mask data h.data, st := .dirty } }).noteConst sec

/-- A write that arrives at the home: the bytes merge, and subscribed granules push (16 R317). -/
def State.homeStore (s : State) (sec : Nat) (mask : SectorMask) (data : SectorData) : State :=
  (s.mergeHome sec mask data).pushes sec mask 0

/-- Write `n` bytes that lie in one sector at the home. -/
def State.homeWrite (s : State) (a n v : Nat) : State :=
  s.homeStore (a / 128) (maskOf (a % 128) n) (secPut (a % 128) n v)

/-- Write `n` bytes that lie in one sector at the home, as the write of an atomic whose release has a scope. -/
def State.homeWriteRel (s : State) (a n v scope : Nat) : State :=
  (s.mergeHome (a / 128) (maskOf (a % 128) n) (secPut (a % 128) n v)).pushes (a / 128) (maskOf (a % 128) n) scope

/-- Write bytes anywhere at their homes, one at a time in ascending order. -/
def State.homeWriteL (s : State) (a : Nat) : List Byte → State
  | [] => s
  | b :: bs => (s.homeWrite a 1 b.toNat).homeWriteL (a + 1) bs

/-- A load at the home: the sector is filled, and an unbacked address reads 0 and sets UNBK (22 R399). -/
def State.homeLoad (s : State) (a n : Nat) : Nat × State :=
  if inHbm a then (s.homeNat a n, (s.homeGet (a / 128)).2) else (0, s.setUnbk)

/-- The sideband word that `ldg.xs` returns (07 R160): an untagged sector reads 0. -/
def State.sideLoad (s : State) (a : Nat) : Word × State :=
  if !inHbm a then (0, s.setUnbk) else
  let (h, s) := s.homeGet (a / 128)
  (match h.tag with
    | some (_, fmt) => if fmt == 1 then h.side &&& 0xFFFF#32 else h.side
    | none => 0, s)

/-- A sideband store (07 R160, 22 R403): a tagged sector's sideband changes and becomes dirty, any other store is discarded.
`mask` selects exponents by byte. -/
def State.sideStore (s : State) (a : Nat) (mask : BitVec 4) (v : Word) : State :=
  if !inHbm a then s.setUnbk else
  let (h, s) := s.homeGet (a / 128)
  match h.tag with
  | none => s
  | some (_, fmt) =>
    let use := fun k => mask.getLsbD k && (fmt != 1 || decide (k < 2))
    let side := (List.range 4).foldl (fun (w : Nat) k =>
      w + 2 ^ (8 * k) * (if use k then field v.toNat (8 * k + 7) (8 * k) else field h.side.toNat (8 * k + 7) (8 * k))) 0
    s.modPkg fun p => { p with l2 := tset p.l2 (a / 128) { h with side := BitVec.ofNat 32 side, sideDirty := true } }

end Sys2Proof.Machine
end

