-- ==== Sys2Proof/Machine/Translate.lean ====
section
/-! DEFINITION. Address translation (20): the table walk, TLBs whose entries may outlive a change of the table (R381),
permissions (R379), and the pending table with its fault records (R384, R385). -/

namespace Sys2Proof.Machine

/-- What a walk finds (R376 to R378): a leaf and its level, a missing entry at a level, or reserved values. -/
inductive Walk where
  | leaf (e : Pair) (level : Nat)
  | missing (level : Nat)
  | reserved
  deriving DecidableEq, Repr

/-- The bits of a virtual address below a leaf at a level: 16, 26 or 36. -/
def pageBits (level : Nat) : Nat := 16 + 10 * level

/-- The reserved values of a page-table entry with V = 1 (R378), but for one that names another device. -/
def pteReserved (e : Nat) (level : Nat) : Bool :=
  field e 12 6 != 0 || (e.testBit 1 && (field e 15 13 != 0 || level == 3 || field e (pageBits level - 1) 16 % 2 ^ (pageBits level - 16) != 0))
    || (!(e.testBit 1) && level == 0) || (e.testBit 3 && !(e.testBit 2))

/-- Walk from the table at local address `tbl` of a level (R377). -/
def State.walkFrom (s : State) (va : Nat) : Nat → Nat → Walk
  | level, tbl =>
    let e := s.homeNat (tbl + 8 * field va (pageBits level + 9) (pageBits level)) 8
    if !(e.testBit 0) then .missing level
    else if pteReserved e level then .reserved
    else if e.testBit 1 then .leaf (BitVec.ofNat 64 e) level
    else if BitVec.ofNat 19 (e / 2 ^ 45) != s.pkg.deviceId then .reserved
    else match level with
      | 0 => .reserved
      | l + 1 => s.walkFrom va l (e % 2 ^ 45 / 2 ^ 13 * 2 ^ 13)

/-- The walk of an address space (R376). -/
def State.walk (s : State) (die asid : Nat) (va : Pair) : Walk :=
  let at0 := (s.die die).tcb.atbase
  let e := s.homeNat (localOf at0 + 8 * asid) 8
  if !(e.testBit 0) then .missing 3
  else if field e 12 1 != 0 || BitVec.ofNat 19 (e / 2 ^ 45) != s.pkg.deviceId then .reserved
  else s.walkFrom va.toNat 3 (e % 2 ^ 45 / 2 ^ 13 * 2 ^ 13)

/-- Whether a walk from a table ends at an unbacked entry, which reads 0 (22 R399). -/
def State.walkFromUnbk (s : State) (va : Nat) : Nat → Nat → Bool
  | level, tbl =>
    let a := tbl + 8 * field va (pageBits level + 9) (pageBits level)
    let e := s.homeNat a 8
    if !(inHbm a) then true
    else if !(e.testBit 0) || pteReserved e level || e.testBit 1 || BitVec.ofNat 19 (e / 2 ^ 45) != s.pkg.deviceId then false
    else match level with
      | 0 => false
      | l + 1 => s.walkFromUnbk va l (e % 2 ^ 45 / 2 ^ 13 * 2 ^ 13)

/-- A walk that reads an unbacked entry sets UNBK (22 R399). -/
def State.walked (s : State) (die asid : Nat) (va : Pair) : State :=
  let a := localOf (s.die die).tcb.atbase + 8 * asid
  let e := s.homeNat a 8
  if !(inHbm a) || (e.testBit 0 && field e 12 1 == 0 && BitVec.ofNat 19 (e / 2 ^ 45) == s.pkg.deviceId &&
      s.walkFromUnbk va.toNat 3 (e % 2 ^ 45 / 2 ^ 13 * 2 ^ 13)) then s.setUnbk else s

/-- The virtual page number of an address at a level. -/
def vpageOf (va : Pair) (level : Nat) : Nat := va.toNat % 2 ^ 56 / 2 ^ pageBits level

/-- A TLB entry that covers an address (R380). -/
def TlbEntry.covers (t : TlbEntry) (asid : Nat) (va : Pair) : Bool := t.asid == asid && t.vpage == vpageOf va t.level

/-- The accesses that a leaf permits or refuses (R379). -/
inductive Acc where
  | load | store | atomic | fetch
  deriving DecidableEq, Repr

/-- The PERM qualifier that a leaf raises for an access, in the order of R379. -/
def permFault (leaf : Pair) (acc : Acc) (sup : Bool) : Option Nat :=
  if leaf.getLsbD 5 && !sup then some 3
  else if (acc == .store || acc == .atomic) && !(leaf.getLsbD 3) then some 1
  else if (acc == .load || acc == .atomic) && !(leaf.getLsbD 2) then some 0
  else if acc == .fetch && !(leaf.getLsbD 4) then some 2
  else none

/-- The physical address that a leaf gives. -/
def leafPa (leaf : Pair) (level : Nat) (va : Pair) : Pair :=
  BitVec.ofNat 64 (leaf.toNat / 2 ^ pageBits level * 2 ^ pageBits level + va.toNat % 2 ^ pageBits level)

/-- Install a leaf in the TLBs of a core and its die; 128 and 16,384 entries, the oldest dropped (R380). -/
def State.tlbInstall (s : State) (core : Option Nat) (die : Nat) (t : TlbEntry) : State :=
  let put := fun (l : List TlbEntry) (n : Nat) => (t :: l.filter fun x => !(x.asid == t.asid && x.vpage == t.vpage && x.level == t.level)).take n
  let s := s.modDie die fun d => { d with tlb := put d.tlb 16384 }
  match core with
  | some g => s.modCore g fun c => { c with tlb := put c.tlb 128 }
  | none => s

/-- The leaf for an address: from a TLB entry that agrees with the table; where an entry has outlived a change of the table,
the entry or a fresh walk, freely (R381); else from a walk, which installs what it finds. -/
def State.lookup (s : State) (core : Option Nat) (die asid : Nat) (va : Pair) : Walk × State :=
  let fresh := s.walk die asid va
  let own := match core with
    | some g => (s.core g).tlb
    | none => []
  match (own ++ (s.die die).tlb).find? (TlbEntry.covers · asid va) with
  | some t =>
    if fresh = .leaf t.leaf t.level then (fresh, s)
    else
      let (old, s) := s.drawBool
      if old then (.leaf t.leaf t.level, s) else
      let s := s.walked die asid va
      match fresh with
      | .leaf e l => (fresh, s.tlbInstall core die ⟨asid, vpageOf va l, l, e⟩)
      | _ => (fresh, s)
  | none =>
    let s := s.walked die asid va
    match fresh with
    | .leaf e l => (fresh, s.tlbInstall core die ⟨asid, vpageOf va l, l, e⟩)
    | _ => (fresh, s)

/-- The outcome of a translation with its permission check. -/
inductive Tr where
  | ok (pa : Pair)
  | missing (level : Nat)
  | reserved
  | perm (q : Nat)
  deriving DecidableEq, Repr

/-- What a leaf, or its absence, means for an access; control space refuses every access at user level (22 R400). -/
def State.judge (s : State) (va : Pair) (acc : Acc) (sup : Bool) : Walk → Tr
  | .leaf e l =>
    let pa := leafPa e l va
    if s.isLocal pa && inControl (localOf pa) && !sup then .perm 3 else
      match permFault e acc sup with
      | some q => .perm q
      | none => .ok pa
  | .missing l => .missing l
  | .reserved => .reserved

/-- Translate for an agent of a core, or of a die alone. -/
def State.translate (s : State) (core : Option Nat) (die asid : Nat) (va : Pair) (acc : Acc) (sup : Bool) : Tr × State :=
  match s.lookup core die asid va with
  | (w, s) => (s.judge va acc sup w, s)

/-- N, the records of a fault buffer (R386). -/
def Tcb.n (t : Tcb) : Nat := 2 ^ t.log2n

/-- Write one fault record, its STAMP last, and send the PAGE 3 notice when NOTE is 1 (R385, R386). -/
def State.faultRecord (s : State) (die asid vpage level kind tid core : Nat) : State :=
  let d := s.die die
  let a := localOf d.tcb.fbbase + 32 * (d.tcb.put.toNat % d.tcb.n)
  let v : Nat := (va56 (BitVec.ofNat 56 (vpage * 2 ^ 16))).toNat
  let w2 := asid + kind * 2 ^ 17 + level * 2 ^ 20
  let w3 := core % 128 + tid * 2 ^ 7
  let bytes := leBytes 8 v ++ leBytes 4 w2 ++ leBytes 4 w3 ++ leBytes 8 s.ns.toNat ++ leBytes 4 d.seq.toNat
    ++ leBytes 4 (2 ^ 31 + d.tcb.put.toNat % 2 ^ 31)
  let s := s.homeWriteL a bytes
  let s := s.modDie die fun d => { d with seq := d.seq + 1, tcb := { d.tcb with put := d.tcb.put + 1 } }
  if d.tcb.note then s.notify 0x033 (d.seq.setWidth 64) (BitVec.ofNat 64 die) else s

/-- A missing page joins the pending table (R384): KIND and the first access are those of R385. -/
def State.pendFault (s : State) (die asid : Nat) (va : Pair) (level kind tid core : Nat) : State :=
  let d := s.die die
  let page := (asid, vpageOf va 0)
  if d.pending.contains page then s
  else if d.pending.length ≥ 256 then s.modDie die fun d => { d with tcb := { d.tcb with dropped := true } }
  else
    let s := s.modDie die fun d => { d with pending := d.pending ++ [page] }
    if (d.tcb.put - d.tcb.get).toNat = d.tcb.n then
      s.modDie die fun d => { d with tcb := { d.tcb with dropped := true } }
    else s.faultRecord die asid page.2 level kind tid core

/-- EINFO bit 0 of an access (12 R271). -/
def accInfo (acc : Acc) : Word := if acc == .store || acc == .atomic then 1 else 0
/-- KIND of a thread's access in a fault record (R385). -/
def accKind : Acc → Nat
  | .load => 0
  | .fetch => 2
  | _ => 1

/-- What the outcome of a translation is to a thread (R373): the physical address, or the trap or park it ends in, with its pending
fault. -/
def State.threadAns (s : State) (k : Key) (c : Ctx) (va : Pair) (acc : Acc) : Tr → (Pair ⊕ Out) × State
  | .ok pa => (.inl pa, s)
  | .missing l => (.inr (.park va (accKind acc)), s.pendFault (dieOf c.core) c.asid va l (accKind acc) k.tid (c.core % 96))
  | .reserved => (.inr (.trap 0x032 (accInfo acc) va), s)
  | .perm q => (.inr (.trap (0x040 + q) (accInfo acc) va), s)

/-- A thread's translation. -/
def State.threadTr (s : State) (k : Key) (va : Pair) (acc : Acc) : (Pair ⊕ Out) × State :=
  match s.thread? k, s.ctx? k.ctx with
  | some th, some c =>
    match s.translate (some c.core) (dieOf c.core) c.asid va acc th.priv with
    | (r, s) => s.threadAns k c va acc r
  | _, _ => (.inr .next, s)

/-- An engine's translation (R373), at the level of its issuing context's threads: FAULT on any failure, with a fault record
for a missing page. The engine accesses at the level its issuer had when it issued. -/
def State.engineTr (s : State) (core asid : Nat) (va : Pair) (acc : Acc) (sup : Bool) : Option Pair × State :=
  match s.translate none (dieOf core) asid va acc sup with
  | (.ok pa, s) => (some pa, s)
  | (.missing l, s) => (none, s.pendFault (dieOf core) asid va l 3 0 (core % 96))
  | (_, s) => (none, s)

end Sys2Proof.Machine
end

