-- ==== Sys2Proof/Machine/L1.lean ====
section
/-! DEFINITION. The L1s and their snoop domains (07 R154, R155, 10 R211, R212, 14 R292): obtaining, sharing, writing back and
dropping sectors, the cache actions of releases and acquires (07 R168), and requests to other devices (25 R436). -/

namespace Sys2Proof.Machine

/-- The members of a list without repeats. -/
def dedup (l : List Nat) : List Nat := l.foldl (fun acc x => if acc.contains x then acc else acc ++ [x]) []

/-- Whether a context holds a team of a cluster. -/
def Ctx.holds (c : Ctx) (launch cluster : Nat) : Bool := c.teams.any fun t => t.2.launch == launch && t.2.cluster == cluster

/-- The cores that hold a team of a cluster: its snoop domain, which a moved team's core joins at the first issue there
(14 R292). -/
def State.clusterCores (s : State) (launch cluster : Nat) : List Nat :=
  dedup ((s.ctxs.filter fun e => e.2.place != .saved && e.2.joined && e.2.holds launch cluster).map (·.2.core))

/-- The snoop domain of a thread: the cores of its cluster. -/
def State.domainOf (s : State) (k : Key) : List Nat :=
  match s.team? k.ctx k.tslot with
  | some t => s.clusterCores t.launch t.cluster
  | none => []

/-- Every core of every snoop domain that contains a core. -/
def State.coreDomain (s : State) (core : Nat) : List Nat :=
  dedup (core :: (s.ctxs.filter fun e => e.2.place != .saved && e.2.joined && e.2.core == core).flatMap fun e =>
    e.2.teams.flatMap fun t => s.clusterCores t.2.launch t.2.cluster)

/-- Some cores with every core of their snoop domains, of the domains of those, and so on for `n` rounds. -/
def State.reach (s : State) : Nat → List Nat → List Nat
  | 0, l => l
  | n + 1, l =>
    let l' := dedup (l ++ l.flatMap s.coreDomain)
    if l'.length = l.length then l else s.reach n l'

/-- The cores to which the dirty bytes that some cores have stored may have moved, one store after another: releases and acquires
act on all of them. -/
def State.snoopOf (s : State) (cores : List Nat) : List Nat := s.reach s.ctxs.length cores

/-- The sector of a physical address. -/
def sectorOf (pa : Pair) : Nat := pa.toNat / 128
/-- The first byte of a sector. -/
def sectorPa (sec : Nat) : Pair := BitVec.ofNat 64 (128 * sec)

def State.l1 (s : State) (core sec : Nat) : Option L1Sector := tget (s.core core).l1 sec
def State.setL1 (s : State) (core sec : Nat) (x : L1Sector) : State :=
  s.modCore core fun c => { c with l1 := tset c.l1 sec x }
def State.delL1 (s : State) (core sec : Nat) : State := s.modCore core fun c => { c with l1 := tdel c.l1 sec }

/-! ## Requests to other devices -/

/-- Whether the routing table holds the way to a device (25 R435). -/
def State.present (s : State) (dev : BitVec 19) : Bool :=
  if dev.extractLsb' 4 15 == s.pkg.deviceId.extractLsb' 4 15 then s.pkg.routing.members.getLsbD (dev.toNat % 16)
  else s.pkg.routing.groups.contains (dev.toNat / 16)

/-- The payload flits of a packet (R433): LEN of a packet that carries `n` bytes. -/
def packetLen (n : Nat) : Nat := if n ≤ 32 then 0 else (n - 32 + 63) / 64

/-- Whether a request changes the bytes at its address. -/
def RemKind.changes : RemKind → Bool
  | .fill _ | .read _ _ | .image _ _ | .konst _ | .wait _ => false
  | _ => true

/-- The AOP field of a request's packet (R433): the operation of an atomic; a QDONE adds. -/
def RemKind.aop : RemKind → Nat
  | .atom q => q.op
  | .qdone _ => 3
  | _ => 0

/-- The fills that some cores have asked for are stale, of the sectors that a test selects: they may be read before what follows. -/
def State.staleFills (s : State) (cores : List Nat) (sel : Nat → Bool) : State :=
  { s with remotes := tmap s.remotes fun _ x =>
      match x.kind with
      | .fill _ => if sel (sectorOf x.pa) && cores.contains x.core then { x with kind := .fill true } else x
      | _ => x }

/-- What the operations of some cores have read of a sector of another device is stale, and what they are reading: they read it
again (08 R188, 25 R436). -/
def State.staleReads (s : State) (cores : List Nat) (sec : Nat) : State :=
  { s with
    remotes := tmap s.remotes fun _ x =>
      match x.kind with
      | .read op _ => if sectorOf x.pa = sec ∧ cores.contains x.core then { x with kind := .read op true } else x
      | _ => x
    ops := tmap s.ops fun _ o =>
      if cores.contains (((s.ctx? o.key.ctx).map (·.core)).getD o.core) then { o with buffer := tdel o.buffer sec } else o }

/-- What has been read of a sector of a save image on another device is stale, and so is what is being read (12 R259). -/
def State.staleImages (s : State) (sec : Nat) : State :=
  { s with
    remotes := tmap s.remotes fun _ x =>
      match x.kind with
      | .image c _ => if sectorOf x.pa = sec then { x with kind := .image c true } else x
      | _ => x
    fetched := tmap s.fetched fun _ t => tdel t sec }

/-- A change to a sector of another device leaves after the reads of its snoop domains, which are stale then. -/
def State.staleBefore (s : State) (r : Remote) : State :=
  if !r.kind.changes then s else
  let dom := s.snoopOf [r.core]
  ((s.staleFills dom fun sec => sec == sectorOf r.pa).staleReads dom (sectorOf r.pa)).staleImages (sectorOf r.pa)

/-- Send a request packet under a fresh tag and remember it. -/
def State.send (s : State) (kind : Nat) (pa : Pair) (bytes : Nat) (data : List Byte) (r : Remote) : State :=
  let (tag, s) := (s.staleBefore r).freshId
  let r := { r with since := s.pkg.up }
  let head : PacketHead :=
    { reserved := false, kind, aop := r.kind.aop, bytes, len := packetLen data.length, host := false, src := s.pkg.deviceId,
      dst := devOf pa, tag := BitVec.ofNat 16 tag, addr := pa }
  { s with remotes := tset s.remotes tag r, sent := s.sent ++ [⟨head, data⟩] }

/-- The runs of set bits of a mask: first byte and length. -/
def runsOf (mask : SectorMask) : List (Nat × Nat) :=
  (List.range 128).foldl (fun acc k =>
    if !(mask.getLsbD k) then acc else
    match acc.getLast? with
    | some (a, n) => if a + n = k then acc.dropLast ++ [(a, n + 1)] else acc ++ [(k, 1)]
    | none => [(k, 1)]) []

/-- Write bytes of a sector to another device, one acknowledged run at a time (R436). -/
def State.remoteWrite (s : State) (core asid sec : Nat) (mask : SectorMask) (data : SectorData)
    (last : Option LastStore) (op : Option Nat) : State :=
  (runsOf mask).foldl (fun s r =>
    let pa := sectorPa sec + BitVec.ofNat 64 r.1
    s.send 3 pa r.2 (leBytes r.2 (secGet data r.1 r.2)) ⟨pa, asid, core, .write last op, 0⟩) s

/-! ## Writing back and dropping -/

/-- Write the dirty bytes of one L1's copy to their home; every copy in the domain becomes clean (R212). -/
def State.writeBack (s : State) (core sec : Nat) : State :=
  match s.l1 core sec with
  | none => s
  | some x =>
    if x.dirty = 0 then s else
    let s := (s.coreDomain core).foldl (fun s g =>
      match s.l1 g sec with
      | some y => if g = core ∨ y.dirty = 0 then s.setL1 g sec { y with dirty := 0, hold := .clean } else s
      | none => s) s
    if s.isLocal (sectorPa sec) then s.homeStore (localOf (sectorPa sec) / 128) x.dirty x.data
    else s.remoteWrite core x.asid sec x.dirty x.data x.last none

/-- Write a copy back and drop it. -/
def State.evictL1 (s : State) (core sec : Nat) : State := (s.writeBack core sec).delL1 core sec

/-- Write back, or write back and drop, the sectors of some L1s that a test selects. -/
def State.cleanL1s (s : State) (cores : List Nat) (drop : Bool) (sel : Nat → Bool) : State :=
  cores.foldl (fun s g =>
    (s.core g).l1.foldl (fun s e => if sel e.1 then (if drop then s.evictL1 g e.1 else s.writeBack g e.1) else s) s) s

/-- The cache actions of a release at a scope (R168) for a snoop domain; team and cluster scope take none. -/
def State.releaseAt (s : State) (cores : List Nat) (scope : Nat) : State :=
  if scope ≤ 2 then s else s.cleanL1s (s.snoopOf cores) false fun sec => scope == 5 || s.isLocal (sectorPa sec)

/-- Drop from some L1s the sectors that a test selects, while the dirty bytes of this package's sectors are on their way home: until
they are there, those bytes alone stay, and the domain sees them (08 R176, R178). -/
def State.dropClean (s : State) (cores : List Nat) (sel : Nat → Bool) : State :=
  cores.foldl (fun s g =>
    (s.core g).l1.foldl (fun s e =>
      if !(sel e.1) then s
      else if e.2.dirty = 0 ∨ !(s.isLocal (sectorPa e.1)) then s.evictL1 g e.1
      else s.setL1 g e.1 { e.2 with valid := e.2.dirty }) s) s

/-- The cache actions of an acquire at a scope (R168): an acquire does not wait for what it writes back, which may be on its way when
the acquire has ended (`late`). At sys scope a sector of another device that was asked for before it is read again (08 R182). -/
def State.acquireBy (s : State) (cores : List Nat) (scope : Nat) (late : Bool) : State :=
  let dom := s.snoopOf cores
  let sel := fun sec => scope == 5 || s.isLocal (sectorPa sec)
  let s := if late then s.dropClean dom sel else s.cleanL1s dom true sel
  if scope = 5 then s.staleFills dom fun _ => true else s

/-- Whether some L1s hold dirty bytes of this package. -/
def State.homeDirty (s : State) (cores : List Nat) : Bool :=
  (s.snoopOf cores).any fun g => (s.core g).l1.any fun e => e.2.dirty != 0 && s.isLocal (sectorPa e.1)

/-- An acquire at a scope; whether its write-backs arrive within it is free. -/
def State.acquireAt (s : State) (cores : List Nat) (scope : Nat) : State :=
  if scope ≤ 2 then s
  else if s.homeDirty cores then
    let (late, s) := s.drawBool
    s.acquireBy cores scope late
  else s.acquireBy cores scope false

/-- Whether a write-back or a write of one of these cores waits for its acknowledgement. -/
def State.unacked (s : State) (cores : List Nat) : Bool :=
  let cores := s.snoopOf cores
  s.remotes.any fun r => cores.contains r.2.core &&
    match r.2.kind with
    | .write _ _ => true
    | _ => false

/-- Make room for a line: with 1,024 lines in L1 a victim is written back and dropped, an NA sector's line first (R211); which
one is free. -/
def State.l1Room (s : State) (core sec : Nat) : State :=
  let c := s.core core
  let lines := dedup (c.l1.map (·.1 / 2))
  if lines.contains (sec / 2) || decide (lines.length < 1024) then s else
  let na := dedup ((c.l1.filter (·.2.na)).map (·.1 / 2))
  let from_ := if na.isEmpty then lines else na
  let (k, s) := s.drawNat
  let line := from_.getD (k % from_.length) 0
  (s.evictL1 core (2 * line)).evictL1 core (2 * line + 1)

/-- An empty sector. -/
def L1Sector.empty (na : Bool) (asid : Nat) : L1Sector :=
  { data := 0, valid := 0, dirty := 0, hold := .clean, na, asid, last := none }

/-! ## Stores and loads -/

/-- Obtain a sector writable: every other copy in the domains of the core is dropped, and dirty bytes move to the storing L1
(R212, 14 R292). -/
def State.obtain (s : State) (core sec : Nat) (na : Bool) (asid : Nat) : L1Sector × State :=
  let s := s.l1Room core sec
  let own := (s.l1 core sec).getD (L1Sector.empty na asid)
  ((s.coreDomain core).filter (· != core)).foldl (fun (acc : L1Sector × State) g =>
    match acc.2.l1 g sec with
    | none => acc
    | some y =>
      let x := acc.1
      ({ x with
          data := secMerge y.dirty y.data x.data
          valid := x.valid ||| y.dirty
          dirty := x.dirty ||| y.dirty
          last := if y.dirty = 0 then x.last else y.last }, acc.2.delL1 g sec)) (own, s)

/-- A plain store into L1: `mask` bytes of `data` (R154, R211). -/
def State.l1Store (s : State) (k : Key) (core sec asid : Nat) (h : BitVec 56) (na : Bool) (mask : SectorMask)
    (data : SectorData) : State :=
  let (x, s) := s.obtain core sec na asid
  s.setL1 core sec { x with
    data := secMerge mask data x.data, valid := x.valid ||| mask, dirty := x.dirty ||| mask
    hold := .writable, asid, last := some ⟨k, h, ((s.team? k.ctx k.tslot).map (·.launch)).getD 0⟩ }

/-- The copies that answer for a sector's dirty bytes in the domains of a core, its own first: cores of two clusters that share a core
may each hold one (14 R292). -/
def State.owners (s : State) (core sec : Nat) : List (Nat × L1Sector) :=
  ((core :: (s.coreDomain core).filter (· != core)).filterMap fun g => (s.l1 g sec).map (g, ·)).filter fun e => e.2.dirty != 0

/-- The bytes of a sector as an agent of a snoop domain sees them: the home's, under the dirty bytes of the domain's L1s. -/
def State.overlay (s : State) (core sec : Nat) (home : SectorData) : SectorData :=
  (s.owners core sec).foldr (fun e d => secMerge e.2.dirty e.2.data d) home

/-- The writable or owned copies of the domain are owned from now on. -/
def State.share (s : State) (core sec : Nat) : State :=
  (s.owners core sec).foldl (fun s e => if e.1 = core then s else s.setL1 e.1 sec { e.2 with hold := .owned }) s

/-- What the other L1s of the domain give of a sector that they hold writable or owned: the needed bytes, if they hold them. -/
def State.servedBy (s : State) (core sec : Nat) (mask : SectorMask) : Option (SectorData × SectorMask) :=
  match s.owners core sec with
  | [] => none
  | (_, y) :: r =>
    let valid := r.foldl (fun v e => v ||| e.2.dirty) y.valid
    if valid &&& mask = mask then some (s.overlay core sec y.data, valid) else none

/-- What a load finds in L1: its own bytes, or a copy taken from the writable or owned copies of the domain, which become owned
(R212). -/
def State.l1Load (s : State) (core sec asid : Nat) (na : Bool) (mask : SectorMask) : Option SectorData × State :=
  match s.l1 core sec with
  | some x => if x.valid &&& mask = mask then (some x.data, s) else (none, s)
  | none =>
    match s.servedBy core sec mask with
    | none => (none, s)
    | some (data, valid) =>
      let s := (s.share core sec).l1Room core sec
      (some data, s.setL1 core sec { L1Sector.empty na asid with data, valid })

/-- A sector read from its home merges into L1 under the dirty bytes of the domain, whose holder owns it from then on (R211, R212).
The other copies of the domain take the same bytes, so that none is older (08 R182). -/
def State.l1Fill (s : State) (core sec asid : Nat) (na : Bool) (home : SectorData) : State :=
  let s := (s.l1Room core sec).share core sec
  let s := match s.l1 core sec with
    | none => s.setL1 core sec (L1Sector.empty na asid)
    | some _ => s
  (s.snoopOf [core]).foldl (fun s g =>
    match s.l1 g sec with
    | some y => s.setL1 g sec { y with data := s.overlay g sec home, valid := maskAll }
    | none => s) s

/-- A sector's bytes at its local home, the sector filled there. -/
def State.homeSector (s : State) (sec : Nat) : SectorData × State :=
  let l := localOf (sectorPa sec) / 128
  if inHbm (128 * l) then
    let (h, s) := s.homeGet l
    (h.data, s)
  else (0, s)

/-- Write back and drop a sector in the domains of a core (07 R165). -/
def State.purge (s : State) (cores : List Nat) (sec : Nat) : State := 
  (s.snoopOf cores).foldl (fun s g => s.evictL1 g sec) s

end Sys2Proof.Machine
end

