-- ==== Sys2Proof/Machine/Fetch.lean ====
section
/-! DEFINITION. Instruction fetch (03 R55, R83, 20 R373, R383): the words a core has fetched may outlive a store to them, and a
fetch that fails parks or traps at the clause header, or at the transferring word of a checking transfer (03 R62). -/

namespace Sys2Proof.Machine

/-- What a fetch gives: a word, nothing yet (a line of another device on its way), or the trap or park it ends in. -/
inductive Fetched where
  | word (w : Word)
  | pending
  | out (o : Out)
  deriving DecidableEq, Repr

/-- Keep a fetched word. -/
def State.keepCode (s : State) (core : Nat) (pa : Pair) (w : Word) : State :=
  s.modCore core fun c => { c with icache := tset c.icache (pa.toNat / 4) w }

/-- A word fetched before and its present value: either, when they differ (R83). -/
def State.codeWord (s : State) (core : Nat) (pa : Pair) (now : Word) : Word × State :=
  match tget (s.core core).icache (pa.toNat / 4) with
  | none => (now, s.keepCode core pa now)
  | some old =>
    if old = now then (now, s) else
    let (keep, s) := s.drawBool
    if keep then (old, s) else (now, s.keepCode core pa now)

/-- Whether an sc atomic to a sector of another device is in flight from the package: its place in S is taken (08 R183). -/
def State.scUnderway (s : State) (sec : Nat) : Bool :=
  s.remotes.any fun r => sectorOf r.2.pa == sec &&
    match r.2.kind with
    | .atom q => q.ord == 3
    | _ => false

/-- Whether a write or an atomic to a sector of another device is in flight from the snoop domains of a core, or an sc atomic from
any core. -/
def State.changing (s : State) (core sec : Nat) : Bool :=
  let dom := s.snoopOf [core]
  s.scUnderway sec || s.remotes.any fun r => sectorOf r.2.pa == sec && r.2.kind.changes && dom.contains r.2.core

/-- Whether a fill of a sector is in flight to a core of the snoop domains of a core: one at a time, so that none brings older bytes
than the one before. -/
def State.filling (s : State) (core sec : Nat) : Bool :=
  let dom := s.snoopOf [core]
  s.remotes.any fun r => dom.contains r.2.core && sectorOf r.2.pa == sec &&
    match r.2.kind with
    | .fill _ => true
    | _ => false

/-- Ask for the sector of a line of another device (25 R436), but not while one of the domain's own changes to it is under way. -/
def State.wantSector (s : State) (core asid sec : Nat) : State :=
  if s.filling core sec || s.changing core sec then s
  else s.send 1 (sectorPa sec) 128 [] ⟨sectorPa sec, asid, core, .fill false, 0⟩

/-- After a request for a sector has been answered, the loads that wait for it ask again. -/
def State.askAgain (s : State) (sec : Nat) : State :=
  s.loads.foldl (fun s l =>
    if sectorOf l.2.pa = sec ∧ ¬ s.isLocal l.2.pa then
      s.wantSector l.2.core (((s.ctx? l.2.key.ctx).map (·.asid)).getD 0) sec
    else s) s

/-- Read a code word at a physical address. -/
def State.readCode (s : State) (core asid : Nat) (pa va : Pair) : Fetched × State :=
  if s.isLocal pa then
    if inHbm (localOf pa) then
      let (w, s) := s.codeWord core pa (BitVec.ofNat 32 (s.homeNat (localOf pa) 4))
      (.word w, s)
    else (.word 0, s.setUnbk)
  else if !(s.present (devOf pa)) then (.out (.trap 0x170 0 va), s)
  else match s.l1 core (sectorOf pa) with
    | some x => if x.valid = maskAll then
          let (w, s) := s.codeWord core pa (BitVec.ofNat 32 (secGet x.data (pa.toNat % 128) 4))
          (.word w, s)
        else (.pending, s.wantSector core asid (sectorOf pa))
    | none => (.pending, s.wantSector core asid (sectorOf pa))

/-- A thread's fetch of the word at a virtual address. -/
def State.fetch (s : State) (k : Key) (va : Pair) : Fetched × State :=
  match s.ctx? k.ctx with
  | none => (.pending, s)
  | some c =>
    match s.threadTr k va .fetch with
    | (.inr o, s) => (.out o, s)
    | (.inl pa, s) => s.readCode c.core c.asid pa va

/-- A member's part in the fetch of its group, whose translation is one for all (R383). -/
def State.fetchVia (s : State) (k : Key) (c : Ctx) (va : Pair) (w : Walk) : Fetched × State :=
  match s.thread? k with
  | none => (.pending, s)
  | some th =>
    match s.threadAns k c va .fetch (s.judge va .fetch th.priv w) with
    | (.inr o, s) => (.out o, s)
    | (.inl pa, s) => s.readCode c.core c.asid pa va

/-- The regrouping unit's look at a code word: its value, the sector of another device that must be read first, or nothing there. -/
inductive Peek where
  | word (w : Word)
  | ask (sec : Nat)
  | nothing
  deriving DecidableEq, Repr

/-- The word at a virtual address as the tables and memory stand, without any effect: the regrouping unit's look at a clause
(09 R198). -/
def State.peekCode (s : State) (core asid : Nat) (va : Pair) : Peek :=
  match s.walk (dieOf core) asid va with
  | .leaf e l =>
    let pa := leafPa e l va
    if s.isLocal pa then .word (BitVec.ofNat 32 (s.homeNat (localOf pa) 4))
    else if !(s.present (devOf pa)) then .nothing
    else match s.l1 core (sectorOf pa) with
      | some x => if x.valid = maskAll then .word (BitVec.ofNat 32 (secGet x.data (pa.toNat % 128) 4)) else .ask (sectorOf pa)
      | none => .ask (sectorOf pa)
  | _ => .nothing

/-! ## Clause headers (03 R57, R58) -/

/-- The class of a header. -/
def headerCls (w : Word) : Option Cls :=
  match (w.extractLsb' 4 3).toNat with
  | 0 => some .alu
  | 1 => some .sfu
  | 2 => some .xl
  | 3 => some .mem
  | 4 => some .eng
  | 5 => some .ctrl
  | 6 => some .sys
  | _ => none

/-- COUNT of a header. -/
def headerCount (w : Word) : Nat := (w.extractLsb' 0 4).toNat

/-- What a header raises, as an ILLEGAL qualifier (R58, R80). -/
def headerFault (w : Word) : Option Nat :=
  if headerCount w = 0 ∨ headerCls w = none then some 3
  else if w.extractLsb' 17 15 ≠ 0 then some 2
  else none

/-- JT of a header. -/
def headerJt (w : Word) : Bool := w.getLsbD 16

/-- The address of the word at an index of a clause. -/
def wordVa (h : BitVec 56) (wi : Nat) : Pair := va56 (h + BitVec.ofNat 56 (4 * wi))

/-- The check of the target of a checking transfer (R62, 06 R130): malformed, its header's fetch fails, JT = 0, or it may be
taken. A member whose header is still on its way from another device stays at its word. -/
def State.target (s : State) (k : Key) (w0 : Word) (t : Pair) : Option Out × State :=
  if !(codeAddr t) then (some (.trap 0x02C 0 t), s) else
  match s.fetch k t with
  | (.out o, s) => (some o, s)
  | (.pending, s) => (some (.back ⟨s.site.h, s.site.wi⟩), s)
  | (.word w, s) => (if headerJt w then none else some (.trap 0x008 w0 0), s)

end Sys2Proof.Machine
end

