-- ==== Sys2Proof/Machine/Schedule.lean ====
section
/-! DEFINITION. Group formation and placement (09 R195 to R201), the start of a clause (03 R58, R60, R62, 12 R276, 23 R422),
dissolution of a stalled group (09 R202), and the landing of register results (01 R17). -/

namespace Sys2Proof.Machine

/-! ## The PC table (09 R195 to R197) -/

/-- The active context of a core, if any. -/
def State.activeOf (s : State) (core : Nat) : Option (Nat × Ctx) :=
  s.ctxs.find? fun e => e.2.core == core && e.2.place == .active

/-- An entry of the PC table. -/
structure Entry where
  pc : PC
  m : Nat × Nat
  deferred : Bool
  repidx : BitVec 6
  deriving DecidableEq, Repr

/-- The PC table of a context in ascending (team slot, TID). -/
def Ctx.table (c : Ctx) : List Entry :=
  c.teams.flatMap fun t => t.2.threads.filterMap fun th =>
    if th.2.run = .runnable then some ⟨th.2.pc, (t.1, th.1), th.2.deferred, th.2.repidx⟩ else none

/-- The order of PCs: header address, then word index. -/
def PC.lt (a b : PC) : Bool := decide (a.h.toNat < b.h.toNat) || (a.h == b.h && decide (a.wi < b.wi))

/-- The runs of a list of entries. -/
def runs (l : List Entry) : List PC := l.foldl (fun acc e => if acc.contains e.pc then acc else acc ++ [e.pc]) []

/-- The lowest PC of a list. -/
def lowestPC : List PC → Option PC
  | [] => none
  | p :: r => some (r.foldl (fun a b => if b.lt a then b else a) p)

/-- The age count of a run. -/
def Core.age (c : Core) (p : PC) : Nat := ((c.ages.find? fun e => e.1 == p).map (·.2)).getD 0

/-- Columns of R201 for members in position order: home columns first, then the lowest free ones. -/
def place (ms : List (Nat × Nat)) : List Nat :=
  let first := ms.foldl (fun (acc : List (Option Nat) × List Nat) m =>
    if acc.2.contains (m.2 % 32) then (acc.1 ++ [some (m.2 % 32)], acc.2.filter (· != m.2 % 32))
    else (acc.1 ++ [none], acc.2)) ([], List.range 32)
  (first.1.foldl (fun (acc : List Nat × List Nat) c =>
    match c with
    | some k => (acc.1 ++ [k], acc.2)
    | none => (acc.1 ++ [acc.2.headD 0], acc.2.drop 1)) ([], first.2)).1

/-- The lanesets in the order in which requests are served (R198). -/
def laneOrder (last : Option Nat) : List Nat :=
  (upTo (match last with
    | some l => l + 1
    | none => 0) 8).map (· % 8)

/-- The laneset served next and its lowest free slot. DESIGN CHOICE (log 95): of a laneset's free slots a new group takes the lowest;
R198 names none. -/
def Core.nextSlot (c : Core) : Option (Nat × Nat) :=
  (laneOrder c.lastLaneset).findSome? fun l =>
    ((upTo (4 * l) 4).find? fun k => (tget c.groups k).isNone).map (l, ·)

/-- Whether a run stands at a REP clause of class XL (R198), whose members must agree in REPIDX; or the sector of another device that
must be read first. -/
def State.xlRep (s : State) (core asid : Nat) (p : PC) : Bool ⊕ Nat :=
  if p.wi > 1 then .inl false else
  match s.peekCode core asid (va56 p.h) with
  | .ask sec => .inr sec
  | .nothing => .inl false
  | .word h =>
    if headerCls h != some .xl then .inl false else
    match s.peekCode core asid (wordVa p.h 1) with
    | .ask sec => .inr sec
    | .nothing => .inl false
    | .word w => .inl ((w.extractLsb' 24 8).toNat == 0x58)

/-- One formation for a laneset and slot from the table of a context (R198). -/
def State.form (s : State) (core lane slot c : Nat) (x : Ctx) : State :=
  let all := x.table
  let e := all.filter fun e => !e.deferred
  let (e, s) := if e.isEmpty then
      (all, s.mapMembers c (all.map (·.m)) fun _ _ _ th => { th with deferred := false })
    else (e, s)
  let k := s.core core
  let rs := runs e
  let aged := rs.filter fun p => decide (k.age p ≥ 64)
  match lowestPC (if aged.isEmpty then rs else aged) with
  | none => s
  | some p =>
    match s.xlRep core x.asid p with
    | .inr sec => s.wantSector core x.asid sec
    | .inl xlRep =>
    let t := e.filter fun x => x.pc == p
    let t := if xlRep then t.filter fun y => t.head?.any fun z => y.repidx == z.repidx else t
    let ms := (t.take 32).map (·.m)
    let rest := all.filter fun y => !(ms.contains y.m)
    let ages := (runs rest).map fun q =>
      (q, if q == p then 0 else if rs.contains q then min 127 (k.age q + 1) else k.age q)
    let g : Group := { ctx := c, members := ms, cols := place ms, origin := p, h := p.h, wi := p.wi, began := p.wi, entered := false,
                       passed := false, started := false, count := 0, cls := .any, yh := false, dissolve := false, stalled := 0, rep := none, order := s.fresh }
    let s := s.mapMembers c ms fun _ _ _ th => { th with run := .issuing }
    let s := { s with fresh := s.fresh + 1 }
    s.modCore core fun k => { k with
      groups := tset k.groups slot g, ages, lastLaneset := some lane }

/-- The acquire before a context's first issue after a switch or a move (08 R192), with which its core joins the snoop domains of its
clusters (14 R292). -/
def State.synced (s : State) (c : Nat) (x : Ctx) : State :=
  if x.sync.isNone && x.joined then s else
  let s := s.modCtx c fun x => { x with sync := none, joined := true }
  s.acquireAt (dedup (x.core :: x.teams.flatMap fun t => s.clusterCores t.2.launch t.2.cluster)) 5

/-- GROUP_FORMATION: the laneset whose request is served next receives a group (09 R198); none once a switch-out has been requested
(12 R258). -/
def execGroupFormation (core laneset : Nat) (s : State) : Host.Outcome State Fault Refusal :=
  .next (match (s.core core).nextSlot, s.activeOf core with
    | some (l, slot), some (c, x) =>
      if l = laneset ∧ ¬(x.sync.any s.unacked) ∧ x.gangOut = false then (s.synced c x).form core l slot c x else s
    | _, _ => s)

/-! ## The start of a clause -/

/-- A member's exit before its clause starts: a trap with WI = 0, or a park (03 R58, 20 R373, R383). -/
def State.headerOut (s : State) (c : Nat) (h : BitVec 56) (wi : Nat) (m : Nat × Nat) (o : Out) : State :=
  let k : Key := ⟨c, m.1, m.2⟩
  if !(s.alive k) then s else
  match o with
  | .trap cause e a => s.takeTrap k cause 0 ⟨h, 0⟩ e a
  | .park ea kind => s.modThread k fun th => th.parked ⟨h, wi⟩ ea kind 0
  | _ => s

/-- Members that leave their group before or at a word, and what becomes of the group: it dissolves at once in a restartable
clause, else at the clause's end (03 R76). -/
def State.leaveAll (s : State) (core slot c : Nat) (h : BitVec 56) (wi : Nat) (restart : Bool)
    (outs : List ((Nat × Nat) × Out)) : State :=
  if outs.isEmpty then s else
  let s := outs.foldl (fun s o => s.headerOut c h wi o.1 o.2) s
  let s := s.modCore core fun k => { k with groups := tmod k.groups slot (Group.drop · fun m => outs.any fun o => o.1 == m) }
  match tget (s.core core).groups slot with
  | none => s
  | some g =>
    if g.members.isEmpty then s.modCore core fun k => { k with groups := tdel k.groups slot }
    else if restart then s.dissolve core slot
    else s.modCore core fun k => { k with groups := tmod k.groups slot fun g => { g with dissolve := true } }

/-- Fetch one word for every member: the word, and the members whose fetch failed. -/
def State.fetchAll (s : State) (c : Nat) (ms : List (Nat × Nat)) (va : Pair) :
    Option Word × List ((Nat × Nat) × Out) × State :=
  match s.ctx? c with
  | none => (none, [], s)
  | some x =>
    match s.lookup (some x.core) (dieOf x.core) x.asid va with
    | (leaf, s) => ms.foldl (fun (acc : Option Word × List ((Nat × Nat) × Out) × State) m =>
        match acc.2.2.fetchVia ⟨c, m.1, m.2⟩ x va leaf with
        | (.word w, s) => (acc.1.or (some w), acc.2.1, s)
        | (.pending, s) => (acc.1, acc.2.1, s)
        | (.out o, s) => (acc.1, acc.2.1 ++ [(m, o)], s)) (none, [], s)

/-- The POWER notice that a context's thread takes at a clause start: its cause (23 R422). -/
def State.notice? (s : State) (x : Ctx) : Option Nat :=
  let d := s.die (dieOf x.core)
  if !d.power.ctxn || d.sysvec == 0 then none
  else if x.event.pendCur then some 0x150 else if x.event.pendThm then some 0x151 else none

/-- Take a pending notice by the first member outside a handler (R422). -/
def State.takeNotice (s : State) (c : Nat) (g : Group) : List ((Nat × Nat) × Out) × State :=
  match s.ctx? c with
  | none => ([], s)
  | some x =>
    match s.notice? x, g.members.find? fun m => (s.thread? ⟨c, m.1, m.2⟩).any fun th => !th.inh with
    | some cause, some m =>
      ([(m, .trap cause x.event.info 0)], s.modCtx c fun x => { x with event := { x.event with
        coal := 0
        pendCur := if cause = 0x150 then false else x.event.pendCur
        pendThm := if cause = 0x150 then x.event.pendThm else false } })
    | _, _ => ([], s)

/-- The members that take a single-step trap at a clause start with WI = 0 (12 R276). -/
def State.stepTraps (s : State) (c : Nat) (ms : List (Nat × Nat)) : List ((Nat × Nat) × Out) :=
  (ms.filter fun m => (s.thread? ⟨c, m.1, m.2⟩).any fun th => th.view.dbgctl.getLsbD 1 && !th.inh && !th.ssSkip).map
    (·, .trap 0x111 0 0)

/-- Whether every member's outstanding counts meet the WAIT bits (03 R60). -/
def State.waitMet (s : State) (c : Nat) (ms : List (Nat × Nat)) (w : Word) : Bool :=
  ms.all fun m => (s.thread? ⟨c, m.1, m.2⟩).all fun th =>
    (List.range 8).all fun k => !(w.getLsbD (7 + k)) || th.count k == 0

/-- Change the group in a slot. -/
def State.modSlot (s : State) (core slot : Nat) (f : Group → Group) : State :=
  s.modCore core fun k => { k with groups := tmod k.groups slot f }

/-- The start of a clause begins: from here its members see the context registers as they now are (12 R268). -/
def State.enterClause (s : State) (core slot : Nat) (g : Group) : State :=
  if g.entered then s else
  let view := ((s.ctx? g.ctx).map (·.regs)).getD CtxRegs.reset
  (s.mapMembers g.ctx g.members fun _ _ _ th => { th with view, satOld := none, nanOld := false }).modSlot core slot
    fun g => { g with entered := true }

/-- Begin the clause: the group stands at its first word, and latches are unwritten. -/
def State.beginClause (s : State) (core slot : Nat) (g : Group) (w : Word) : State :=
  let wi := max 1 g.wi
  let cls := (headerCls w).getD .any
  let s := s.mapMembers g.ctx g.members fun _ _ _ th =>
    { th.noLatches with pc := ⟨g.h, wi⟩, atStart := false, ssSkip := th.ssSkip && th.inh }
  s.modSlot core slot fun g =>
    { g with wi, began := g.wi, started := true, count := headerCount w, cls, yh := w.getLsbD 15, stalled := 0 }

/-- What a header raises for a member: JT = 0 at a thread's start (03 R62), then R58, then an RWI beyond COUNT (12 R274). -/
def headerTrap (th : Thread) (wi : Nat) (w : Word) : Option Nat :=
  if th.atStart && !(headerJt w) then some 8
  else match headerFault w with
    | some q => some q
    | none => if wi > headerCount w then some 3 else none

/-- The members' traps at a header. DESIGN CHOICE (log 91): EINFO is the header word, because a header has no instruction word 0
(12 R271). -/
def State.headerTraps (s : State) (c : Nat) (g : Group) (w : Word) : List ((Nat × Nat) × Out) :=
  g.members.filterMap fun m => ((s.thread? ⟨c, m.1, m.2⟩).bind fun th => headerTrap th g.wi w).map fun q => (m, .trap q w 0)

/-- CLAUSE_START: the members see the context registers as they now are, the header is fetched and examined, a pending notice and
single-step traps are taken, and the clause starts when the WAIT bits are met (03 R58, R60, 12 R268, R276, 23 R422). -/
def State.clauseStart (s : State) (core slot : Nat) : State :=
  match tget (s.core core).groups slot with
  | none => s
  | some g =>
    if g.started then s else
    let s := s.enterClause core slot g
    let (w, bad, s) := s.fetchAll g.ctx g.members (va56 g.h)
    let restart := (w.bind headerCls).any Cls.latched
    if !bad.isEmpty then s.leaveAll core slot g.ctx g.h g.wi restart bad else
    match w with
    | none => s
    | some w =>
      let bad := s.headerTraps g.ctx g w
      if !bad.isEmpty then s.leaveAll core slot g.ctx g.h g.wi restart bad else
      let first := g.wi == 0 && !g.passed
      let (n, s) := if first then s.takeNotice g.ctx g else ([], s)
      let ss := if first then s.stepTraps g.ctx (g.members.filter fun m => !(n.any fun o => o.1 == m)) else []
      if !(n ++ ss).isEmpty then s.leaveAll core slot g.ctx g.h g.wi restart (n ++ ss)
      else if s.waitMet g.ctx g.members w then s.beginClause core slot g w
      else s.modSlot core slot fun g => { g with passed := true }

def execClauseStart (core slot : Nat) (s : State) : Host.Outcome State Fault Refusal := .next (s.clauseStart core slot)

/-- REGISTER_RESULT_LANDS (01 R17). -/
def execRegisterResultLands (id : Nat) (s : State) : Host.Outcome State Fault Refusal := .next (s.land id)

end Sys2Proof.Machine
end

