-- ==== Sys2Proof/Machine/Issue.lean ====
section
/-! DEFINITION. The issue of one word by a group: which members execute it, its fetch and decoding, and the faults of a word that
does not decode (03 R55, R69, R79, R80); dissolution of a stalled group (09 R202). -/

namespace Sys2Proof.Machine

/-- The index of the word a group issues: in a REP, its target (03 R78). -/
def Group.word (g : Group) : Nat := if g.rep.isSome then 2 else g.wi

/-- The PC of the members that still have the word to execute. -/
def Group.at (g : Group) : PC := ⟨g.h, if g.rep.isSome then 1 else g.wi⟩

/-- The members that execute the next word, in position order. -/
def State.executing (s : State) (g : Group) : List (Nat × Nat) :=
  g.members.filter fun m => (s.thread? ⟨g.ctx, m.1, m.2⟩).any fun th => th.run == .issuing && th.pc == g.at

/-- The issue of a word, before the word is known. -/
def Group.site (g : Group) (core slot : Nat) (ms : List (Nat × Nat)) (w0 : Word) : Site :=
  { core, slot, ctx := g.ctx, h := g.h, wi := g.word, count := g.count, cls := g.cls, members := ms, all := g.members,
    rep := g.rep, w0 }

/-- The qualifier of a word whose unused bits are not 0: its place is checked first (R80). -/
def undecodable (i : Instr) (st : Site) : Nat :=
  let n := insWords i
  if outsideClass i st.cls st.count st.wi n then 4
  else if (mustBeLast i && st.wi + n != st.count + 1) || st.wi + n > st.count + 1 then 6
  else 2

/-- Every executing member takes the same trap. -/
def State.trapAll (s : State) (q : Nat) : State :=
  s.retire .nop (s.site.members.map (·, .trap q s.site.w0 0))

/-- What an issue has come to before its instruction executes: an instruction for `exec`, or nothing more to do. -/
inductive Prep where
  | run (i : Instr) (s : State)
  | done (s : State)
  deriving DecidableEq, Repr

/-- The second word of an instruction that begins at a word: 0 where none belongs to it. -/
def State.fetchSecond (s : State) (g : Group) (ms : List (Nat × Nat)) (w0 : Word) :
    Option Word × List ((Nat × Nat) × Out) × State :=
  if twoWord w0 && decide (g.word < g.count) then s.fetchAll g.ctx ms (wordVa g.h (g.word + 1)) else (some 0, [], s)

/-- A group whose members have all executed the word goes on, or counts one more stalled cycle. -/
def State.idle (s : State) (core slot : Nat) (g : Group) : State :=
  if g.members.any fun m => (s.thread? ⟨g.ctx, m.1, m.2⟩).any fun th => th.run != .issuing then
    s.modCore core fun c => { c with groups := tmod c.groups slot fun g => { g with stalled := g.stalled + 1 } }
  else s.regroup core slot false false

/-- The WI with which a member waits for a word whose fetch fails: the one it had before its clause began where no word of the clause
has been executed, and in a clause that starts again (20 R383, 03 R72). -/
def Group.fetchWi (g : Group) : Nat :=
  if g.cls.latched || (g.word == 1 && g.began == 0 && g.rep.isNone) then 0 else g.at.wi

/-- REPIDX is 0 outside a REP clause (01 R16): a member that comes to another word has left the clause whose REPIDX it held, but for
a handler, which keeps that of the clause it interrupted. -/
def State.leaveRep (s : State) (g : Group) (i : Instr) (ms : List (Nat × Nat)) : State :=
  if g.rep.isSome || isRep i then s else
  s.mapMembers g.ctx ms fun _ _ _ th => if th.inh then th else { th with repidx := 0 }

/-- Fetch and decode the next word of a group. -/
def State.prepare (s : State) (core slot : Nat) : Prep :=
  match tget (s.core core).groups slot with
  | none => .done s
  | some g =>
    if !g.started then .done s else
    let ms := s.executing g
    if ms.isEmpty then .done (s.idle core slot g) else
    let (w0, bad, s) := s.fetchAll g.ctx ms (wordVa g.h g.word)
    if !bad.isEmpty then .done (s.leaveAll core slot g.ctx g.h g.fetchWi g.cls.latched bad) else
    match w0 with
    | none => .done s
    | some w0 =>
      let (w1, bad, s) := s.fetchSecond g ms w0
      if !bad.isEmpty then .done (s.leaveAll core slot g.ctx g.h g.fetchWi g.cls.latched bad) else
      match w1 with
      | none => .done s
      | some w1 =>
        let s := { s with site := g.site core slot ms w0 }
        match decodeWords w0 w1 with
        | .ok i => .run i (s.leaveRep g i ms)
        | .error _ => .done (s.trapAll (undecodable (fieldsOf w0 w1) s.site))

/-- The deferral marks that the issue of a group clears: those of threads at other runs, which its own members are not
(06 R140). -/
def State.undefer (s : State) : Option Group → State
  | none => s
  | some g => s.modCtx g.ctx fun x => { x with teams := tmap x.teams fun ts t =>
      { t with threads := tmap t.threads fun tid th =>
          if th.deferred && th.run == .runnable && th.pc != g.origin && !(g.members.contains (ts, tid)) then
            { th with deferred := false }
          else th } }

/-! ## Dissolution of a stalled group -/

/-- What a member of a stalled group waits for, as the state stands. -/
def State.blockedOn (s : State) (i : Instr) (st : Site) (k : Key) : Option WaitOn :=
  (s.thread? k).bind fun th =>
    match th.run with
    | .waiting w => some w
    | _ => stallOn i st th

/-- A stalled member waits with the PC of R72; the others become Runnable. -/
def State.stallOut (s : State) (core slot : Nat) (i : Instr) (st : Site) : State :=
  match tget (s.core core).groups slot with
  | none => s
  | some g =>
    let ws := g.members.map fun m => (m, s.blockedOn i st ⟨g.ctx, m.1, m.2⟩)
    let s := s.dissolve core slot
    ws.foldl (fun s w =>
      match w.2 with
      | some r => s.modThread ⟨g.ctx, w.1.1, w.1.2⟩ fun th => { th with run := .waiting r }
      | none => s) s

/-- STALL_DISSOLUTION: a group stalled for more than 32 cycles, some member of which waits on a register, a latch, a future or
an F bit, dissolves (R202). -/
def execStallDissolution (core slot : Nat) (s : State) : Host.Outcome State Fault Refusal :=
  .next (match tget (s.core core).groups slot with
    | none => s
    | some g =>
      if g.stalled ≤ 32 then s else
      let blocked := fun (s : State) (i : Instr) => g.members.any fun m => (s.blockedOn i s.site ⟨g.ctx, m.1, m.2⟩).isSome
      if blocked s .nop then s.stallOut core slot .nop s.site else
      match s.prepare core slot with
      | .run i s' => if blocked s' i then s'.stallOut core slot i s'.site else s
      | .done _ => s)

end Sys2Proof.Machine
end

