-- ==== Sys2Proof/Machine/Future.lean ====
section
/-! DEFINITION. Futures (06 R143 to R151): the issue of an ENG instruction, future slots and handles, the completion of an
engine operation, and the order of a thread's accesses that instructions wait for (08 R176, R188, 07 R168). -/

namespace Sys2Proof.Machine

/-! ## Accesses in flight -/

/-- Whether a thread has a load that has not got its value, or an atomic that has not been performed. -/
def State.inFlight (s : State) (k : Key) : Bool :=
  s.loads.any (fun l => l.2.key == k) || s.atoms.any (fun a => a.2.turns.any fun t => t.key == k) ||
    s.remotes.any fun r => match r.2.kind with
      | .atom q => q.turns.any fun t => t.key == k
      | _ => false

/-- Whether the word is held for a member that does not trap: nothing is executed, and the group counts one stalled cycle. -/
def State.holdIf (s : State) (i : Instr) (held : State → Key → Thread → Bool) (go : State → State) : State :=
  if s.site.members.any fun m => (s.faultOf i m).isNone &&
      (s.member? m).any fun x => held s ⟨s.site.ctx, m.1, m.2⟩ x.2
  then s.noteStall else go s

/-- The first member of the issue. -/
def State.leader (s : State) : Key :=
  match s.site.members with
  | m :: _ => ⟨s.site.ctx, m.1, m.2⟩
  | [] => ⟨s.site.ctx, 0, 0⟩

/-- The snoop domains of the members of an issue that the word does not trap. -/
def State.issueDomain (s : State) (i : Instr) : List Nat :=
  dedup ((s.site.members.filter fun m => (s.faultOf i m).isNone).flatMap fun m => s.domainOf ⟨s.site.ctx, m.1, m.2⟩)

/-- Perform a release at a scope for the members of an issue, then go on: it waits for their loads and atomics, and at sys scope
for the acknowledgement of every write (07 R168, 25 R436). -/
def State.afterRelease (s : State) (i : Instr) (scope : Nat) (go : State → State) : State :=
  s.holdIf i (fun s k _ => s.inFlight k) fun s =>
    let dom := s.issueDomain i
    let s := s.releaseAt dom scope
    if scope = 5 ∧ s.unacked dom then s.noteStall else go s

/-! ## Handles and slots -/

/-- A handle (R143). -/
def handle (kind : BitVec 4) (slot : Nat) (gen : BitVec 16) : Word :=
  BitVec.ofNat 32 (kind.toNat * 2 ^ 28 + slot * 2 ^ 16 + gen.toNat)

/-- A completion word (R144). -/
def cword (status value : Nat) : Word := BitVec.ofNat 32 (status % 16 * 2 ^ 28 + value % 2 ^ 28)

/-- The KIND of an ENG instruction's handle (R143). -/
def handleKind (i : Instr) : BitVec 4 :=
  match i with
  | .copy _ _ _ _ _ _ _ _ _ _ _ _ => 1
  | .mloop _ _ _ _ _ _ _ _ _ _ | .mfold _ _ | .cvtdn _ _ _ _ _ _ _ | .mzero _ _ _ => 2
  | .gather _ _ _ _ _ _ _ _ | .scatter _ _ _ _ _ _ _ _ | .scadd _ _ _ _ _ _ _ _ _ _ => 3
  | .stand _ _ _ _ | .unstand _ _ _ | .substat _ _ _ _ => 4
  | .lease _ _ _ | .unlease _ _ | .lstat _ _ => 5
  | .mrg _ _ _ _ _ _ _ => 6
  | .nbrgrid _ _ _ _ _ | .nbrbin _ _ _ _ _ | .nbrpair _ _ _ _ _ | .nbrchk _ _ _ _ _ => 7
  | _ => 8

/-- Whether a future slot is FREE. -/
def Ctx.slotFree (c : Ctx) (k : Nat) : Bool :=
  match tget c.futures k with
  | some f => f.st == .free
  | none => true

/-- The slots of a context that are not FREE, and those RUNNING. -/
def Ctx.slotsUsed (c : Ctx) : Nat := (c.futures.filter fun f => f.2.st != .free).length
def Ctx.slotsRunning (c : Ctx) : Nat := (c.futures.filter fun f => f.2.st == .running).length

/-- The first FREE slot at or after a position, in a ring of 1,024. -/
def Ctx.freeFrom (c : Ctx) (start : Nat) : Option Nat :=
  ((upTo start 1024).map (· % 1024)).find? c.slotFree

/-- The generation a slot takes when it is used: one more than its last, 0 at its first use (R143; log 12). -/
def Ctx.nextGen (c : Ctx) (k : Nat) : BitVec 16 :=
  match tget c.futures k with
  | some f => f.gen + 1
  | none => 0

/-- The slot and generation that a handle names. -/
def handleSlot (w : Word) : Nat := (w.extractLsb' 16 12).toNat
def handleGen (w : Word) : BitVec 16 := w.extractLsb' 0 16

/-- The valid slot that a handle names for a team: SLOT and GEN decide (R146). -/
def Ctx.named (c : Ctx) (tslot : Nat) (w : Word) : Option (Nat × Future) :=
  (tget c.futures (handleSlot w)).bind fun f =>
    if f.gen == handleGen w && f.tslot == tslot && f.st != .free then some (handleSlot w, f) else none

/-- The operation that runs in a slot of a context. -/
def State.opIn (s : State) (c slot : Nat) : Option (Nat × EngOp) :=
  s.ops.find? fun o => o.2.key.ctx == c && o.2.slot == slot

/-! ## The issue of an ENG instruction -/

/-- The outcome of issuing for one member: it waits at its word until a slot frees. -/
def State.stay (s : State) : Out := .back (resumeAt s.site.cls s.site.h s.site.wi s.site.rep.isSome)

/-- A thread that has issued an operation: its counts rise, and its destination register holds the handle and is pending. -/
def Thread.holdFuture (th : Thread) (rep : Option Rep) (i : Instr) (d : Dst) (slot : Nat) (gen : BitVec 16) : Thread :=
  let r := dstReg rep th d.r 1
  let th := (countKinds i).foldl Thread.addCount th
  if d.nw || r == 0 then th else
    { th.set r (handle (handleKind i) slot gen) with pend := tset th.pend r (.future slot gen) }

/-- Take a FREE slot, freely chosen, and start an operation: its destination register holds the handle and is pending
(R143, R145). -/
def State.startOp (s : State) (i : Instr) (k : Key) (d : Dst) (scope : BitVec 3) (work : Work) (result : Option Word) :
    State × Out :=
  match s.ctx? k.ctx with
  | none => (s, .next)
  | some c =>
    match c.freeFrom (s.drawNat.1 % 1024) with
    | none => (s, if c.slotsRunning = 0 then .trap 0x0B0 0 0 else s.stay)
    | some slot =>
      let s := s.drawNat.2
      let gen := c.nextGen slot
      let (id, s) := s.freshId
      let op : EngOp := { key := k, also := [], slot, gen, nw := d.nw, core := c.core, pc := ⟨s.site.h, s.site.wi⟩, scope,
                          kinds := countKinds i, canceled := false, result, sat := 0, order := id, buffer := [],
                          sup := (s.thread? k).any Thread.priv, work }
      let s := { s with ops := tset s.ops id op }
      let s := s.modCtx k.ctx fun c => { c with futures := tset c.futures slot ⟨.running, gen, handleKind i, k.tslot, false, 0⟩ }
      (s.modThread k fun th => th.holdFuture s.site.rep i d slot gen, .next)

/-- Issue an ENG instruction: the release of R188 at its scope, and a stall while too few slots are FREE and some will free. DESIGN
CHOICE (log 94): a word that finds fewer FREE slots than members stalls as a whole while a slot is RUNNING; with none RUNNING but
some FREE, the first members start and the others stay at the word. -/
def State.issueEng (s : State) (i : Instr) (scope : BitVec 3) (f : State → Key → Team → Thread → State × Out) : State :=
  if s.stalls i then s.noteStall else
  s.afterRelease i scope.toNat fun s =>
    match s.ctx? s.site.ctx with
    | none => s
    | some c =>
      if c.slotsRunning > 0 ∧ 1024 - c.slotsUsed < (s.site.members.filter fun m => (s.faultOf i m).isNone).length then s.noteStall
      else s.issueEach i f

/-! ## Completion (R144, R151) -/

/-- Set the completion word of an operation. -/
def State.finish (s : State) (id : Nat) (w : Word) : State :=
  { s with ops := tmod s.ops id fun o => { o with result := o.result.or (some w) } }

/-- Change the work of an operation. -/
def State.modWork (s : State) (id : Nat) (w : Work) : State := { s with ops := tmod s.ops id fun o => { o with work := w } }

/-- A thread receives a completion word in every register pending on the future. -/
def Thread.receive (th : Thread) (slot : Nat) (gen : BitVec 16) (w : Word) : Thread :=
  let rs := (th.pend.filter fun p => p.2 == .future slot gen).map (·.1)
  { th.writes (rs.map (·, w)) with pend := th.pend.filter fun p => p.2 != .future slot gen }

/-- Whether a register of a live thread of the context is pending on a future. -/
def Ctx.awaited (c : Ctx) (slot : Nat) (gen : BitVec 16) : Bool :=
  c.teams.any fun t => t.2.threads.any fun th => th.2.run != .ended && th.2.pend.any fun p => p.2 == .future slot gen

/-- The future slot after completion: DONE with its word where it is retained, else FREE (R145). -/
def Future.completed (f : Future) (w : Word) : Future := if f.retain then { f with st := .done, word := w } else { f with st := .free }

/-- The subscriptions that a completion takes from its context's count (16 R311). -/
def EngOp.unsubscribes (o : EngOp) (status : Nat) : Nat :=
  match o.work with
  | .stand x =>
    match x.kind with
    | .stand => if status = 0 then 0 else 1
    | .unstand => if status = 0 then 1 else 0
    | .substat => 0
  | _ => 0

/-- FUTURE_COMPLETION: the word reaches the registers, the counts fall, the slot is freed or done, and a fault that nobody waits
for is reported (R144, R145, R151). The completion releases and acquires at the operation's scope. DESIGN CHOICE (log 75): the
clamps of a packing COPY reach SATCOUNT here, all at once. -/
def State.complete (s : State) (id : Nat) (o : EngOp) (w : Word) : State :=
  match s.ctx? o.key.ctx with
  | none => { s with ops := tdel s.ops id }
  | some c =>
    let awaited := c.awaited o.slot o.gen
    let kind := ((tget c.futures o.slot).map (·.kind)).getD 0
    let s := { s with ops := tdel s.ops id }
    let s := s.acquireAt (s.domainOf o.key) o.scope.toNat
    let s := s.modCtx o.key.ctx fun c => { c with
      satcount := satAdd c.satcount o.sat
      subCount := c.subCount - o.unsubscribes (w.extractLsb' 28 4).toNat
      futures := tmod c.futures o.slot (Future.completed · w)
      teams := tmap c.teams fun _ t => { t with threads := tmap t.threads fun _ th =>
        if th.run = .ended then th else th.receive o.slot o.gen w } }
    let s := (o.key :: o.also).foldl (fun s k =>
      s.modThread k fun th => if th.run = .ended then th else o.kinds.foldl Thread.subCount th) s
    let status := (w.extractLsb' 28 4).toNat
    let s := if awaited || status = 0 || status = 2 then s else
      let launch := ((s.team? o.key.ctx o.key.tslot).map (·.launch)).getD 0
      s.report o.key.ctx o.key.tslot launch ⟨handle kind o.slot o.gen, w, o.key.tid, o.pc.wi, va56 o.pc.h⟩
    s.wakeCtx o.key.ctx

/-- Whether a write of an operation to another device waits for its acknowledgement. -/
def State.opUnacked (s : State) (id : Nat) : Bool := s.remotes.any fun r =>
  match r.2.kind with
  | .write _ (some x) => x == id
  | _ => false

def execFutureCompletion (op : Nat) (s : State) : Host.Outcome State Fault Refusal :=
  .next (match tget s.ops op with
    | some o =>
      match o.result with
      | some w => if s.opUnacked op then s else s.complete op o w
      | none => s
    | none => s)

end Sys2Proof.Machine
end

