-- ==== Sys2Proof/Machine/CtlSpace.lean ====
section
/-! DEFINITION. Control space (22 R400): the format windows with their checks (R401, R402), PKGSTAT, the error registers, and the
translation control blocks (20 R386) with their commands (R381, R387, R388). -/

namespace Sys2Proof.Machine

/-! ## Format windows (R401, R402) -/

/-- A window as the start stage leaves it. -/
def Window.reset : Window := { base := 0, limit := 0, expbase := 0, fmt := 0, en := false }

def State.window (s : State) (w : Nat) : Window := (tget s.pkg.windows w).getD Window.reset
def State.setWindow (s : State) (w : Nat) (x : Window) : State := s.modPkg fun p => { p with windows := tset p.windows w x }

/-- The data range and the exponent region of a window, each as its first address and the first beyond it. -/
def Window.ranges (w : Window) : (Nat × Nat) × (Nat × Nat) :=
  let n := w.limit.toNat - w.base.toNat
  let k := if w.fmt = 1 then n / 64 else if w.fmt = 2 then n / 32 else 0
  ((w.base.toNat, w.limit.toNat), (w.expbase.toNat, w.expbase.toNat + k))

/-- Whether two ranges share an address. -/
def meets (a b : Nat × Nat) : Bool := decide (max a.1 b.1 < min a.2 b.2)

/-- Whether enabling a window would make any two ranges overlap (R402). -/
def State.windowClash (s : State) (i : Nat) (w : Window) : Bool :=
  let (d, e) := w.ranges
  meets d e || s.pkg.windows.any fun o => o.1 != i && o.2.en &&
    let (d', e') := o.2.ranges
    meets d d' || meets d e' || meets e d' || meets e e'

/-- A write to BASE, LIMIT or EXPBASE: a misaligned BASE or LIMIT traps whatever EN holds, and an enabled window ignores the
rest. -/
def State.windowField (s : State) (i f : Nat) (v : Pair) : Option Nat × State :=
  let w := s.window i
  if f < 2 && v.toNat % 65536 != 0 then (some 0x140, s)
  else if w.en then (none, s)
  else
    let a := BitVec.ofNat 64 (v.toNat % 2 ^ 45)
    (none, s.setWindow i (match f with
      | 0 => { w with base := a }
      | 1 => { w with limit := a }
      | _ => { w with expbase := BitVec.ofNat 64 (a.toNat / 256 * 256) }))

/-- A write to the word of FMT and EN: clearing EN is always accepted, FMT changes only while EN = 0, and setting EN is checked.
A rejected write changes nothing (log 20). -/
def State.windowControl (s : State) (i : Nat) (v : Word) : Option Nat × State :=
  let w := s.window i
  let fmt := v.extractLsb' 1 2
  let w' := if w.en || fmt == 3 then w else { w with fmt }
  if !(v.getLsbD 0) then (none, s.setWindow i { w' with en := false })
  else if w.en then (none, s)
  else if s.windowClash i w' then (some 0x141, s)
  else (none, s.setWindow i { w' with en := true })

/-! ## Registers by offset -/

/-- The width in bytes of the register that starts at an offset, 0 where no register holds the offset, 1 inside a register
(R400). -/
def ctlWidth (off : Nat) : Nat :=
  if off < 0x200 then
    (if off % 32 = 0 ∨ off % 32 = 8 ∨ off % 32 = 16 then 8 else if off % 32 = 24 ∨ off % 32 = 28 then 4 else 1)
  else if off < 0x210 then (if off % 4 = 0 then 4 else 1)
  else if 0x300 ≤ off ∧ off < 0x400 then (if off % 4 = 0 then 4 else 1)
  else if 0x1000 ≤ off ∧ off < 0x5000 then
    let o := off % 0x1000
    if o = 0 ∨ o = 8 ∨ o = 0x20 then 8
    else if o = 0x10 ∨ o = 0x14 ∨ o = 0x18 ∨ o = 0x1C ∨ o = 0x28 then 4
    else if o < 0x2C then 1 else 0
  else 0

/-- Whether an access of `n` bytes at an offset acts on control space: it has the width of the register and starts at it, or it
reads words 0 and 1 of an error-log entry, or no register stands there (R400). -/
def ctlAccess (off n : Nat) (wr : Bool) : Bool :=
  let w := ctlWidth off
  (n == 4 || n == 8) && off % n == 0 && (w == n || w == 0 || (n == 8 && !wr && decide (0x300 ≤ off) && decide (off < 0x400) && off % 16 == 0))

/-- PKGSTAT (R407). -/
def Pkg.stat (p : Pkg) : Word :=
  BitVec.ofNat 32 ((if p.disc then 128 else 0) + (if p.unbk then 64 else 0) + (if p.vfail then 32 else 0) + p.stage % 4)

/-- A word of an error-log entry. -/
def ErrEntry.word (e : ErrEntry) (k : Nat) : Word :=
  match k with
  | 0 => e.w0
  | 1 => e.w1
  | 2 => e.w2
  | _ => e.w3

/-- The value at the offset of a translation control block (R386). -/
def Die.tcbRead (d : Die) (o : Nat) : Nat :=
  match o with
  | 0x00 => d.tcb.fbbase.toNat
  | 0x08 => d.tcb.atbase.toNat
  | 0x10 => (if d.tcb.note then 2048 else 0) + (if d.tcb.dropped then 1024 else 0) + d.tcb.log2n % 16
  | 0x14 => d.tcb.put.toNat
  | 0x18 => d.tcb.get.toNat
  | 0x1C => d.pending.length
  | 0x20 => d.tcb.carg.toNat
  | 0x28 => if d.tcb.busy = 0 then 0 else 2 ^ 31
  | _ => 0

/-- The value of the register at an offset. -/
def State.ctlValue (s : State) (off n : Nat) : Nat :=
  if off < 0x200 then
    let w := s.window (off / 32)
    match off % 32 with
    | 0 => w.base.toNat
    | 8 => w.limit.toNat
    | 16 => w.expbase.toNat
    | 24 => (if w.en then 1 else 0) + 2 * w.fmt.toNat
    | _ => 0
  else if off = 0x200 then s.pkg.stat.toNat
  else if off = 0x204 then s.pkg.cecnt.toNat
  else if off = 0x208 then s.pkg.cethr.toNat
  else if off = 0x20C then s.pkg.elput.toNat
  else if 0x300 ≤ off ∧ off < 0x400 then
    match tget s.pkg.elog ((off - 0x300) / 16) with
    | none => 0
    | some e => (e.word (off % 16 / 4)).toNat + (if n = 8 then 2 ^ 32 * e.w1.toNat else 0)
  else if 0x1000 ≤ off ∧ off < 0x5000 then (s.die (off / 0x1000 - 1)).tcbRead (off % 0x1000)
  else 0

/-- A write at the offset of a translation control block: LOG2N only while nothing is pending and only 3 to 10 (log 21), FCMD
only while no command runs. -/
def State.tcbWrite (s : State) (d o : Nat) (v : Pair) : State :=
  s.modDie d fun x =>
    let t := x.tcb
    let w := loWord v
    { x with tcb := match o with
      | 0x00 => { t with fbbase := v }
      | 0x08 => { t with atbase := v }
      | 0x10 => { t with
          note := w.getLsbD 11
          dropped := t.dropped && !(w.getLsbD 10)
          log2n := if x.pending.isEmpty && decide (3 ≤ (w.extractLsb' 0 4).toNat) && decide ((w.extractLsb' 0 4).toNat ≤ 10)
            then (w.extractLsb' 0 4).toNat else t.log2n }
      | 0x18 => { t with get := w }
      | 0x20 => { t with carg := v }
      | 0x28 =>
        let c := (w.extractLsb' 0 4).toNat
        if t.busy = 0 ∧ 1 ≤ c ∧ c ≤ 5 then { t with busy := c } else t
      | _ => t }

/-- A control-space load (R400): any other access reads 0 as an unbacked one does. -/
def State.ctlLoad (s : State) (off n : Nat) : Nat × State :=
  if ctlAccess off n false then (s.ctlValue off n, s) else (0, s.setUnbk)

/-- A control-space store: what it raises, if it is rejected. -/
def State.ctlStore (s : State) (off n : Nat) (v : Pair) : Option Nat × State :=
  if !(ctlAccess off n true) then (none, s.setUnbk)
  else if off < 0x200 then
    (if off % 32 < 24 then s.windowField (off / 32) (off % 32 / 8) v
     else if off % 32 = 24 then s.windowControl (off / 32) (loWord v) else (none, s))
  else if off = 0x200 then
    (none, s.modPkg fun p => { p with disc := p.disc && !(v.getLsbD 7), unbk := p.unbk && !(v.getLsbD 6) })
  else if off = 0x204 then (none, s.modPkg fun p => { p with cecnt := loWord v })
  else if off = 0x208 then (none, s.modPkg fun p => { p with cethr := loWord v })
  else if 0x1000 ≤ off ∧ off < 0x5000 then (none, s.tcbWrite (off / 0x1000 - 1) (off % 0x1000) v)
  else (none, s)

/-- REGISTER_WRITE: a write by firmware or the host at an offset of control space (R6, R400). -/
def execRegisterWrite (off : Nat) (wide : Bool) (val : BitVec 64) (s : State) : Host.Outcome State Fault Refusal :=
  .next (s.ctlStore off (if wide then 8 else 4) val).2

/-- WINDOW_FIELD_WRITE: field 0 BASE, 1 LIMIT, 2 EXPBASE, 3 FMT with EN as it stands. -/
def execWindowFieldWrite (win field : Nat) (val : BitVec 64) (s : State) : Host.Outcome State Fault Refusal :=
  .next (if win ≥ 16 then s
    else if field < 3 then (s.windowField win field val).2
    else if (s.window win).en then s
    else (s.windowControl win (BitVec.ofNat 32 (2 * (val.toNat % 4)))).2)

/-- WINDOW_ENABLE. -/
def execWindowEnable (win : Nat) (val : BitVec 32) (s : State) : Host.Outcome State Fault Refusal :=
  .next (if win ≥ 16 then s else (s.windowControl win val).2)

/-! ## Commands of the translation control block (20 R381, R387, R388) -/

/-- Change every parked thread of the contexts last resident on a die. -/
def State.mapParked (s : State) (die : Nat) (f : Key → Nat → Thread → Pair → Nat → Nat → State → State) : State :=
  s.ctxs.foldl (fun s c =>
    if dieOf c.2.core ≠ die then s else
    c.2.teams.foldl (fun s t => t.2.threads.foldl (fun s th =>
      match th.2.run with
      | .waiting (.park ea kind fwi) => f ⟨c.1, t.1, th.1⟩ c.2.asid th.2 ea kind fwi s
      | _ => s) s) s) s

/-- Re-issue the parked accesses of a die: their threads are Runnable at the words that parked (R387). -/
def State.reissue (s : State) (die : Nat) : State :=
  s.mapParked die fun k _ _ _ _ _ s => s.modThread k fun th => { th with run := .runnable }

/-- REPLAY_ALL (R387): held launch packets are translated again when they are next bound. -/
def execReplayAll (die : Nat) (s : State) : Host.Outcome State Fault Refusal :=
  .next (if (s.die die).tcb.busy ≠ 1 then s else
    let s := s.reissue die
    let s := s.modDie die fun d => { d with pending := [], tcb := { d.tcb with busy := 0 } }
    { s with held := s.held.map fun (h : Held) => if h.die = die then { h with page := none } else h })

/-- The page that CARG names: ASID and 64 KiB virtual page (R386). -/
def Tcb.cargPage (t : Tcb) : Nat × Nat := (t.carg.toNat % 65536, t.carg.toNat / 65536 % 2 ^ 40)

/-- REFUSE (R388): parked accesses on the page take the PAGE trap: qualifier 1 for a fetch, else 0. -/
def execRefuse (die : Nat) (s : State) : Host.Outcome State Fault Refusal :=
  .next (let d := s.die die
    if d.tcb.busy ≠ 2 then s else
    let page := d.tcb.cargPage
    let s := s.modDie die fun d => { d with tcb := { d.tcb with busy := 0 } }
    if !(d.pending.contains page) then s else
    let s := s.modDie die fun d => { d with pending := d.pending.filter (· != page) }
    let s := { s with held := s.held.map fun (h : Held) => if h.die = die ∧ h.page = some page then { h with refused := true } else h }
    s.mapParked die fun k asid th ea kind fwi s =>
      if (asid, vpageOf ea 0) = page then
        s.takeTrap k (if kind = 2 then 0x031 else 0x030) fwi th.pc (if kind = 1 then 1 else 0) ea
      else s)

/-- An access of a die's context that was translated and has not been performed at its home (R381). -/
def State.translatedInFlight (s : State) (die : Nat) (asid : Option Nat) : Bool :=
  let mine := fun (c : Nat) => (s.ctx? c).any fun x => dieOf x.core == die && asid.all (· == x.asid)
  s.loads.any (fun l => mine l.2.key.ctx) || s.atoms.any (fun a => a.2.turns.any fun t => mine t.key.ctx)
    || s.remotes.any (fun r => dieOf r.2.core == die && (asid.all (· == r.2.asid) || match r.2.kind with
      | .write _ _ => true
      | _ => false))
    || s.ops.any fun o => mine o.2.key.ctx && (match o.2.work with
      | .l2 x => !x.sent.isEmpty
      | .stand x => x.kind == .stand && x.phase == 1 && o.2.result.isNone
      | _ => false)

/-- Write back the dirty bytes of a die's L1s, whose stores may be those of any address space. -/
def State.writeBackDie (s : State) (die : Nat) : State :=
  s.cores.foldl (fun s c =>
    if dieOf c.1 ≠ die then s else
    c.2.l1.foldl (fun s e => s.writeBack c.1 e.1) s) s

/-- An invalidation command: the covered entries leave every TLB of the die once every access translated with them has been
performed at its home (R381). -/
def State.invalidate (s : State) (die cmd : Nat) (asid : Option Nat) (drop : TlbEntry → Bool) : State :=
  if (s.die die).tcb.busy ≠ cmd then s else
  let s := s.writeBackDie die
  if s.translatedInFlight die asid then s else
  let clean := fun (g : Nat) (c : Core) => if dieOf g = die then { c with tlb := c.tlb.filter fun t => !(drop t) } else c
  let s := { s with cores := tmap s.cores clean }
  s.modDie die fun d => { d with tlb := d.tlb.filter (fun t => !(drop t)), tcb := { d.tcb with busy := 0 } }

def execInvPage (die : Nat) (s : State) : Host.Outcome State Fault Refusal :=
  .next (let page := (s.die die).tcb.cargPage
    s.invalidate die 3 (some page.1) fun t => t.asid == page.1 && t.vpage == page.2 / 2 ^ (10 * t.level))
def execInvAsid (die : Nat) (s : State) : Host.Outcome State Fault Refusal :=
  .next (let asid := (s.die die).tcb.cargPage.1
    s.invalidate die 4 (some asid) fun t => t.asid == asid)
def execInvAll (die : Nat) (s : State) : Host.Outcome State Fault Refusal :=
  .next (s.invalidate die 5 none fun _ => true)

end Sys2Proof.Machine
end

