-- ==== Sys2Proof/Machine/Flags.lean ====
section
/-! DEFINITION. How an instruction delivers its result with the conditions it meets: sticky flags, the traps of FPCTL and of
OVF = 11, clamps (02 R34 to R40), and packed elements (02 R28). -/

namespace Sys2Proof.Machine

/-- The trap that FPCTL's enables turn a set of conditions into: the lowest-numbered enabled one (R37). -/
def enabledTrap (fpctl : Word) (flags : BitVec 6) : Option Nat :=
  ((List.range 6).find? fun k => fpctl.getLsbD k && flags.getLsbD k).map (0x70 + ·)

/-- Deliver a result: flags join the flag word; an OVF = 11 trap, or else an enabled condition, keeps everything else back
(R37, R38). `w0` is EINFO (12 R271). -/
def deliver (fpctl w0 : Word) (flags : BitVec 6) (sat : Nat) (trap : Option Nat) (regs : List (Nat × Word))
    (latch : Option Word) : Eff :=
  match trap.or (enabledTrap fpctl flags) with
  | some c => ⟨[], none, flags, 0, .trap c w0 0⟩
  | none => ⟨regs, latch, flags, sat, .next⟩

/-- A 32-bit result with no condition: its register and its latch (04 R88). -/
def res32 (rep : Option Rep) (th : Thread) (d : Dst) (v : Word) : Eff := ⟨dst32 rep th d v, some v, 0, 0, .next⟩

/-- A 64-bit result with no condition: its pair and no latch. -/
def res64 (rep : Option Rep) (th : Thread) (d : Dst) (v : Pair) : Eff := ⟨dst64 rep th d v, none, 0, 0, .next⟩

/-- A result of one or two words with its conditions. -/
def resCond (rep : Option Rep) (th : Thread) (w0 : Word) (d : Dst) (words : Nat) (r : FRes) : Eff :=
  if words = 2 then deliver th.view.fpctl w0 r.flags r.sat r.trap (dst64 rep th d (BitVec.ofNat 64 r.bits)) none
  else deliver th.view.fpctl w0 r.flags r.sat r.trap (dst32 rep th d (BitVec.ofNat 32 r.bits)) (some (BitVec.ofNat 32 r.bits))

/-! ## Packed elements (02 R28) -/

/-- The width of an element from W: 01 16 bits, 10 8 bits, else 32. -/
def elemWidth (w : BitVec 2) : Nat := if w == 1 then 16 else if w == 2 then 8 else 32

/-- Element `i` of width `w`. -/
def elem (w : Nat) (x : Word) (i : Nat) : Nat := x.toNat / 2 ^ (w * i) % 2 ^ w

/-- An element as a number, unsigned where `u`. -/
def elemInt (u : Bool) (w : Nat) (x : Word) (i : Nat) : Int := if u then (elem w x i : Int) else sint w (elem w x i)

/-- A register from its elements. -/
def packed (w : Nat) (f : Nat → Nat) : Word :=
  BitVec.ofNat 32 ((List.range (32 / w)).foldl (fun acc i => acc + f i % 2 ^ w * 2 ^ (w * i)) 0)

/-- Several elements' results as one: values at their places, flags by OR, clamps by sum, any trap (R28, R37). -/
def combine (w : Nat) (rs : List FRes) : FRes :=
  { bits := rs.foldr (fun r acc => r.bits % 2 ^ w + 2 ^ w * acc) 0
    flags := rs.foldl (fun f r => f ||| r.flags) 0
    sat := (rs.map (·.sat)).sum
    trap := rs.findSome? (·.trap) }

/-! ## Integer narrowing (02 R39, 04 R102) -/

/-- The range of an integer of `w` bits. -/
def intLo (u : Bool) (w : Nat) : Int := if u then 0 else -(2 ^ (w - 1) : Nat)
def intHi (u : Bool) (w : Nat) : Int := if u then (2 ^ w : Nat) - 1 else (2 ^ (w - 1) : Nat) - 1

/-- Narrow to a range: a clamp sets IX and SAT and counts one, or traps under OVF = 11. The bits are those of `out` bits. -/
def narrow (lo hi : Int) (out : Nat) (ovf : BitVec 2) (trap : Nat) (v : Int) : FRes :=
  if lo ≤ v ∧ v ≤ hi then .ok (wrap out v)
  else if ovf == 3 then ⟨0, flIX ||| flSAT, 0, some trap⟩
  else ⟨wrap out (if v < lo then lo else hi), flIX ||| flSAT, 1, none⟩

/-- Integer type codes of 04 R104: width and signedness. -/
def intCode (c : BitVec 4) : Nat × Bool := (8 * 2 ^ (c.toNat % 4), decide (4 ≤ c.toNat))

/-- The value that CVTI and ITOF read (R104). -/
def cvtiSrc (st : BitVec 4) (x : Nat) : Int :=
  let (w, u) := intCode st
  if u then (x % 2 ^ w : Nat) else sint w x

/-- The bits a conversion to an integer type writes: narrow signed results sign-extended to 32 bits, others zero-extended. -/
def intOut (c : BitVec 4) : Nat := if (intCode c).1 = 64 then 64 else if (intCode c).2 then (intCode c).1 else 32

/-- Floating conversion to an integer (R39 steps 1 to 4). -/
def toInt (rm : BitVec 3) (ovf : BitVec 2) (u : Bool) (w out : Nat) (v : FV) : FRes :=
  let outside := fun (neg : Bool) =>
    if ovf == 3 then ⟨0, flIV ||| flIX ||| flSAT, 0, some 0x080⟩
    else (⟨wrap out (if neg then intLo u w else intHi u w), flIV ||| flIX ||| flSAT, 1, none⟩ : FRes)
  match v with
  | .nan => if ovf == 3 then ⟨0, flIV, 0, some 0x081⟩ else ⟨0, flIV, 0, none⟩
  | .inf s => outside s
  | .fin s m e =>
    let (k, ix) := roundInt rm s m e
    if intLo u w ≤ k ∧ k ≤ intHi u w then ⟨wrap out k, if ix then flIX else 0, 0, none⟩ else outside (decide (k < 0))

end Sys2Proof.Machine
end

