-- ==== Sys2Proof/Machine/GlobalMem.lean ====
section
/-! DEFINITION. Global and constant memory access (07): addresses and their checks, loads and stores through L1, atomics at the home,
fences and cache maintenance, and the events that move data between L1, home and HBM4. -/

namespace Sys2Proof.Machine

/-! ## Addresses (R152) -/

/-- The access width in bytes of a W field (R158). -/
def accBytes (w : BitVec 2) : Nat :=
  match w.toNat with
  | 0 => 4
  | 1 => 2
  | 2 => 1
  | _ => 8

/-- The first failing check of an effective address, as a cause: canonical form, then alignment (R152). -/
def eaFault (ea : Pair) (n align : Nat) : Option Nat :=
  if !(canonical ea) then some 0x023 else if ea.toNat % n != 0 then some align else none

/-- The physical addresses that a virtual one may translate to as the state stands, from the TLBs and from the table. -/
def State.mayBe (s : State) (core asid : Nat) (va : Pair) : List Pair :=
  let tlbs := ((s.core core).tlb ++ (s.die (dieOf core)).tlb).filter (TlbEntry.covers · asid va)
  tlbs.map (fun t => leafPa t.leaf t.level va) ++
    (match s.walk (dieOf core) asid va with
      | .leaf e l => [leafPa e l va]
      | _ => [])

/-! ## Order within one thread (08 R176, 25 R436) -/

/-- Two addresses whose accesses one thread keeps in order: one sector of this package, or one line of another device. -/
def State.sameBlock (s : State) (a b : Pair) : Bool :=
  if s.isLocal a then a.toNat / 128 == b.toNat / 128 else a.toNat / 256 == b.toNat / 256

/-- Whether an atomic of a thread that acquires is in flight: no later access of the thread begins (R166). -/
def State.acquiring (s : State) (k : Key) : Bool :=
  let acq := fun (a : AtomReq) => (a.ord == 1 || a.ord == 3) && a.turns.any fun t => t.key == k
  s.atoms.any (fun a => acq a.2) || s.remotes.any fun r => match r.2.kind with
    | .atom a => acq a
    | _ => false

/-- Whether an earlier access of a thread to the same block is in flight. -/
def State.blockBusy (s : State) (k : Key) (core : Nat) (pa : Pair) : Bool :=
  s.loads.any (fun l => l.2.key == k && s.sameBlock pa l.2.pa) ||
  s.atoms.any (fun a => s.sameBlock pa a.2.pa && a.2.turns.any fun t => t.key == k) ||
  s.remotes.any fun r => s.sameBlock pa r.2.pa && match r.2.kind with
    | .atom a => a.turns.any fun t => t.key == k
    | .write _ _ => (s.snoopOf [core]).contains r.2.core
    | _ => false

/-- Whether a member must hold at a global access to an address. -/
def State.mustHold (s : State) (k : Key) (ea : Pair) : Bool :=
  s.acquiring k || (s.ctx? k.ctx).any fun c => (s.mayBe c.core c.asid ea).any fun pa => s.blockBusy k c.core pa

/-- Issue a word of global accesses: it holds while a member's address is busy. -/
def State.issueMem (s : State) (i : Instr) (ea : Thread → Pair) (f : State → Key → Team → Thread → State × Out) : State :=
  s.holdIf i (fun s k th => s.mustHold k (ea th)) fun s => s.issueEach i f

/-! ## Loads (R154, R157, R158) -/

/-- The register writes of a loaded value of `n` bytes. -/
def loadRegs (n : Nat) (sx : Bool) (d : Option Nat) (v : Nat) : List (Nat × Word) :=
  match d with
  | none => []
  | some r =>
    if n = 8 then pairWrites r (BitVec.ofNat 64 v)
    else [(r, if sx then BitVec.ofInt 32 (sint (8 * n) v) else BitVec.ofNat 32 v)]

/-- The register that a destination names, none with NW = 1. -/
def dstIdx (s : State) (th : Thread) (d : Dst) (words : Nat) : Option Nat :=
  if d.nw then none else some (dstReg s.site.rep th d.r words)

/-- A deferred result of a kind with no condition. -/
def State.deferRegs (s : State) (k : Key) (regs : List (Nat × Word)) (kind : Nat) : State :=
  s.defer { key := k, regs, latch := none, latchVal := 0, kind := some kind, flags := 0, sat := 0 }

/-- Mark destination registers pending on a fresh landing whose value is not known yet, and count it. -/
def State.await (s : State) (k : Key) (regs : List (Nat × Word)) (kind : Nat) : Nat × State :=
  let (id, s) := s.freshId
  let mark := fun (p : Tab Pend) (w : Nat × Word) => if w.1 = 0 then p else tset p w.1 (.landing id)
  (id, s.modThread k fun th => ({ th with pend := regs.foldl mark th.pend } : Thread).addCount kind)

/-- A landing whose value is now known: REGISTER_RESULT_LANDS delivers it. -/
def State.arrive (s : State) (id : Nat) (k : Key) (regs : List (Nat × Word)) (kind : Nat) : State :=
  { s with landings := tset s.landings id { key := k, regs, latch := none, latchVal := 0, kind := some kind, flags := 0, sat := 0 } }

/-- A load of `n` bytes at a physical address that is backed, by way of L1. -/
def State.cachedLoad (s : State) (k : Key) (c : Ctx) (ea pa : Pair) (n : Nat) (sx na : Bool) (d : Option Nat) (pc : PC) : State :=
  match s.l1Load c.core (sectorOf pa) c.asid na (maskOf (pa.toNat % 128) n) with
  | (some data, s) => s.deferRegs k (loadRegs n sx d (secGet data (pa.toNat % 128) n)) 0
  | (none, s) =>
    let (id, s) := s.await k (loadRegs n sx d 0) 0
    let s := { s with loads := tset s.loads id ⟨k, c.core, ea, pa, n, sx, d, id, na, pc⟩ }
    if s.isLocal pa then s else s.wantSector c.core c.asid (sectorOf pa)

/-- A thread's load: control space at once, an unbacked address as 0, a line of an absent device as a trap (22 R399, R400,
25 R435). -/
def State.memLoad (s : State) (k : Key) (c : Ctx) (ea : Pair) (n : Nat) (sx na : Bool) (d : Option Nat) : State × Out :=
  match s.threadTr k ea .load with
  | (.inr o, s) => (s, o)
  | (.inl pa, s) =>
    if s.isLocal pa then
      if inControl (localOf pa) then
        let (v, s) := s.ctlLoad (localOf pa - 0x1F0000000000) n
        (s.deferRegs k (loadRegs n sx d v) 0, .next)
      else if inHbm (localOf pa) then (s.cachedLoad k c ea pa n sx na d ⟨s.site.h, s.site.wi⟩, .next)
      else (s.setUnbk.deferRegs k (loadRegs n sx d 0) 0, .next)
    else if s.present (devOf pa) then (s.cachedLoad k c ea pa n sx na d ⟨s.site.h, s.site.wi⟩, .next)
    else (s, .trap 0x170 0 ea)

/-- A sideband load (R160): at the home of a local sector; the sideband of another device's sector has no stated value (log 22). -/
def State.sideRead (s : State) (k : Key) (ea : Pair) (d : Option Nat) : State × Out :=
  match s.threadTr k ea .load with
  | (.inr o, s) => (s, o)
  | (.inl pa, s) =>
    if s.isLocal pa then
      let (v, s) := s.sideLoad (localOf pa)
      (s.deferRegs k (loadRegs 4 false d v.toNat) 0, .next)
    else if s.present (devOf pa) then
      let (v, s) := s.drawNat
      (s.deferRegs k (loadRegs 4 false d v) 0, .next)
    else (s, .trap 0x170 0 ea)

/-- The effective address of LDG and STG (R157). -/
def ldgEa (rep : Option Rep) (a : Sel) (off : BitVec 8) (th : Thread) : Pair := rd64 rep th .a a + 4 * sx64 off

/-- The effective address of LDGX and STGX (R158). -/
def ldgxEa (rep : Option Rep) (a b : Sel) (scl : BitVec 2) (imm : BitVec 12) (th : Thread) : Pair :=
  rd64 rep th .a a + (sx64 (rd32 rep th .b b) <<< scl.toNat) + sx64 imm

/-- A load by one member once its address is known. -/
def State.loadAt (s : State) (k : Key) (ea : Pair) (n : Nat) (sx na xs : Bool) (d : Option Nat) : State × Out :=
  match eaFault ea n 0x020, s.ctx? k.ctx with
  | some q, _ => (s, .trap q 0 ea)
  | none, some c => if xs then s.sideRead k ea d else s.memLoad k c ea n sx na d
  | none, none => (s, .next)

def execLdg (d : Dst) (a : Sel) (off : BitVec 8) (s : State) : Host.Outcome State Fault Refusal :=
  .next (s.issueMem (.ldg d a off) (ldgEa s.site.rep a off) fun s k _ th =>
    s.loadAt k (ldgEa s.site.rep a off th) 4 false false false (dstIdx s th d 1))

def execLdgx (d : Dst) (a b : Sel) (scl : BitVec 2) (na xs sx : Bool) (w : BitVec 2) (imm : BitVec 12) (s : State) :
    Host.Outcome State Fault Refusal :=
  .next (s.issueMem (.ldgx d a b scl na xs sx w imm) (ldgxEa s.site.rep a b scl imm) fun s k _ th =>
    s.loadAt k (ldgxEa s.site.rep a b scl imm th) (accBytes w) sx na xs (dstIdx s th d (wide w)))

/-! ## Stores -/

/-- A thread's store of `n` bytes (R154, 22 R399, R400, 25 R435). -/
def State.memStore (s : State) (k : Key) (c : Ctx) (ea : Pair) (n : Nat) (na : Bool) (v : Pair) : State × Out :=
  match s.threadTr k ea .store with
  | (.inr o, s) => (s, o)
  | (.inl pa, s) =>
    let put := fun (s : State) => s.l1Store k c.core (sectorOf pa) c.asid s.site.h na (maskOf (pa.toNat % 128) n)
      (secPut (pa.toNat % 128) n v.toNat)
    if s.isLocal pa then
      if inControl (localOf pa) then
        match s.ctlStore (localOf pa - 0x1F0000000000) n v with
        | (some cause, s) => (s, .trap cause 0 0)
        | (none, s) => (s, .next)
      else if inHbm (localOf pa) then (put s, .next)
      else (s.setUnbk, .next)
    else if s.present (devOf pa) then (put s, .next)
    else (s, .trap 0x170 0 ea)

/-- A sideband store (R160); to a sector of another device it is discarded (log 22). -/
def State.sideWrite (s : State) (k : Key) (ea : Pair) (v : Word) : State × Out :=
  match s.threadTr k ea .store with
  | (.inr o, s) => (s, o)
  | (.inl pa, s) =>
    if s.isLocal pa then (s.sideStore (localOf pa) 15 v, .next)
    else if s.present (devOf pa) then (s, .next) else (s, .trap 0x170 0 ea)

/-- A store by one member once its address is known. -/
def State.storeAt (s : State) (k : Key) (ea : Pair) (n : Nat) (na xs : Bool) (v : Pair) : State × Out :=
  match eaFault ea n 0x020, s.ctx? k.ctx with
  | some q, _ => (s, .trap q 1 ea)
  | none, some c => if xs then s.sideWrite k ea (loWord v) else s.memStore k c ea n na v
  | none, none => (s, .next)

/-- The data register of a store, as 64 bits: S stands in D's place and is stepped with it (R63, R77). -/
def rdS (rep : Option Rep) (th : Thread) (r : BitVec 7) (words : Nat) : Pair :=
  let k := dstReg rep th r words
  if words = 2 then th.pair k else (th.get k).setWidth 64

def execStg (rs : BitVec 7) (a : Sel) (off : BitVec 8) (s : State) : Host.Outcome State Fault Refusal :=
  .next (s.issueMem (.stg rs a off) (ldgEa s.site.rep a off) fun s k _ th =>
    s.storeAt k (ldgEa s.site.rep a off th) 4 false false (rdS s.site.rep th rs 1))

def execStgx (rs : BitVec 7) (a b : Sel) (scl : BitVec 2) (na xs : Bool) (w : BitVec 2) (imm : BitVec 12) (s : State) :
    Host.Outcome State Fault Refusal :=
  .next (s.issueMem (.stgx rs a b scl na xs w imm) (ldgxEa s.site.rep a b scl imm) fun s k _ th =>
    s.storeAt k (ldgxEa s.site.rep a b scl imm th) (accBytes w) na xs (rdS s.site.rep th rs (wide w)))

/-! ## Constant loads (R161) -/

/-- The physical address of a byte of a launch's constant data, as its binding translated it. -/
def ConstSpace.pa (l : ConstSpace) (e : Nat) : Pair :=
  let va := (l.base + BitVec.ofNat 64 e).toNat
  ((l.pages.find? fun p => p.1 == va / 65536).map fun p => p.2 + BitVec.ofNat 64 (va % 65536)).getD 0

/-- The values that a local constant byte may give: the one at binding, and those written since (R161). -/
def State.constValues (s : State) (l : ConstSpace) (e : Nat) : List Byte :=
  let a := localOf (l.pa e)
  mread l.old e :: ((s.pkg.noted.drop l.mark).filter fun x => x.1 == a / 128).map fun x => secByte x.2 (a % 128)

/-- Whether a byte of a constant space lies on another device, whose home gives it (25 R435). -/
def ConstSpace.far (l : ConstSpace) (s : State) (e : Nat) : Bool := decide (e < l.len) && !(s.isLocal (l.pa e))

/-- A constant byte of this package: its value at binding or one written since, freely; beyond the data, and where another device is
still to give it, 0. -/
def State.constByte (s : State) (l : ConstSpace) (e : Nat) : Byte × State :=
  if e ≥ l.len ∨ l.far s e then (0, s) else
  let s := if inHbm (localOf (l.pa e)) then s else s.setUnbk
  let vs := s.constValues l e
  if vs.length ≤ 1 then (vs.headD 0, s) else
  let (k, s) := s.drawNat
  (vs.getD (k % vs.length) 0, s)

/-- Four constant bytes as a word. -/
def State.constWord (s : State) (l : ConstSpace) (e : Nat) : Word × State :=
  let (b0, s) := s.constByte l e
  let (b1, s) := s.constByte l (e + 1)
  let (b2, s) := s.constByte l (e + 2)
  let (b3, s) := s.constByte l (e + 3)
  (b3 ++ b2 ++ b1 ++ b0, s)

/-- The runs of bytes of a constant word that lie on other devices: address, first byte, number. -/
def State.constRuns (s : State) (l : ConstSpace) (e : Nat) : List (Pair × Nat × Nat) :=
  (List.range 4).foldl (fun acc k =>
    if !(l.far s (e + k)) then acc else
    let pa := l.pa (e + k)
    match acc.getLast? with
    | some (a, f, n) => if f + n = k ∧ a + BitVec.ofNat 64 n = pa ∧ devOf a = devOf pa then acc.dropLast ++ [(a, f, n + 1)] else acc ++ [(pa, k, 1)]
    | none => [(pa, k, 1)]) []

/-- Ask for the next run of bytes of a constant load, or deliver its word. -/
def State.askConst (s : State) (core asid : Nat) (q : ConstReq) : State :=
  match q.rest with
  | [] => s.arrive q.landing q.key (loadRegs 4 false q.dst q.word.toNat) 6
  | (pa, f, n) :: rest => s.send 1 pa n [] ⟨pa, asid, core, .konst { q with first := f, n, rest }, 0⟩

/-- A constant load whose word lies in part or whole on another device. -/
def State.farLoad (s : State) (k : Key) (e : Nat) (d : Option Nat) (v : Word) (runs : List (Pair × Nat × Nat)) : State × Out :=
  if runs.any fun r => !(s.present (devOf r.1)) then (s, .trap 0x170 0 (BitVec.ofNat 64 e)) else
  match s.ctx? k.ctx with
  | none => (s, .next)
  | some c =>
    let (id, s) := s.await k (loadRegs 4 false d 0) 6
    (s.askConst c.core c.asid ⟨k, id, d, ⟨s.site.h, s.site.wi⟩, v, 0, 0, runs⟩, .next)

def execLdk (d : Dst) (a : Sel) (off : BitVec 8) (s : State) : Host.Outcome State Fault Refusal :=
  .next (s.issueEach (.ldk d a off) fun s k t th =>
    let e := (rd32 s.site.rep th .a a).toNat + 4 * off.toNat
    if e % 4 ≠ 0 then (s, .trap 0x022 0 (BitVec.ofNat 64 e))
    else if e ≥ 65536 then (s, .trap 0x024 0 (BitVec.ofNat 64 e))
    else
      let (v, s) := s.constWord t.konst e
      let runs := s.constRuns t.konst e
      if !runs.isEmpty then s.farLoad k e (dstIdx s th d 1) v runs
      else (s.deferRegs k (dst32 s.site.rep th d v) 6, .next))

/-! ## Atomics (R162 to R167) -/

/-- The value that an atomic writes, if it writes: C[3:0] of ATOM, or 12 for CAS, at a width of 32 or 64 bits (R162 to R164). -/
def atomNew (op bytes : Nat) (old b c : Nat) : Option Nat :=
  let n := 8 * bytes
  match op with
  | 0 => none
  | 1 => some b
  | 2 => some b
  | 3 => some ((old + b) % 2 ^ n)
  | 4 => some (old &&& b)
  | 5 => some (old ||| b)
  | 6 => some (old ^^^ b)
  | 7 => some (if sint n b < sint n old then b else old)
  | 8 => some (if sint n old < sint n b then b else old)
  | 9 => some (min old b)
  | 10 => some (max old b)
  | 11 => some (addF32 old b)
  | _ => if old = b then some c else none

/-- One turn of an atomic at a local home, indivisibly: the old value. Its pushes carry its release (16 R319). -/
def State.atomTurn (s : State) (a op bytes b c scope : Nat) : Nat × State :=
  if !inHbm a then (0, s.setUnbk) else
  let (old, s) := s.homeLoad a bytes
  match atomNew op bytes old (b % 2 ^ (8 * bytes)) (c % 2 ^ (8 * bytes)) with
  | some v => (old, s.homeWriteRel a bytes v scope)
  | none => (old, s)

/-- The acquire part of an atomic, for the threads of its turns (R166). -/
def State.atomAcquire (s : State) (r : AtomReq) : State :=
  if r.ord = 1 ∨ r.ord = 3 then r.turns.foldl (fun s t => s.acquireAt (s.domainOf t.key) r.scope.toNat) s else s

/-- Whether a request to another device waits: the rest of one that did not fit into a packet for what has been sent (log 22); an sc
one for the requests of its issue to this package, with which it leaves (08 R183, log 84), and for an sc atomic to its sector that is
in flight. -/
def State.atomWaits (s : State) (r : AtomReq) : Bool :=
  (r.ord == 3 && ((s.atoms.any fun a => a.2.issue == r.issue && s.isLocal a.2.pa) || s.scUnderway (sectorOf r.pa))) ||
  s.remotes.any fun x =>
    match x.2.kind with
    | .atom q => q.issue == r.issue && q.pa == r.pa
    | _ => false

/-- The cores whose snoop domains an atomic acts on: that of its issue, and those that its threads have moved to since. -/
def State.atomCores (s : State) (r : AtomReq) : List Nat :=
  dedup (r.core :: r.turns.filterMap fun t => (s.ctx? t.key.ctx).map (·.core))

/-- The old values reach the landings of their turns. -/
def State.atomArrive (s : State) (r : AtomReq) (olds : List Nat) : State :=
  (r.turns.zip olds).foldl (fun s t =>
    s.arrive t.1.landing t.1.key (loadRegs r.width false t.1.dst t.2) 4) s

/-- The turns of a request at a local home, with nothing between them (R165, R167). No copy of the sector outlives the write in the
snoop domains of its threads, so that no later load of theirs returns an older value (08 R176). -/
def State.atomPerform (s : State) (id : Nat) (r : AtomReq) : State :=
  let s := ({ s with atoms := tdel s.atoms id } : State).purge (s.atomCores r) (sectorOf r.pa)
  let (olds, s) := r.turns.foldl (fun (acc : List Nat × State) t =>
    let (old, s) := acc.2.atomTurn (localOf r.pa) r.op r.width t.b.toNat t.c.toNat (if r.ord = 2 ∨ r.ord = 3 then r.scope.toNat else 0)
    (acc.1 ++ [old], s)) ([], s)
  (s.atomAcquire r).atomArrive r olds

/-- The bytes of an atomic packet: the operands of its turns in order. -/
def AtomReq.payload (r : AtomReq) : List Byte :=
  r.turns.flatMap fun t => leBytes r.width t.b.toNat ++ (if r.op = 12 then leBytes r.width t.c.toNat else [])

/-- The turns that one packet holds: 256 bytes of operands (25 R433, log 22). -/
def AtomReq.room (r : AtomReq) : Nat := 256 / (if r.op = 12 then 2 * r.width else r.width)

/-- Requests to another device leave as packets (25 R433, R436) when they wait for no other; the turns that a packet does not hold
stay behind. -/
def State.sendAtoms (s : State) : State :=
  s.atoms.foldl (fun s a =>
    if s.isLocal a.2.pa || s.atomWaits a.2 then s else
    let r := { a.2 with turns := a.2.turns.take a.2.room }
    let rest := a.2.turns.drop a.2.room
    let s := { s with atoms := if rest.isEmpty then tdel s.atoms a.1 else tset s.atoms a.1 { a.2 with turns := rest } }
    s.send 5 r.pa (r.width * r.turns.length) r.payload ⟨r.pa, r.asid, r.core, .atom r, 0⟩) s

/-- ATOMIC_AT_HOME: the turns of a request; all requests of an sc issue to this package are performed together, and those to other
devices leave with them, so that the members stand in S in ascending position (08 R183, log 84). -/
def execAtomicAtHome (id : Nat) (s : State) : Host.Outcome State Fault Refusal :=
  .next (match tget s.atoms id with
    | none => s
    | some r =>
      if !(s.isLocal r.pa) then s
      else if r.ord != 3 then s.atomPerform id r
      else ((s.atoms.filter fun a => a.2.issue == r.issue && s.isLocal a.2.pa).foldl (fun s a => s.atomPerform a.1 a.2) s).sendAtoms)

/-- Add a member's turn to the request of its issue at its address (R167). -/
def State.addTurn (s : State) (r : AtomReq) (t : AtomTurn) : State :=
  match s.atoms.find? fun a => a.2.issue == r.issue && a.2.pa == r.pa with
  | some (id, _) => { s with atoms := tmod s.atoms id fun a => { a with turns := a.turns ++ [t] } }
  | none =>
    let (id, s) := s.freshId
    { s with atoms := tset s.atoms id { r with turns := [t] } }

/-- The two sectors of a line. -/
def lineSectors (pa : Pair) : List Nat := [2 * (pa.toNat / 256), 2 * (pa.toNat / 256) + 1]

/-- Write back, or write back and drop, the copies of sectors of other devices that the members may name, in their snoop domains
or in every L1; whether any had dirty bytes, whose acknowledgement the word then waits for (25 R436). -/
def State.clearRemote (s : State) (i : Instr) (ea : Thread → Pair) (sectors : Pair → List Nat) (drop all : Bool) : Bool × State :=
  (s.site.members.filter fun m => (s.faultOf i m).isNone).foldl (fun acc m =>
    let k : Key := ⟨s.site.ctx, m.1, m.2⟩
    match s.thread? k, s.ctx? k.ctx with
    | some th, some c =>
      (s.mayBe c.core c.asid (ea th)).foldl (fun (acc : Bool × State) pa =>
        if acc.2.isLocal pa then acc else
        let dom := if all then acc.2.cores.map (·.1) else acc.2.snoopOf (acc.2.domainOf k)
        let act := fun (s : State) (g sec : Nat) => if drop then s.evictL1 g sec else s.writeBack g sec
        if dom.any fun g => (sectors pa).any fun sec => (acc.2.l1 g sec).any fun x => x.dirty != 0 then
          (true, dom.foldl (fun s g => (sectors pa).foldl (fun s sec => act s g sec) s) acc.2)
        else acc) acc
    | _, _ => acc) (false, s)

/-- One member's atomic: the sector leaves the domain, and its turn joins its issue's request (R165). DESIGN CHOICE (log 99): an
atomic that 22 R399 discards has done the release part of its order and does no acquire part. -/
def State.atomOne (s : State) (k : Key) (ea : Pair) (r : AtomReq) (d : Option Nat) (b c : Pair) : State × Out :=
  match eaFault ea r.width 0x021, s.ctx? k.ctx with
  | some q, _ => (s, .trap q 1 ea)
  | none, none => (s, .next)
  | none, some x =>
    match s.threadTr k ea .atomic with
    | (.inr o, s) => (s, o)
    | (.inl pa, s) =>
      if s.isLocal pa && !inHbm (localOf pa) then (s.setUnbk.deferRegs k (loadRegs r.width false d 0) 4, .next)
      else if !(s.isLocal pa) && !(s.present (devOf pa)) then (s, .trap 0x170 0 ea)
      else
        let s := s.purge (s.domainOf k) (sectorOf pa)
        let (id, s) := s.await k (loadRegs r.width false d 0) 4
        (s.addTurn { r with core := x.core, pa, asid := x.asid, pc := ⟨s.site.h, s.site.wi⟩ } ⟨k, d, b, c, id⟩, .next)

/-- Issue ATOM or CAS (R162 to R167): the release part first, then one request for each address. -/
def State.issueAtom (s : State) (i : Instr) (ea : Thread → Pair) (r : AtomReq)
    (one : State → Key → Thread → Option Nat × Pair × Pair) : State :=
  if s.stalls i then s.noteStall else
  s.holdIf i (fun s k th => s.mustHold k (ea th)) fun s =>
    let (again, s) := s.clearRemote i ea (fun pa => [sectorOf pa]) true false
    if again then s.noteStall else
    let go := fun (s : State) =>
      let issue := s.fresh
      let new := s.site.members.any fun m => (s.faultOf i m).isNone
      let s := s.issueEach i fun s k _ th =>
        let (d, b, c) := one s k th
        s.atomOne k (ea th) { r with issue } d b c
      if new then s.sendAtoms else s
    if r.ord = 2 ∨ r.ord = 3 then s.afterRelease i r.scope.toNat go
    else if r.ord = 1 then s.holdIf i (fun s k _ => s.inFlight k) go else go s

def execAtom (d : Dst) (a b : Sel) (op : BitVec 4) (w : BitVec 2) (scope : BitVec 3) (ord : BitVec 2) (imm : BitVec 12)
    (s : State) : Host.Outcome State Fault Refusal :=
  let ea := fun (th : Thread) => rd64 s.site.rep th .a a + sx64 imm
  .next (s.issueAtom (.atom d a b op w scope ord imm) ea ⟨0, 0, accBytes w, op.toNat, ord, scope, ⟨0, 0⟩, 0, 0, []⟩ fun s _ th =>
    (if op = 1 then none else dstIdx s th d (wide w), rdW s.site.rep th .b b (wide w), 0))

def execCas (d : Dst) (a b c : Sel) (w : BitVec 2) (scope : BitVec 3) (ord : BitVec 2) (imm : BitVec 12) (s : State) :
    Host.Outcome State Fault Refusal :=
  let ea := fun (th : Thread) => rd64 s.site.rep th .a a + sx64 imm
  .next (s.issueAtom (.cas d a b c w scope ord imm) ea ⟨0, 0, accBytes w, 12, ord, scope, ⟨0, 0⟩, 0, 0, []⟩ fun s _ th =>
    (dstIdx s th d (wide w), rdW s.site.rep th .b b (wide w), rdW s.site.rep th .c c (wide w)))

/-! ## Fences and cache maintenance (R168, R169) -/

/-- FENCE waits for the loads and atomics in flight of its members, then performs its cache actions. -/
def execFence (ord : BitVec 2) (scope : BitVec 3) (s : State) : Host.Outcome State Fault Refusal :=
  let i : Instr := .fence ord scope
  let finish := fun (s : State) =>
    let s := if ord = 1 ∨ ord = 3 then s.acquireAt (s.issueDomain i) scope.toNat else s
    s.issueEach i fun s _ _ _ => (s, .next)
  .next (if ord = 2 ∨ ord = 3 then s.afterRelease i scope.toNat finish else s.holdIf i (fun s k _ => s.inFlight k) finish)

/-- Every core of the package. -/
def State.allCores (s : State) : List Nat := s.cores.map (·.1)

/-- A line action by one member: `inv` drops what FLUSH only cleans, and at pkg and sys scope the home acts too. -/
def State.lineAct (s : State) (k : Key) (ea : Pair) (inv : Bool) (scope : Nat) : State × Out :=
  if !(canonical ea) then (s, .trap 0x023 1 ea) else
  match s.threadTr k ea .store with
  | (.inr o, s) => (s, o)
  | (.inl pa, s) =>
    let cores := if inv && scope ≥ 4 then s.allCores else s.snoopOf (s.domainOf k)
    let s := (lineSectors pa).foldl (fun s sec =>
      cores.foldl (fun s g => if inv then s.evictL1 g sec else s.writeBack g sec) s) s
    let s := if s.isLocal pa && !inHbm (localOf pa) then s.setUnbk else s
    if scope < 4 || !(s.isLocal pa) then (s, .next)
    else ((lineSectors pa).foldl (fun s sec =>
      let l := localOf (sectorPa sec) / 128
      let s := s.mergeUpdate l
      if inv then s.evictHome l else s.cleanHome l) s, .next)

/-- Whether a write to the line of another device that an address may name is in flight from any core. -/
def State.lineBusy (s : State) (k : Key) (ea : Pair) : Bool :=
  (s.ctx? k.ctx).any fun c => (s.mayBe c.core c.asid ea).any fun pa => !(s.isLocal pa) && s.remotes.any fun r =>
    s.sameBlock pa r.2.pa &&
      match r.2.kind with
      | .write _ _ => true
      | _ => false

/-- Issue FLUSH or INVAL: it holds until the write-backs of lines of other devices are acknowledged; INVAL at pkg and sys scope acts
on every L1 of the package. -/
def State.issueLine (s : State) (i : Instr) (a : Sel) (inv : Bool) (scope : Nat) : State :=
  let ea := fun (th : Thread) => rd64 s.site.rep th .a a
  if s.stalls i then s.noteStall else
  let all := inv && decide (scope ≥ 4)
  s.holdIf i (fun s k th => s.mustHold k (ea th) || (all && s.lineBusy k (ea th))) fun s =>
    let (again, s) := s.clearRemote i ea lineSectors inv all
    if again then s.noteStall else s.issueEach i fun s k _ th => s.lineAct k (ea th) inv scope

def execFlush (a : Sel) (scope : BitVec 3) (s : State) : Host.Outcome State Fault Refusal :=
  .next (s.issueLine (.flush a scope) a false scope.toNat)
def execInval (a : Sel) (scope : BitVec 3) (s : State) : Host.Outcome State Fault Refusal :=
  .next (s.issueLine (.inval a scope) a true scope.toNat)

/-- A prefetch of one sector into its home and, for `.l1`, into L1 (R169). -/
def State.prefetch (s : State) (core asid sec : Nat) (l1 : Bool) : State :=
  if !(s.isLocal (sectorPa sec)) || !inHbm (localOf (sectorPa sec)) then s else
  let (data, s) := s.homeSector sec
  if l1 && (s.l1 core sec).isNone then s.l1Fill core sec asid false data else s

/-- PREF never faults and never parks. -/
def execPref (a : Sel) (lv : BitVec 8) (s : State) : Host.Outcome State Fault Refusal :=
  .next (s.issueEach (.pref a lv) fun s k _ th =>
    match s.ctx? k.ctx with
    | none => (s, .next)
    | some c =>
      let ea := rd64 s.site.rep th .a a
      if !(canonical ea) then (s, .next) else
      match s.translate (some c.core) (dieOf c.core) c.asid ea .load th.priv with
      | (.ok pa, s) => ((lineSectors pa).foldl (fun s sec => s.prefetch c.core c.asid sec (lv == 0)) s, .next)
      | (_, s) => (s, .next))

/-! ## Events between L1, home and HBM4 -/

/-- Bind the loads that waited for a sector of an L1, whose bytes are now all valid. -/
def State.bindLoads (s : State) (core sec : Nat) (data : SectorData) : State :=
  s.loads.foldl (fun s e =>
    let l := e.2
    if l.core = core ∧ sectorOf l.pa = sec then
      let v := secGet data (l.pa.toNat % 128) l.width
      ({ s with loads := tdel s.loads e.1 } : State).arrive l.landing l.key (loadRegs l.width l.sx l.dst v) 0
    else s) s

/-- A sector that has come from its home is merged into L1 and given to the loads that wait for it (R211). -/
def State.fillAndBind (s : State) (core sec asid : Nat) (home : SectorData) : State :=
  let na := s.loads.any fun l => l.2.core == core && sectorOf l.2.pa == sec && l.2.na
  let s := s.l1Fill core sec asid na home
  s.bindLoads core sec (((s.l1 core sec).map (·.data)).getD 0)

/-- L1_FILL: a local sector's bytes arrive from its home. -/
def execL1Fill (core sector : Nat) (s : State) : Host.Outcome State Fault Refusal :=
  .next (if !(s.isLocal (sectorPa sector)) then s else
    match s.loads.find? fun l => l.2.core == core && sectorOf l.2.pa == sector with
    | none => s
    | some (_, l) =>
      let asid := ((s.ctx? l.key.ctx).map (·.asid)).getD 0
      let (home, s) := s.homeSector sector
      s.fillAndBind core sector asid home)

/-- HOME_WRITE_BACK: dirty bytes of an L1 sector merge at their home, and the line is dropped where it is evicted (R155). -/
def execHomeWriteBack (core sector : Nat) (evict : Bool) (s : State) : Host.Outcome State Fault Refusal :=
  .next (if evict then s.evictL1 core sector else s.writeBack core sector)

/-- HBM_FILL: a sector enters its home slice, in the place of a victim that is written back first (22 R403, R404). -/
def execHbmFill (sector : Nat) (victim : Option Nat) (s : State) : Host.Outcome State Fault Refusal :=
  .next (let s := match victim with
      | some v => s.evictHome v
      | none => s
    if inHbm (128 * sector) then (s.homeGet sector).2 else s)

end Sys2Proof.Machine
end

