-- ==== Sys2Proof/Machine/Scratch.lean ====
section
/-! DEFINITION. Scratch and its full-empty bits (10 R213 to R222), with peer scratch (14 R293): accesses, waits and their retries,
scratch atomics, and futures kept in scratch. -/

namespace Sys2Proof.Machine

/-! ## Granules -/

/-- The granules of a team whose F bit is set, ascending. -/
def insertNat : List Nat → Nat → List Nat
  | [], x => [x]
  | y :: r, x => if x < y then x :: y :: r else if x = y then y :: r else y :: insertNat r x

def Team.hasF (t : Team) (g : Nat) : Bool := t.fbits.contains g
def Team.withF (t : Team) (g : Nat) (b : Bool) : Team :=
  { t with fbits := if b then insertNat t.fbits g else t.fbits.filter (· != g) }

/-- A scratch address: the team that holds it, by context and slot, and the offset. -/
structure ScrAddr where
  ctx : Nat
  tslot : Nat
  off : Nat
  deriving DecidableEq, Repr

/-- The live team of a rank in a thread's cluster (R214, 14 R293). -/
def State.peerTeam (s : State) (k : Key) (rank : Nat) : Option (Nat × Nat) :=
  match s.team? k.ctx k.tslot with
  | none => none
  | some me => s.ctxs.findSome? fun c => (c.2.teams.find? fun t =>
      t.2.launch == me.launch && t.2.cluster == me.cluster && t.2.rank == rank && !t.2.live.isEmpty).map fun t => (c.1, t.1)

/-- The checks of a scratch access of `n` bytes (R214): the address, or the cause. DEDUCED (log 85): a team with an allocation of 0
raises 0x050 on every access, a misaligned one included. -/
def State.scrAddr (s : State) (k : Key) (peer : Option Nat) (e : Word) (n : Nat) : ScrAddr ⊕ Nat :=
  let home := match peer with
    | none => some (k.ctx, k.tslot)
    | some r => s.peerTeam k r
  match home with
  | none => .inr 0x052
  | some (c, t) =>
    let size := ((s.team? c t).map (·.scrSize)).getD 0
    if size = 0 then .inr 0x050
    else if e.toNat % n ≠ 0 then .inr 0x051
    else if e.toNat + n > size then .inr 0x050
    else .inl ⟨c, t, e.toNat⟩

/-- The bytes at a scratch address. -/
def State.scrRead (s : State) (a : ScrAddr) (n : Nat) : Nat := mreadN (((s.team? a.ctx a.tslot).map (·.scratch)).getD []) a.off n
def State.scrWrite (s : State) (a : ScrAddr) (n v : Nat) : State :=
  s.modTeam a.ctx a.tslot fun t => { t with scratch := mwriteN t.scratch a.off n v }
def State.scrF (s : State) (a : ScrAddr) : Bool := (s.team? a.ctx a.tslot).any fun t => t.hasF (a.off / 16)

/-- The register writes of a scratch load of `n` bytes; a quad writes its four registers (R218). -/
def scrRegs (n : Nat) (sx : Bool) (d : Option Nat) (v : Nat) : List (Nat × Word) :=
  match d with
  | none => []
  | some r =>
    if n = 16 then (List.range 4).map fun j => (r + j, BitVec.ofNat 32 (v / 2 ^ (32 * j))) else loadRegs n sx (some r) v

/-! ## Setting F and the retries of waiting loads (R216) -/

/-- Whether a group of a core still holds a thread. -/
def State.inGroup (s : State) (k : Key) : Bool :=
  (s.ctx? k.ctx).any fun c => (s.core c.core).groups.any fun g => g.2.ctx == k.ctx && g.2.members.contains (k.tslot, k.tid)

/-- Whether a thread still waits on an F bit. -/
def State.waitsF (s : State) (k : Key) : Bool := (s.thread? k).any fun th => match th.run with
  | .waiting (.feBit _ _) => true
  | _ => false

/-- A load completes at its granule: its value is on its way, and a take clears F. -/
def State.feLoad (s : State) (k : Key) (a : ScrAddr) (n : Nat) (sx take : Bool) (d : Option Nat) : State :=
  let v := s.scrRead a n
  let s := if take then s.modTeam a.ctx a.tslot fun t => t.withF (a.off / 16) false else s
  s.deferRegs k (scrRegs n sx d v) 2

/-- Retry the waits on a granule in the order in which they began, while F is set. -/
def State.retryF (s : State) (c t g : Nat) : State :=
  s.feWaits.foldl (fun s w =>
    if !(w.ctx == c && w.tslot == t && w.granule == g) then s
    else if !(s.waitsF w.key) then { s with feWaits := s.feWaits.filter (· != w) }
    else if !(s.scrF ⟨c, t, 16 * g⟩) then s
    else
      let s := { s with feWaits := s.feWaits.filter (· != w) }
      let s := s.feLoad w.key ⟨c, t, w.off⟩ w.width w.sx w.take w.dst
      let held := s.inGroup w.key
      s.modThread w.key fun th => { th.wake held with pc := w.after, repidx := w.rep }) s

/-- Set the F bit of a granule. -/
def State.setF (s : State) (c t g : Nat) : State := (s.modTeam c t fun x => x.withF g true).retryF c t g

/-- An engine delivery: 16 bytes, then F (R190, R216). -/
def State.deliverGranule (s : State) (a : ScrAddr) (v : BitVec 128) : State :=
  (s.scrWrite a 16 v.toNat).setF a.ctx a.tslot (a.off / 16)

/-! ## Loads and stores (R217, R218) -/

/-- How a member goes on after a word that it completes now or later: its PC and REPIDX. -/
def State.goesOn (s : State) (i : Instr) (th : Thread) : PC × BitVec 6 :=
  let st := s.site
  let after := afterWord st.h st.count st.wi (insWords i)
  match st.rep with
  | none => (after, th.repidx)
  | some r => if th.repidx.toNat + 1 ≥ r.n then (after, 0) else (⟨st.h, 1⟩, th.repidx + 1)

/-- The information word of a scratch trap: the rank of a peer access (12 R271). -/
def rankInfo (peer : Option Nat) : Word := BitVec.ofNat 32 (peer.getD 0)

/-- A scratch load by one member: mode 0 plain, 1 wait, 2 take. -/
def State.scrLoad (s : State) (i : Instr) (k : Key) (th : Thread) (peer : Option Nat) (e : Word) (n : Nat) (sx : Bool)
    (mode : BitVec 2) (d : Option Nat) : State × Out :=
  match s.scrAddr k peer e n with
  | .inr c => (s, .trap c (rankInfo peer) (e.setWidth 64))
  | .inl a =>
    if mode = 0 ∨ s.scrF a then (s.feLoad k a n sx (mode == 2) d, .next)
    else
      let (after, rep) := s.goesOn i th
      ({ s with feWaits := s.feWaits ++ [⟨k, a.ctx, a.tslot, a.off / 16, a.off, n, sx, mode == 2, d, after, rep⟩] },
        .lag (.feBit peer (a.off / 16)))

/-- A scratch store by one member. -/
def State.scrStore (s : State) (k : Key) (peer : Option Nat) (e : Word) (n : Nat) (fill : Bool) (v : Nat) : State × Out :=
  match s.scrAddr k peer e n with
  | .inr c => (s, .trap c (rankInfo peer) (e.setWidth 64))
  | .inl a =>
    let s := s.scrWrite a n v
    (if fill then s.setF a.ctx a.tslot (a.off / 16) else s, .next)

/-- Issue a scratch word: no access begins while an acquiring atomic of its thread is in flight, and a release waits for the
thread's loads and atomics (07 R166, 08 R179). -/
def State.issueScr (s : State) (i : Instr) (release : Bool) (f : State → Key → Team → Thread → State × Out) : State :=
  s.holdIf i (fun s k _ => s.acquiring k || (release && s.inFlight k)) fun s => s.issueEach i f

/-- The offset of a one-word form: a select plus a signed offset in words. -/
def ldsOff {n : Nat} (rep : Option Rep) (th : Thread) (a : Sel) (off : BitVec n) : Word := rd32 rep th .a a + 4 * off.signExtend 32

def execLds (d : Dst) (a : Sel) (mode : BitVec 2) (off : BitVec 6) (s : State) : Host.Outcome State Fault Refusal :=
  let i : Instr := .lds d a mode off
  .next (s.issueScr i false fun s k _ th =>
    s.scrLoad i k th none (ldsOff s.site.rep th a off) 4 false mode (dstIdx s th d 1))

def execSts (rs : BitVec 7) (fill : Bool) (a : Sel) (off : BitVec 8) (s : State) : Host.Outcome State Fault Refusal :=
  .next (s.issueScr (.sts rs fill a off) fill fun s k _ th =>
    s.scrStore k none (ldsOff s.site.rep th a off) 4 fill (rdS s.site.rep th rs 1).toNat)

/-- The width in bytes of LDSX and STSX (R218). -/
def scrBytes (w qw : BitVec 2) : Nat := if qw = 1 then 16 else accBytes w

/-- The offset of LDSX and STSX. -/
def ldsxOff (rep : Option Rep) (th : Thread) (a b : Sel) (imm : BitVec 12) : Word :=
  rd32 rep th .a a + rd32 rep th .b b + imm.signExtend 32

/-- A register quad as 128 bits. -/
def rdQuad (th : Thread) (r : Nat) : Nat :=
  (th.get r).toNat + 2 ^ 32 * (th.get (r + 1)).toNat + 2 ^ 64 * (th.get (r + 2)).toNat + 2 ^ 96 * (th.get (r + 3)).toNat

/-- The data of STSX. -/
def stsData (rep : Option Rep) (th : Thread) (rs : BitVec 7) (w qw : BitVec 2) : Nat :=
  if qw = 1 then rdQuad th (dstReg rep th rs 4) else (rdS rep th rs (wide w)).toNat

/-- The peer that P and RANK name. -/
def peerOf (peer : Bool) (rank : BitVec 4) : Option Nat := if peer then some rank.toNat else none

def execLdsx (d : Dst) (a b : Sel) (peer : Bool) (rank : BitVec 4) (mode : BitVec 2) (sx : Bool) (w qw : BitVec 2)
    (imm : BitVec 12) (s : State) : Host.Outcome State Fault Refusal :=
  let i : Instr := .ldsx d a b peer rank mode sx w qw imm
  .next (s.issueScr i false fun s k _ th =>
    s.scrLoad i k th (peerOf peer rank) (ldsxOff s.site.rep th a b imm) (scrBytes w qw) sx mode (dstIdx s th d (scrWords qw w)))

def execStsx (rs : BitVec 7) (a b : Sel) (peer : Bool) (rank : BitVec 4) (mode w qw : BitVec 2) (imm : BitVec 12) (s : State) :
    Host.Outcome State Fault Refusal :=
  .next (s.issueScr (.stsx rs a b peer rank mode w qw imm) (mode == 1) fun s k _ th =>
    s.scrStore k (peerOf peer rank) (ldsxOff s.site.rep th a b imm) (scrBytes w qw) (mode == 1) (stsData s.site.rep th rs w qw))

/-! ## Scratch atomics (R219) -/

def execAtoms (d : Dst) (a b c : Sel) (w : BitVec 2) (scope : BitVec 3) (ord : BitVec 2) (op : BitVec 4) (peer : Bool)
    (rank : BitVec 4) (s : State) : Host.Outcome State Fault Refusal :=
  .next (s.issueScr (.atoms d a b c w scope ord op peer rank) (ord != 0) fun s k _ th =>
    let n := accBytes w
    let e := rd32 s.site.rep th .a a
    match s.scrAddr k (peerOf peer rank) e n with
    | .inr q => (s, .trap q (rankInfo (peerOf peer rank)) (e.setWidth 64))
    | .inl x =>
      let old := s.scrRead x n
      let s := match atomNew op.toNat n old (rdW s.site.rep th .b b (wide w)).toNat (rdW s.site.rep th .c c (wide w)).toNat with
        | some v => s.scrWrite x n v
        | none => s
      (s.deferRegs k (loadRegs n false (if op = 1 then none else dstIdx s th d (wide w)) old) 4, .next))

/-! ## F bits (R220, R221) -/

def execFeset (clr : Bool) (a b : Sel) (s : State) : Host.Outcome State Fault Refusal :=
  .next (s.issueScr (.feset clr a b) (!clr) fun s k t th =>
    let e := rd32 s.site.rep th .a a
    let n := (rd32 s.site.rep th .b b).toNat
    if n = 0 then (s, .next)
    else if t.scrSize = 0 then (s, .trap 0x050 0 (e.setWidth 64))
    else if e.toNat % 16 ≠ 0 then (s, .trap 0x051 0 (e.setWidth 64))
    else if e.toNat + 16 * n > t.scrSize then (s, .trap 0x050 0 (e.setWidth 64))
    else ((upTo (e.toNat / 16) n).foldl (fun s g =>
      if clr then s.modTeam k.ctx k.tslot fun t => t.withF g false else s.setF k.ctx k.tslot g) s, .next))

def execFetest (d : Dst) (a : Sel) (s : State) : Host.Outcome State Fault Refusal :=
  .next (s.issueScr (.fetest d a) false fun s k t th =>
    let e := rd32 s.site.rep th .a a
    match s.scrAddr k none e 16 with
    | .inr q => (s, .trap q 0 (e.setWidth 64))
    | .inl x =>
      let v := (List.range 32).foldl (fun acc i => if t.hasF (x.off / 16 + i) then acc + 2 ^ i else acc) 0
      (s.deferRegs k (dst32 s.site.rep th d (BitVec.ofNat 32 v)) 2, .next))

/-! ## Futures in scratch (R222) -/

def execStf (rs : BitVec 7) (a : Sel) (off : BitVec 8) (s : State) : Host.Outcome State Fault Refusal :=
  .next (s.issueScr (.stf rs a off) false fun s k _ th =>
    let r := dstReg s.site.rep th rs 1
    match s.scrStore k none (ldsOff s.site.rep th a off) 4 false (th.get r).toNat with
    | (s, .next) =>
      (match th.pendingOn r with
        | some (.future slot gen) => s.modCtx k.ctx fun c => { c with
            futures := tmod c.futures slot fun f => if f.gen = gen then { f with retain := true } else f }
        | _ => s, .next)
    | r => r)

def execLdf (d : Dst) (a : Sel) (off : BitVec 8) (s : State) : Host.Outcome State Fault Refusal :=
  .next (s.issueScr (.ldf d a off) false fun s k _ th =>
    let e := ldsOff s.site.rep th a off
    match s.scrAddr k none e 4 with
    | .inr q => (s, .trap q 0 (e.setWidth 64))
    | .inl x =>
      let v := BitVec.ofNat 32 (s.scrRead x 4)
      match (s.ctx? k.ctx).bind fun c => c.named k.tslot v with
      | none => (s.modThread k fun t => t.writes (dst32 s.site.rep th d 0x70000000#32), .next)
      | some (slot, f) =>
        if f.st = .done then (s.modThread k fun t => t.writes (dst32 s.site.rep th d f.word), .next)
        else (s.modThread k fun t =>
          let t := t.writes (dst32 s.site.rep th d v)
          let r := dstReg s.site.rep th d.r 1
          if d.nw || r == 0 then t else { t with pend := tset t.pend r (.future slot f.gen) }, .next))

end Sys2Proof.Machine
end

