-- ==== Sys2Proof/Machine/Typed.lean ====
section
/-! DEFINITION. The typed buffers of a core (10 R223 to R227): ownership, hand-over, and thread accesses. Buffer 0 is ABUF, 1 WBUF, 2
CBUF. -/

namespace Sys2Proof.Machine

/-- Data bytes of a buffer (R223). -/
def bufSize (b : Nat) : Nat := if b = 1 then 524288 else 262144

def Core.buf (c : Core) (b : Nat) : Mem := if b = 0 then c.abuf else if b = 1 then c.wbuf else c.cbuf
def Core.exps (c : Core) (b : Nat) : Mem := if b = 0 then c.aexp else if b = 1 then c.wexp else []
def Core.owner (c : Core) (b : Nat) : Option Nat := if b = 0 then c.aOwner else if b = 1 then c.wOwner else c.cOwner
def Core.setBuf (c : Core) (b : Nat) (data exps : Mem) : Core :=
  if b = 0 then { c with abuf := data, aexp := exps } else if b = 1 then { c with wbuf := data, wexp := exps } else { c with cbuf := data }
def Core.setOwner (c : Core) (b : Nat) (o : Option Nat) : Core :=
  if b = 0 then { c with aOwner := o } else if b = 1 then { c with wOwner := o } else { c with cOwner := o }
def Ctx.typedImage (c : Ctx) (b : Nat) : Option TypedImage := if b = 0 then c.abuf else if b = 1 then c.wbuf else c.cbuf
def Ctx.setTyped (c : Ctx) (b : Nat) (i : Option TypedImage) : Ctx :=
  if b = 0 then { c with abuf := i } else if b = 1 then { c with wbuf := i } else { c with cbuf := i }

/-- The buffer that a COPY space names, if it names one: 2 ABUF, 3 WBUF, 4 CBUF (R228). -/
def spaceBuf (sp : BitVec 3) : Option Nat := if sp = 2 then some 0 else if sp = 3 then some 1 else if sp = 4 then some 2 else none

/-- Whether running engine work uses a buffer (R226): a COPY that has passed its checks, or a matrix operation that has begun. -/
def EngOp.uses (o : EngOp) (b : Nat) : Bool :=
  o.result.isNone && match o.work with
  | .copy c => c.checked && (spaceBuf c.dsp == some b || spaceBuf c.ssp == some b)
  | .mat m => m.begun
  | _ => false

/-- Whether a buffer cannot pass to a context now: engine work of another owner uses it. -/
def State.typedBusy (s : State) (core ctx b : Nat) : Bool :=
  match (s.core core).owner b with
  | none => false
  | some o => o != ctx && s.ops.any fun e => e.2.key.ctx == o && e.2.uses b

/-- Pass a buffer to a context: the owner's contents go to its image, and the new owner's come from its own, or are zero. -/
def State.ownTyped (s : State) (core ctx b : Nat) : State :=
  let c := s.core core
  if c.owner b = some ctx then s else
  let s := match c.owner b with
    | some o => s.modCtx o fun x => x.setTyped b (some ⟨c.buf b, c.exps b⟩)
    | none => s
  let i := (((s.ctx? ctx).bind fun x => x.typedImage b)).getD ⟨[], []⟩
  let s := s.modCtx ctx fun x => x.setTyped b none
  s.modCore core fun c => (c.setBuf b i.data i.exps).setOwner b (some ctx)

/-- Give up every buffer that a context owns on a core: its contents go to its image. -/
def State.leaveTyped (s : State) (core ctx : Nat) : State :=
  (List.range 3).foldl (fun s b =>
    let c := s.core core
    if c.owner b ≠ some ctx then s else
    (s.modCtx ctx fun x => x.setTyped b (some ⟨c.buf b, c.exps b⟩)).modCore core fun c => (c.setBuf b [] []).setOwner b none) s

/-- TYPED_BUFFER_HANDOVER: a buffer passes to a declared context of the core when no engine work of its owner uses it (R226). -/
def execTypedBufferHandover (core ctx buf : Nat) (s : State) : Host.Outcome State Fault Refusal :=
  .next (match s.ctx? ctx with
    | some c => if c.typed && c.core == core && decide (buf < 3) && !(s.typedBusy core ctx buf) then s.ownTyped core ctx buf else s
    | none => s)

/-! ## LDT and STT (R227) -/

/-- The first failing check of a typed access at an offset. -/
def typedFault (declared : Bool) (buf : BitVec 2) (store xs : Bool) (e : Nat) : Option Nat :=
  let size := bufSize buf.toNat
  if !declared then some 0x063
  else if store && buf == 1 then some 0x062
  else if e % (if xs then 128 else 4) ≠ 0 then some 0x061
  else if (if xs then e ≥ size else e + 4 > size) then some 0x060
  else none

/-- The offset of a typed access. -/
def ldtOff (rep : Option Rep) (th : Thread) (a : Sel) (off : BitVec 5) : Word := rd32 rep th .a a + 4 * off.setWidth 32

/-- Issue a typed access: it stalls while engine work of another context uses the buffer, and takes the buffer over. -/
def State.issueTyped (s : State) (i : Instr) (a : Sel) (buf : BitVec 2) (off : BitVec 5) (store xs : Bool)
    (f : State → Key → Ctx → Thread → Nat → State) : State :=
  s.holdIf i (fun s k _ => s.acquiring k || (s.ctx? k.ctx).any fun c => c.typed && s.typedBusy c.core k.ctx buf.toNat) fun s =>
    s.issueEach i fun s k _ th =>
      match s.ctx? k.ctx with
      | none => (s, .next)
      | some c =>
        let e := ldtOff s.site.rep th a off
        match typedFault c.typed buf store xs e.toNat with
        | some q => (s, .trap q 0 (e.setWidth 64))
        | none => (f (s.ownTyped c.core k.ctx buf.toNat) k c th e.toNat, .next)

/-- The contents of the typed buffers of a context. -/
def State.buffers (s : State) (ctx core : Nat) : Buffers :=
  let c := s.core core
  let at_ := fun b => if c.owner b = some ctx then (⟨c.buf b, c.exps b⟩ : TypedImage)
    else ((s.ctx? ctx).bind fun x => x.typedImage b).getD ⟨[], []⟩
  ⟨at_ 0, at_ 1, (at_ 2).data⟩

/-- A matrix operation that may use contents of the buffers, of which some bytes of CBUF have just been stored. -/
def Work.noted (w : Work) (b : Buffers) (stored : Nat × Nat) : Work :=
  match w with
  | .mat m => .mat { m with was := m.was ++ [b], wrote := m.wrote ++ [stored] }
  | w => w

/-- The matrix operations of a context in flight, but for one, may use what its buffers now hold (11 R255). -/
def State.bufNoted (s : State) (ctx core : Nat) (but : Option Nat) (stored : Nat × Nat) : State :=
  let b := s.buffers ctx core
  { s with ops := tmap s.ops fun id e => if e.key.ctx = ctx ∧ but ≠ some id then { e with work := e.work.noted b stored } else e }

/-- A matrix operation with the byte at an address of its earlier CBUF contents replaced. -/
def Work.settle (w : Work) (a : Nat) (b : Byte) : Work :=
  match w with
  | .mat m => .mat { m with before := m.before.map fun x => mwrite x a b }
  | w => w

/-- The earlier contents of CBUF that an LDT may still read: those from before the plane writes of operations in flight (11 R255). -/
def State.racing (s : State) (ctx : Nat) : List Mem :=
  s.ops.flatMap fun e =>
    match e.2.work with
    | .mat m => if e.2.key.ctx = ctx then m.before else []
    | _ => []

/-- A byte of CBUF is what it now is for every later reader: it has been read so, or written by a thread. -/
def State.settleByte (s : State) (ctx a : Nat) (b : Byte) : State :=
  { s with ops := tmap s.ops fun _ e => if e.key.ctx = ctx then { e with work := e.work.settle a b } else e }

/-- A byte of a typed buffer as an LDT or a COPY reads it: of CBUF, the present value or one from before a matrix operation in flight, freely
(11 R255). -/
def State.ldtByte (s : State) (ctx buf : Nat) (now : Mem) (a : Nat) : Byte × State :=
  let v := mread now a
  let olds := if buf = 2 then (s.racing ctx).filter fun m => mread m a != v else []
  if olds.isEmpty then (v, s) else
  let (k, s) := s.drawNat
  match olds[k % (olds.length + 1)]? with
  | some m => (mread m a, s)
  | none => (v, s.settleByte ctx a v)

/-- Bytes of a typed buffer as a COPY reads them. -/
def State.ldtBytes (s : State) (ctx buf : Nat) (now : Mem) (a n : Nat) : List Byte × State :=
  (List.range n).foldl (fun r k =>
    let (b, s) := r.2.ldtByte ctx buf now (a + k)
    (r.1 ++ [b], s)) ([], s)

/-- Four bytes of a typed buffer as an LDT reads them. -/
def State.ldtWord (s : State) (ctx buf : Nat) (now : Mem) (e : Nat) : Word × State :=
  let (b0, s) := s.ldtByte ctx buf now e
  let (b1, s) := s.ldtByte ctx buf now (e + 1)
  let (b2, s) := s.ldtByte ctx buf now (e + 2)
  let (b3, s) := s.ldtByte ctx buf now (e + 3)
  (b3 ++ b2 ++ b1 ++ b0, s)

def execLdt (d : Dst) (a : Sel) (buf : BitVec 2) (xs : Bool) (off : BitVec 5) (s : State) : Host.Outcome State Fault Refusal :=
  .next (s.issueTyped (.ldt d a buf xs off) a buf off false xs fun s k c th e =>
    let x := s.core c.core
    let (v, s) := if xs then (BitVec.ofNat 32 (mreadN (x.exps buf.toNat) (e / 32) 4), s)
      else s.ldtWord k.ctx buf.toNat (x.buf buf.toNat) e
    s.deferRegs k (dst32 s.site.rep th d v) 5)

def execStt (rs : BitVec 7) (a : Sel) (buf : BitVec 2) (xs : Bool) (off : BitVec 5) (s : State) :
    Host.Outcome State Fault Refusal :=
  .next (s.issueTyped (.stt rs a buf xs off) a buf off true xs fun s k c th e =>
    let v := (rdS s.site.rep th rs 1).toNat
    let s := if xs || buf != 2 then s else
      (leBytes 4 v).zipIdx.foldl (fun s b => s.settleByte k.ctx (e + b.2) b.1) s
    (s.modCore c.core fun x =>
      if xs then x.setBuf buf.toNat (x.buf buf.toNat) (mwriteN (x.exps buf.toNat) (e / 32) 4 v)
      else x.setBuf buf.toNat (mwriteN (x.buf buf.toNat) e 4 v) (x.exps buf.toNat)).bufNoted k.ctx c.core none
        (if xs || buf != 2 then (0, 0) else (e, 4)))

end Sys2Proof.Machine
end

