-- ==== Sys2Proof/Machine/EngineMem.lean ====
section
/-! DEFINITION. How engine operations reach memory (08 R188 to R190, 20 R373): global bytes by sector with the level of the issuer,
scratch granules, and the typed buffers of the issuing context wherever it is (10 R226). -/

namespace Sys2Proof.Machine

/-- What an engine access gives: its bytes, or why there are none (yet). -/
inductive Got where
  | bytes (b : List Byte)
  | fault
  | absent
  | bad
  | wait
  deriving DecidableEq, Repr

/-- The core, the address space and the snoop domain of an operation. -/
def State.opCore (s : State) (o : EngOp) : Nat := ((s.ctx? o.key.ctx).map (·.core)).getD o.core
def State.opAsid (s : State) (o : EngOp) : Nat := ((s.ctx? o.key.ctx).map (·.asid)).getD 0

/-- The pieces of a range that lie in one sector each: first address and length. -/
def pieces (va : Pair) (n : Nat) : List (Nat × Nat) :=
  if n = 0 then [] else
  (upTo (va.toNat / 128) ((va.toNat + n - 1) / 128 + 1 - va.toNat / 128)).map fun sec =>
    let lo := max va.toNat (128 * sec)
    (lo, min (va.toNat + n) (128 * (sec + 1)) - lo)

/-- Translate every piece of a range, or say why one cannot be accessed. -/
def State.engMap (s : State) (o : EngOp) (va : Pair) (n : Nat) (acc : Acc) : (List (Pair × Nat) ⊕ Got) × State :=
  (pieces va n).foldl (fun (r : (List (Pair × Nat) ⊕ Got) × State) p =>
    match r.1 with
    | .inr _ => r
    | .inl l =>
      let a := BitVec.ofNat 64 p.1
      if p.1 ≥ 2 ^ 64 ∨ canonical a = false then (.inr .bad, r.2) else
      match r.2.engineTr (r.2.opCore o) (r.2.opAsid o) a acc o.sup with
      | (none, s) => (.inr .fault, s)
      | (some pa, s) => if s.isLocal pa || s.present (devOf pa) then (.inl (l ++ [(pa, p.2)]), s) else (.inr .absent, s))
    (.inl [], s)

/-- Some bytes of a sector. -/
def secSlice (d : SectorData) (k n : Nat) : List Byte := leBytes n (secGet d k n)

/-- The bytes of one piece: a sector of another device is asked for, once no earlier access of the thread to its line is under way
(08 R188, 25 R436), and arrives in the operation's buffer. -/
def State.engPiece (s : State) (id : Nat) (o : EngOp) (pa : Pair) (n : Nat) : Got × State :=
  let sec := sectorOf pa
  let core := s.opCore o
  if s.isLocal pa then
    if inHbm (localOf pa) then
      let (d, s) := s.homeSector sec
      (.bytes (secSlice (s.overlay core sec d) (pa.toNat % 128) n), s)
    else (.bytes (List.replicate n 0), s.setUnbk)
  else match tget o.buffer sec with
    | some d => (.bytes (secSlice (s.overlay core sec d) (pa.toNat % 128) n), s)
    | none =>
      let asked := s.remotes.any fun r => sectorOf r.2.pa == sec &&
        match r.2.kind with
        | .read op _ => op == id
        | _ => false
      if asked || s.blockBusy o.key core pa then (.wait, s)
      else (.wait, s.send 1 (sectorPa sec) 128 [] ⟨sectorPa sec, s.opAsid o, core, .read id false, 0⟩)

/-- Read global bytes for an operation. -/
def State.engRead (s : State) (id : Nat) (o : EngOp) (va : Pair) (n : Nat) : Got × State :=
  match s.engMap o va n .load with
  | (.inr g, s) => (g, s)
  | (.inl l, s) => l.foldl (fun (r : Got × State) p =>
      match r.1 with
      | .bytes b =>
        (match r.2.engPiece id o p.1 p.2 with
          | (.bytes b', s) => (.bytes (b ++ b'), s)
          | x => x)
      | _ => r) (.bytes [], s)

/-- The copies of the issuing domain leave a line of another device; whether a write of an operation to it must wait for an earlier
access of its thread (25 R436). -/
def State.engHeld (s : State) (o : EngOp) (pa : Pair) : Bool × State :=
  if s.isLocal pa then (false, s) else
  let s := s.purge (s.domainOf o.key) (sectorOf pa)
  (s.blockBusy o.key (s.opCore o) pa, s)

/-- Where an operation may write a range now. -/
def State.engInto (s : State) (o : EngOp) (va : Pair) (n : Nat) : (List (Pair × Nat) ⊕ Got) × State :=
  match s.engMap o va n .store with
  | (.inr g, s) => (.inr g, s)
  | (.inl l, s) =>
    let (held, s) := l.foldl (fun (r : Bool × State) p =>
      let (h, s) := r.2.engHeld o p.1
      (r.1 || h, s)) (false, s)
    (if held then .inr .wait else .inl l, s)

/-- Write the pieces of a range: the copies of the issuing domain leave first, then the bytes reach their homes. -/
def State.engPut (s : State) (id : Nat) (o : EngOp) (l : List (Pair × Nat)) (bytes : List Byte) : State :=
  (l.foldl (fun (r : State × List Byte) p =>
    let (pa, n) := p
    let s := r.1.purge (r.1.domainOf o.key) (sectorOf pa)
    let v := leNat (r.2.take n)
    let s :=
      if s.isLocal pa then
        (if inHbm (localOf pa) then s.homeWrite (localOf pa) n v else s.setUnbk)
      else s.remoteWrite (s.opCore o) (s.opAsid o) (sectorOf pa) (maskOf (pa.toNat % 128) n) (secPut (pa.toNat % 128) n v) none (some id)
    (s, r.2.drop n)) (s, bytes)).1

/-! ## Typed buffers for operations (10 R226) -/

/-- Whether an operation must wait before it uses a buffer. -/
def State.opTypedWait (s : State) (o : EngOp) (b : Nat) : Bool :=
  match s.ctx? o.key.ctx with
  | some c => c.place == .active && s.typedBusy c.core o.key.ctx b
  | none => false

/-- The active context of an operation takes the buffer over; one that is switched out keeps to what it owns or to its image. -/
def State.opTyped (s : State) (o : EngOp) (b : Nat) : State :=
  match s.ctx? o.key.ctx with
  | some c => if c.place = .active then s.ownTyped c.core o.key.ctx b else s
  | none => s

/-- The contents of a buffer as an operation sees them. -/
def State.opBuf (s : State) (o : EngOp) (b : Nat) : TypedImage :=
  let c := s.core (s.opCore o)
  if c.owner b = some o.key.ctx then ⟨c.buf b, c.exps b⟩
  else ((s.ctx? o.key.ctx).bind fun x => x.typedImage b).getD ⟨[], []⟩

/-- Put new contents into a buffer. -/
def State.putBuf (s : State) (o : EngOp) (b : Nat) (i : TypedImage) : State :=
  let g := s.opCore o
  if (s.core g).owner b = some o.key.ctx then s.modCore g fun c => c.setBuf b i.data i.exps
  else s.modCtx o.key.ctx fun x => x.setTyped b (some i)

/-- Sparse bytes each of which is that of either memory, freely; `n` is no less than the number of their entries. -/
def State.mixMem : Nat → State → Mem → Mem → Mem × State
  | 0, s, _, now => (now, s)
  | _ + 1, s, [], [] => ([], s)
  | n + 1, s, e :: old, [] =>
    let (k, s) := s.drawBool
    let (r, s) := State.mixMem n s old []
    (if k then e :: r else r, s)
  | n + 1, s, [], e :: now =>
    let (k, s) := s.drawBool
    let (r, s) := State.mixMem n s [] now
    (if k then r else e :: r, s)
  | n + 1, s, (a, x) :: old, (b, y) :: now =>
    if a = b then
      if x = y then
        let (r, s) := State.mixMem n s old now
        ((b, y) :: r, s)
      else
        let (k, s) := s.drawBool
        let (r, s) := State.mixMem n s old now
        ((b, if k then x else y) :: r, s)
    else if a < b then
      let (k, s) := s.drawBool
      let (r, s) := State.mixMem n s old ((b, y) :: now)
      (if k then (a, x) :: r else r, s)
    else
      let (k, s) := s.drawBool
      let (r, s) := State.mixMem n s ((a, x) :: old) now
      (if k then r else (b, y) :: r, s)

/-- What a reader sees of memory that has been written since: each byte its present value or one of earlier contents, freely. -/
def State.sees (s : State) (now : Mem) : List Mem → Mem × State
  | [] => (now, s)
  | w :: ws =>
    let (m, s) := if w = now then (now, s) else s.mixMem (w.length + now.length) w now
    s.sees m ws

/-- `n` bytes of sparse memory as a list. -/
def mreadL (m : Mem) (a n : Nat) : List Byte := (List.range n).map fun k => mread m (a + k)

/-! ## Scratch for operations -/

/-- The scratch of the issuing team. -/
def EngOp.scr (o : EngOp) (off : Nat) : ScrAddr := ⟨o.key.ctx, o.key.tslot, off⟩

/-- Write bytes into scratch, and set the F bits of granules first to last, ascending (R190). -/
def State.opScratch (s : State) (o : EngOp) (off : Nat) (bytes : List Byte) (first last : Nat) : State :=
  let s := s.modTeam o.key.ctx o.key.tslot fun t => { t with scratch := mwriteL t.scratch off bytes }
  (upTo first (last - first)).foldl (fun s g => s.setF o.key.ctx o.key.tslot g) s

/-- The scratch size of the issuing team. -/
def State.opScrSize (s : State) (o : EngOp) : Nat := ((s.team? o.key.ctx o.key.tslot).map (·.scrSize)).getD 0

/-- The number of clamped elements that an operation has counted so far. -/
def State.opSat (s : State) (id n : Nat) : State := { s with ops := tmod s.ops id fun o => { o with sat := o.sat + n } }

/-- Forget the sectors read for a unit that is done. -/
def State.opClear (s : State) (id : Nat) : State := { s with ops := tmod s.ops id fun o => { o with buffer := [] } }

end Sys2Proof.Machine
end

