-- ==== Sys2Proof/Machine/Copy.lean ====
section
/-! DEFINITION. COPY (10 R228 to R231): its checks, its units, sideband carriage, and its completion. -/

namespace Sys2Proof.Machine

/-- Whether a mode accepts a pair of spaces (R229): 0 global, 1 scratch, 2 ABUF, 3 WBUF, 4 CBUF. -/
def copyPair (mode : BitVec 2) (dsp ssp : BitVec 3) : Bool :=
  match mode.toNat with
  | 0 => (ssp == 0 || ssp == 1 || ssp == 2 || ssp == 4) && decide (dsp.toNat < 4)
  | 1 => (ssp == 0 || ssp == 1) && (dsp == 1 || dsp == 2 || dsp == 3)
  | 2 => (ssp == 0 || ssp == 1 || ssp == 2) && (dsp == 0 || dsp == 1)
  | _ => (ssp == 0 || ssp == 1 || ssp == 4) && (dsp == 0 || dsp == 1 || dsp == 2)

/-- The maximum length of a mode. -/
def copyMax (mode : BitVec 2) : Nat := if mode = 0 then 1048576 else 262144

/-- The alignment of source and destination. -/
def copyAlign (mode : BitVec 2) : Nat × Nat := if mode = 1 then (8, 16) else if mode = 2 then (16, 8) else (16, 16)

/-- The bytes of a destination element of pack. -/
def packBytes (pfmt : BitVec 2) : Nat := if pfmt = 3 then 1 else 2

/-- The bytes of source and destination units of fixed size; 0 where a mask decides. -/
def CopyOp.srcUnit (c : CopyOp) : Nat := match c.mode.toNat with
  | 0 => 16
  | 1 => 0
  | 2 => 64 * accBytes c.w
  | _ => 256
def CopyOp.dstUnit (c : CopyOp) : Nat := match c.mode.toNat with
  | 0 => 16
  | 1 => 64 * accBytes c.w
  | 2 => 0
  | _ => 64 * packBytes c.pfmt

/-- A range check in a local space: whether it ends beyond the space (R231, reason 7). -/
def State.copyOutside (s : State) (o : EngOp) (sp : BitVec 3) (off : Pair) (n : Nat) : Bool :=
  match spaceBuf sp with
  | some b => decide (off.toNat + n > bufSize b)
  | none => sp == 1 && decide (off.toNat + n > s.opScrSize o)

/-- The block size of the window that a sector's sideband belongs to, as it is cached or would be filled; 0 without one. -/
def State.sideBlock (s : State) (local_ : Nat) : Nat :=
  match tget s.pkg.l2 (local_ / 128) with
  | some h => (h.tag.map fun t => blockSize t.2).getD 0
  | none => ((s.windowAt (local_ / 128 * 128)).map fun w => blockSize w.2.fmt).getD 0

/-- The local sectors of a global range, as the page tables stand. -/
def State.localSectors (s : State) (o : EngOp) (va : Pair) (n : Nat) : List Nat :=
  (pieces va n).filterMap fun p =>
    match s.walk (dieOf (s.opCore o)) (s.opAsid o) (BitVec.ofNat 64 p.1) with
    | .leaf e l =>
      let pa := leafPa e l (BitVec.ofNat 64 p.1)
      if s.isLocal pa && inHbm (localOf pa) then some (localOf pa) else none
    | _ => none

/-- Whether a raw copy carries sidebands (R230). -/
def CopyOp.carries (c : CopyOp) : Bool := c.mode == 0 && ((c.ssp == 0 && (c.dsp == 2 || c.dsp == 3)) || (c.ssp == 2 && c.dsp == 0))

/-- Whether the carriage is misaligned for some window of the range (R231, reason 5). -/
def State.copyCarryBad (s : State) (o : EngOp) (c : CopyOp) : Bool :=
  c.carries && (s.localSectors o (if c.ssp = 0 then c.src else c.dst) (16 * c.len)).any fun a =>
    let b := s.sideBlock a
    b != 0 && (c.src.toNat % b != 0 || c.dst.toNat % b != 0)

/-- Whether a global range has a non-canonical end (R231, reason 8). -/
def copyBad (sp : BitVec 3) (va : Pair) (n : Nat) : Bool :=
  sp == 0 && (!(canonical va) || !(canonical (va + BitVec.ofNat 64 (n - 1))) || decide (va.toNat + n > 2 ^ 64))

/-- The checks made before anything is read, as an INVALID reason (R231). -/
def State.copyCheck (s : State) (o : EngOp) (c : CopyOp) : Option Nat :=
  let declared := (s.ctx? o.key.ctx).any (·.typed)
  let al := copyAlign c.mode
  let srcN := max 1 (c.srcUnit * c.len)
  let dstN := max 1 (c.dstUnit * c.len)
  if !(copyPair c.mode c.dsp c.ssp) then some 2
  else if !declared && ((spaceBuf c.dsp).isSome || (spaceBuf c.ssp).isSome) then some 6
  else if c.len = 0 ∨ c.len > copyMax c.mode then some 3
  else if c.src.toNat % al.1 ≠ 0 ∨ c.dst.toNat % al.2 ≠ 0 then some 1
  else if s.copyCarryBad o c then some 5
  else if copyBad c.ssp c.src srcN || copyBad c.dsp c.dst dstN then some 8
  else if s.copyOutside o c.ssp c.src srcN || s.copyOutside o c.dsp c.dst dstN then some 7
  else none

/-! ## Units -/

/-- Read bytes of a space; those of CBUF race with the matrix operations in flight (11 R239, R255). -/
def State.spaceRead (s : State) (id : Nat) (o : EngOp) (sp : BitVec 3) (a : Pair) (n : Nat) : Got × State :=
  match spaceBuf sp with
  | some b =>
    let (l, s) := s.ldtBytes o.key.ctx b (s.opBuf o b).data a.toNat n
    (.bytes l, s)
  | none => if sp = 1 then (.bytes (leBytes n (s.scrRead (o.scr a.toNat) n)), s) else s.engRead id o a n

/-- Source bytes that the copy itself has overwritten are the old or the new ones, freely (R229). -/
def State.mixOld (s : State) (old : Tab Byte) : Nat → List Byte → List Byte × State
  | _, [] => ([], s)
  | a, b :: bs =>
    let (b, s) := match tget old a with
      | none => (b, s)
      | some b0 =>
        if b0 = b then (b, s) else
        let (k, s) := s.drawBool
        (if k then b0 else b, s)
    let (r, s) := s.mixOld old (a + 1) bs
    (b :: r, s)

/-- Read bytes of the source space at an offset from its start. -/
def State.copyRead (s : State) (id : Nat) (o : EngOp) (c : CopyOp) (off n : Nat) : Got × State :=
  match s.spaceRead id o c.ssp (c.src + BitVec.ofNat 64 off) n with
  | (.bytes b, s) =>
    let (b, s) := s.mixOld c.old (c.src.toNat + off) b
    (.bytes b, s)
  | r => r

/-- The bytes that a unit is about to overwrite in the copy's own source space. -/
def State.copyOld (s : State) (id : Nat) (o : EngOp) (c : CopyOp) (n : Nat) : Tab Byte :=
  if c.dsp ≠ c.ssp then [] else
  let a := c.dst.toNat + c.out
  match (s.spaceRead id o c.dsp (BitVec.ofNat 64 a) n).1 with
  | .bytes b => ((upTo a n).zip b).foldl (fun t e => if (tget t e.1).isSome then t else tset t e.1 e.2) c.old
  | _ => c.old

/-- The sideband exponent of the block that holds a local address, if its sector is tagged. -/
def State.sideExp (s : State) (a : Nat) : Option Byte × State :=
  let (h, s) := s.homeGet (a / 128)
  (h.tag.map fun t => BitVec.ofNat 8 (h.side.toNat / 2 ^ (8 * (a % 128 / blockSize t.2))), s)

/-- Carriage from global memory into a typed buffer: the exponents of the source's blocks reach the segments of the unit. DESIGN CHOICE
(log 97): where a copy takes only a part of a block of SB8, the segments that its units touch receive the exponent; and a sector of
another device leaves the exponent store as it is. -/
def State.carryIn (s : State) (o : EngOp) (c : CopyOp) (b : Nat) : State :=
  match s.engMap o (c.src + BitVec.ofNat 64 (16 * c.done)) 16 .load with
  | (.inl [(pa, _)], s) =>
    if s.isLocal pa && inHbm (localOf pa) then
      match s.sideExp (localOf pa) with
      | (some e, s) =>
        let i := s.opBuf o b
        s.putBuf o b { i with exps := mwrite i.exps ((c.dst.toNat + 16 * c.done) / 32) e }
      | (none, s) => s
    else s
  | (_, s) => s

/-- Carriage from ABUF into global memory: the exponent of the unit's segment becomes that of its block; SB8 takes the byte of the
block's first segment (R224, R230). -/
def State.carryOut (s : State) (o : EngOp) (c : CopyOp) (pa : Pair) : State :=
  if !(s.isLocal pa) || !inHbm (localOf pa) then s else
  let a := localOf pa
  let blk := s.sideBlock a
  if blk = 0 then s else
  let seg := (c.src.toNat + 16 * c.done) / blk * blk / 32
  let e := mread (s.opBuf o 0).exps seg
  let k := a % 128 / blk
  s.sideStore a (BitVec.ofNat 4 (2 ^ k)) (BitVec.ofNat 32 (e.toNat * 2 ^ (8 * k)))

/-- Whether a destination accepts `n` bytes at the place it has come to: the pieces of a global one, or why not. -/
def State.copyInto (s : State) (o : EngOp) (c : CopyOp) (n : Nat) : (List (Pair × Nat) ⊕ Got) × State :=
  if c.dsp = 0 then s.engInto o (c.dst + BitVec.ofNat 64 c.out) n
  else if s.copyOutside o c.dsp (c.dst + BitVec.ofNat 64 c.out) n then (.inr (.bytes []), s)
  else (.inl [], s)

/-- The granules whose last byte a unit of `n` bytes writes: all it completes, and at the end of the copy the one it leaves
partly written (R229). -/
def CopyOp.granules (c : CopyOp) (n : Nat) (last : Bool) : Nat × Nat :=
  let a := c.dst.toNat + c.out
  (a / 16, if last then (a + n + 15) / 16 else (a + n) / 16)

/-- Write a unit and move on. -/
def State.copyPut (s : State) (id : Nat) (o : EngOp) (c : CopyOp) (l : List (Pair × Nat)) (bytes : List Byte) (used sat : Nat) : State :=
  let last := c.done + 1 == c.len
  let old := s.copyOld id o c bytes.length
  let s := match spaceBuf c.dsp with
    | some b =>
      let i := s.opBuf o b
      s.putBuf o b { i with data := mwriteL i.data (c.dst.toNat + c.out) bytes }
    | none =>
      if c.dsp = 1 then
        let g := c.granules bytes.length last
        s.opScratch o (c.dst.toNat + c.out) bytes g.1 g.2
      else s.engPut id o l bytes
  let s := if c.carries then (match c.dsp.toNat, l with
      | 0, (pa, _) :: _ => s.carryOut o c pa
      | 0, [] => s
      | d, _ => s.carryIn o c (d - 2)) else s
  let s := if (spaceBuf c.dsp).isSome then s.bufNoted o.key.ctx (s.opCore o) none (0, 0) else s
  let c' := { c with done := c.done + 1, out := c.out + bytes.length, inp := c.inp + used, sat := c.sat + sat, old }
  let s := ((s.modWork id (.copy c')).opSat id sat).opClear id
  if last then s.finish id (cword 0 (if c.mode = 3 then c'.sat else c'.out)) else s

/-- End a copy early: a granule that it has written in part has had its last byte (R229). -/
def State.copyStop (s : State) (id : Nat) (o : EngOp) (c : CopyOp) (status reason : Nat) : State :=
  let a := c.dst.toNat + c.out
  let s := if c.dsp = 1 ∧ c.out > 0 ∧ a % 16 ≠ 0 then s.setF o.key.ctx o.key.tslot (a / 16) else s
  s.finish id (cword status (reason * 2 ^ 24 + c.done))

/-- End a copy whose unit cannot be accessed (R231). -/
def State.copyFail (s : State) (id : Nat) (o : EngOp) (c : CopyOp) (g : Got) : State :=
  match g with
  | .bytes _ => s.copyStop id o c 7 7
  | .fault => s.copyStop id o c 1 0
  | .absent => s.copyStop id o c 7 9
  | .bad => s.copyStop id o c 7 8
  | .wait => s

/-- Element `i` of `n` bytes of a list of bytes. -/
def elemAt (l : List Byte) (n i : Nat) : Nat := leNat ((l.drop (n * i)).take n)

/-- The dense bytes of a BM64 block from its mask and its packed elements (02 R48). -/
def unpackBlock (mask n : Nat) (packed : List Byte) : List Byte :=
  ((List.range 64).foldl (fun (acc : List Byte × List Byte) i =>
    if mask.testBit i then (acc.1 ++ acc.2.take n, acc.2.drop n) else (acc.1 ++ List.replicate n 0, acc.2)) ([], packed)).1

/-- The bytes of a BM64 block whose mask has `k` elements of `n` bytes (02 R48). -/
def blockBytes (k n : Nat) : Nat := 8 + 8 * ceilDiv (k * n) 8

/-- A BM64 block from 64 dense elements. -/
def packBlock (dense : List Byte) (n : Nat) : List Byte :=
  let here := (List.range 64).filter fun i => elemAt dense n i != 0
  let mask := here.foldl (fun m i => m + 2 ^ i) 0
  let body := here.flatMap fun i => leBytes n (elemAt dense n i)
  leBytes 8 mask ++ body ++ List.replicate (blockBytes here.length n - 8 - body.length) 0

/-- One element of pack (R229): F16, BF16, I16 or I8. -/
def packElem (pfmt : BitVec 2) (rm : BitVec 3) (ovf : BitVec 2) (x : Nat) : FRes :=
  match pfmt.toNat with
  | 0 => f16.deliver rm ovf 0x082 (match f32.value x with
      | .nan => .nan
      | .inf s => .inf s
      | .fin s m e => .val s m e)
  | 1 => bf16.deliver rm ovf 0x082 (match f32.value x with
      | .nan => .nan
      | .inf s => .inf s
      | .fin s m e => .val s m e)
  | 2 => narrow (-32768) 32767 16 ovf 0x080 (sint 32 x)
  | _ => narrow (-128) 127 8 ovf 0x080 (sint 32 x)

/-- The source bytes of the next unit: for unpack the mask first, then the whole block, whose end is checked. -/
def State.copySource (s : State) (id : Nat) (o : EngOp) (c : CopyOp) : Got × State :=
  if c.mode ≠ 1 then s.copyRead id o c c.inp c.srcUnit else
  if s.copyOutside o c.ssp (c.src + BitVec.ofNat 64 c.inp) 8 then (.bytes [], s) else
  match s.copyRead id o c c.inp 8 with
  | (.bytes m, s) =>
    let n := blockBytes (popCount (leNat m) 64) (accBytes c.w)
    if s.copyOutside o c.ssp (c.src + BitVec.ofNat 64 c.inp) n then (.bytes [], s)
    else s.copyRead id o c c.inp n
  | r => r

/-- What a unit writes, and its clamps; none where pack meets an overflow under OVF = 11. -/
def CopyOp.convert (c : CopyOp) (src : List Byte) : Option (List Byte × Nat) :=
  match c.mode.toNat with
  | 0 => some (src, 0)
  | 1 => some (unpackBlock (leNat (src.take 8)) (accBytes c.w) (src.drop 8), 0)
  | 2 => some (packBlock src (accBytes c.w), 0)
  | _ =>
    let rs := (List.range 64).map fun i => packElem c.pfmt c.rm c.ovf (elemAt src 4 i)
    if rs.any fun r => r.trap.isSome then none
    else some (rs.flatMap fun r => leBytes (packBytes c.pfmt) r.bits, (rs.map (·.sat)).sum)

/-- The typed buffers that a copy names. -/
def CopyOp.buffers (c : CopyOp) : List Nat := (spaceBuf c.dsp).toList ++ (spaceBuf c.ssp).toList

/-- One unit of a copy: its source, its conversion, its destination. -/
def State.copyUnit (s : State) (id : Nat) (o : EngOp) (c : CopyOp) : State :=
  match s.copySource id o c with
  | (.bytes [], s) => s.copyStop id o c 7 7
  | (.bytes src, s) =>
    (match c.convert src with
      | none => s.copyStop id o c 4 0
      | some (out, sat) =>
        match s.copyInto o c out.length with
        | (.inr g, s) => s.copyFail id o c g
        | (.inl l, s) => s.copyPut id o c l out src.length sat)
  | (g, s) => s.copyFail id o c g

/-- The next progress of a copy: its checks, a cancellation at a unit boundary, or one unit. -/
def State.copyTurn (s : State) (id : Nat) (o : EngOp) (c : CopyOp) : State :=
  if !c.checked then
    (match s.copyCheck o c with
      | some r => s.finish id (cword 7 (r * 2 ^ 24))
      | none =>
        if c.buffers.any fun b => s.opTypedWait o b then s
        else (c.buffers.foldl (fun s b => s.opTyped o b) s).modWork id (.copy { c with checked := true }))
  else if o.canceled then s.copyStop id o c 2 0
  else if c.buffers.any fun b => s.opTypedWait o b then s
  else (c.buffers.foldl (fun s b => s.opTyped o b) s).copyUnit id o c

/-- The address or offset that an operand of COPY gives for its space. -/
def spaceAddr (rep : Option Rep) (th : Thread) (f : Fld) (sp : BitVec 3) (sel : Sel) : Pair :=
  if sp = 0 then rd64 rep th f sel else (rd32 rep th f sel).setWidth 64

def execCopy (d : Dst) (a b c : Sel) (rm : BitVec 3) (w ovf : BitVec 2) (scope : BitVec 3) (mode : BitVec 2) (dsp ssp : BitVec 3)
    (pfmt : BitVec 2) (s : State) : Host.Outcome State Fault Refusal :=
  let i : Instr := .copy d a b c rm w ovf scope mode dsp ssp pfmt
  .next (s.issueEng i scope fun s k _ th =>
    s.startOp i k d scope (.copy {
      mode, dsp, ssp, w, rm, ovf, pfmt, dst := spaceAddr s.site.rep th .a dsp a, src := spaceAddr s.site.rep th .b ssp b,
      len := (rd32 s.site.rep th .c c).toNat, done := 0, out := 0, inp := 0, sat := 0, checked := false, old := [] }) none)

end Sys2Proof.Machine
end

