-- ==== Sys2Proof/Machine/L2Engines.lean ====
section
/-! DEFINITION. GATHER, SCATTER and SCADD (15): their issue, the list of elements they send to the homes, what the homes do with
them, and the delivery of gathered granules. -/

namespace Sys2Proof.Machine

/-! ## The homes (R302 to R308) -/

/-- A SCADD update of a 32-bit element (R305). -/
def scaddVal (ops : BitVec 2) (ft : Bool) (old v : Nat) : Nat :=
  match ops.toNat, ft with
  | 0, false => (old + v) % 2 ^ 32
  | 0, true => addF32 old v
  | 1, false => if sint 32 old ≤ sint 32 v then old else v
  | 1, true => f32.minMax false old v
  | _, false => if sint 32 old ≤ sint 32 v then v else old
  | _, true => f32.minMax true old v

/-- Whether a local sector holds a granule with subscribers. -/
def State.subscribed (s : State) (sec : Nat) : Bool :=
  (List.range 8).any fun k => ((tget s.pkg.subs (8 * sec + k)).getD []) != []

/-- The update array of a sector's slice: its other sectors with the order of their last updates. -/
def State.updateArray (s : State) (sec : Nat) : List (Nat × Nat) :=
  s.pkg.l2.filterMap fun e =>
    match e.2.st with
    | .updateOnly n =>
      if e.1 != sec && homeDie (128 * e.1) == homeDie (128 * sec) && homeSlice (128 * e.1) == homeSlice (128 * sec) then
        some (e.1, n) else none
    | _ => none

/-- Room for one more sector in the update array of its slice: the least recently updated of 32 is merged (R307). -/
def State.updateRoom (s : State) (sec : Nat) : State :=
  let arr := s.updateArray sec
  if arr.length < 32 then s else
  match arr.foldl (fun (m : Option (Nat × Nat)) e => if m.any fun x => decide (x.2 ≤ e.2) then m else some e) none with
  | some (v, _) => (s.homeGet v).2
  | none => s

/-- Apply one update at its home: in the update array, or in the data array where the sector is subscribed (R306, R307). -/
def State.scaddAt (s : State) (a : Nat) (ops : BitVec 2) (ft : Bool) (v : Nat) : State :=
  if !inHbm a then s.setUnbk else
  let new := scaddVal ops ft (s.homeNat a 4) v
  let sec := a / 128
  if s.subscribed sec then s.homeWrite a 4 new else
  let s := (s.updateRoom sec).filled sec
  let h := (tget s.pkg.l2 sec).getD (s.fillSector sec)
  let (n, s) := s.freshId
  (s.modPkg fun p => { p with l2 := tset p.l2 sec { h with
    data := secMerge (maskOf (a % 128) 4) (secPut (a % 128) 4 new) h.data, st := .updateOnly n } }).noteConst sec

/-- An element reaches its home: GATHER reads it, once for every position sent that names it; SCATTER and SCADD write it, once no
earlier position that names it is still to be performed. -/
def State.l2Perform (s : State) (id : Nat) (l : L2Op) (pos : Nat) : State :=
  match l.sent.find? fun e => e.1 == pos with
  | none => s
  | some (_, pa, v) =>
    match l.kind with
    | .gather =>
      let (x, s) := s.homeLoad (localOf pa) l.width
      let mine := l.sent.filter fun e => e.2.1 == pa
      s.modWork id (.l2 { l with
        sent := l.sent.filter fun e => e.2.1 != pa
        got := l.got ++ mine.map fun e => (e.1, pa, BitVec.ofNat 64 x) })
    | k =>
      if l.sent.any fun e => e.2.1 == pa && decide (e.1 < pos) then s else
      let s := s.modWork id (.l2 { l with sent := l.sent.filter fun e => e.1 != pos })
      if k == .scatter then
        (if inHbm (localOf pa) then s.homeWrite (localOf pa) l.width v.toNat else s.setUnbk)
      else s.scaddAt (localOf pa) l.ops l.ft v.toNat

/-! ## The front end (R300 to R302) -/

/-- The alignment of the data offset. -/
def L2Op.align (l : L2Op) : Nat := if l.kind == .gather then 16 else l.width

/-- The checks made before anything is read, as an INVALID reason (R300). -/
def State.l2Check (s : State) (o : EngOp) (l : L2Op) : Option Nat :=
  let size := s.opScrSize o
  if l.k = 0 then some 3
  else if l.idx % 4 ≠ 0 ∨ l.data % l.align ≠ 0 then some 1
  else if l.base.toNat % l.width ≠ 0 then some 1
  else if l.idx + 4 * l.k > size ∨ l.data + l.width * l.k > size then some 7
  else none

/-- Send the next element to its home, or end the list there; the cancellation test follows each element. -/
def State.l2Send (s : State) (id : Nat) (o : EngOp) (l : L2Op) : State :=
  let p := l.next
  let stop := fun (s : State) (w : Word) => s.modWork id (.l2 { l with stopWord := some w })
  let i := s.scrRead (o.scr (l.idx + 4 * p)) 4
  let off := if l.sx then BitVec.ofInt 64 (sint 32 i) else BitVec.ofNat 64 i
  let ea := l.base + off * BitVec.ofNat 64 l.width
  if !(canonical ea) then stop s (cword 7 (8 * 2 ^ 24 + p)) else
  match s.engineTr (s.opCore o) (s.opAsid o) ea (if l.kind == .gather then .load else .store) o.sup with
  | (none, s) => stop s (cword 1 p)
  | (some pa, s) =>
    if !(s.isLocal pa) then stop s (cword 7 (9 * 2 ^ 24 + p)) else
    let l := { l with next := p + 1, stopWord := if o.canceled then some (cword 2 (p + 1)) else none }
    let v := if l.kind == .gather then 0 else s.scrRead (o.scr (l.data + l.width * p)) l.width
    match (if l.kind == .gather then l.got.find? fun e => e.2.1 == pa else none) with
    | some e => s.modWork id (.l2 { l with got := l.got ++ [(p, pa, e.2.2)] })
    | none => s.modWork id (.l2 { l with sent := l.sent ++ [(p, pa, BitVec.ofNat 64 v)] })

/-- How many positions the operation performs in all, as far as is known. -/
def L2Op.limit (l : L2Op) : Nat := if l.stopWord.isSome then l.next else l.k

/-- The gathered bytes of the next granule of the destination, if all of them are there. -/
def L2Op.granule (l : L2Op) : Option (List Byte) :=
  let from_ := 16 * l.delivered
  let upto := min (from_ + 16) (l.width * l.limit)
  if l.kind != .gather || decide (upto ≤ from_) then none else
  let ps := upTo (from_ / l.width) ((upto - from_) / l.width)
  let vs := ps.filterMap fun p => l.got.find? fun e => e.1 == p
  if vs.length = ps.length then some (vs.flatMap fun e => leBytes l.width e.2.2.toNat) else none

/-- Deliver the next granule of a GATHER; its F bit is set unless an early end leaves it incomplete, which an end after the last
element does not (R302; log 25). -/
def State.l2Deliver (s : State) (id : Nat) (o : EngOp) (l : L2Op) : State :=
  match l.granule with
  | none => s
  | some b =>
    let off := l.data + 16 * l.delivered
    let whole := decide (b.length = 16) || l.stopWord.isNone || l.next == l.k
    (s.modWork id (.l2 { l with delivered := l.delivered + 1 })).opScratch o off b (off / 16) (off / 16 + if whole then 1 else 0)

/-- The next progress of an L2 operation. -/
def State.l2Turn (s : State) (id : Nat) (o : EngOp) (l : L2Op) : State :=
  if !l.checked then
    (match s.l2Check o l with
      | some r => s.finish id (cword 7 (r * 2 ^ 24))
      | none => s.modWork id (.l2 { l with checked := true }))
  else if l.stopWord.isNone && decide (l.next < l.k) then s.l2Send id o l
  else match l.sent with
    | e :: _ => s.l2Perform id l e.1
    | [] => if l.granule.isSome then s.l2Deliver id o l else s.finish id (l.stopWord.getD (cword 0 l.k))

/-! ## Issue -/

/-- Issue an L2 operation; more than 65,536 indices raise GATHER 0 (R299). -/
def State.issueL2 (s : State) (i : Instr) (d : Dst) (kind : L2Kind) (a b c : Sel) (w : BitVec 2) (scope : BitVec 3) (ops : BitVec 2)
    (ft sx : Bool) (base : BitVec 7) : State :=
  s.issueEng i scope fun s k _ th =>
    let n := (rd32 s.site.rep th .c c).toNat
    if n > 65536 then (s, .trap 0x0E0 0 0) else
    s.startOp i k d scope (.l2 {
      kind, width := accBytes w, base := th.pair (base.toNat + stepOf s.site.rep th.repidx .base 2),
      data := (rd32 s.site.rep th .a a).toNat, idx := (rd32 s.site.rep th .b b).toNat, k := n, sx, ops, ft, checked := false,
      next := 0, sent := [], got := [], delivered := 0, stopWord := none }) none

def execGather (d : Dst) (a b c : Sel) (w : BitVec 2) (scope : BitVec 3) (sx : Bool) (base : BitVec 7) (s : State) :
    Host.Outcome State Fault Refusal :=
  .next (s.issueL2 (.gather d a b c w scope sx base) d .gather a b c w scope 0 false sx base)

def execScatter (d : Dst) (a b c : Sel) (w : BitVec 2) (scope : BitVec 3) (sx : Bool) (base : BitVec 7) (s : State) :
    Host.Outcome State Fault Refusal :=
  .next (s.issueL2 (.scatter d a b c w scope sx base) d .scatter a b c w scope 0 false sx base)

def execScadd (d : Dst) (a b c : Sel) (w : BitVec 2) (scope : BitVec 3) (ops : BitVec 2) (ft sx : Bool) (base : BitVec 7) (s : State) :
    Host.Outcome State Fault Refusal :=
  .next (s.issueL2 (.scadd d a b c w scope ops ft sx base) d .scadd a b c w scope ops ft sx base)

/-! ## Events -/

/-- An operation of the L2 engines that has not ended. -/
def State.l2Op (s : State) (op : Nat) : Option (EngOp × L2Op) :=
  (tget s.ops op).bind fun o =>
    match o.work with
    | .l2 l => if o.result.isNone then some (o, l) else none
    | _ => none

/-- ELEMENT_REQUEST: the element of a position of a GATHER or SCATTER reaches its home. -/
def execElementRequest (op pos : Nat) (s : State) : Host.Outcome State Fault Refusal :=
  .next (match s.l2Op op with
    | some (_, l) => if l.kind == .scadd then s else s.l2Perform op l pos
    | none => s)

/-- SCADD_UPDATE: the update of a position reaches its home. -/
def execScaddUpdate (op pos : Nat) (s : State) : Host.Outcome State Fault Refusal :=
  .next (match s.l2Op op with
    | some (_, l) => if l.kind == .scadd then s.l2Perform op l pos else s
    | none => s)

end Sys2Proof.Machine
end

