-- ==== Sys2Proof/Machine/Standing.lean ====
section
/-! DEFINITION. Standing loads (16): STAND, UNSTAND and SUBSTAT, the delivery of pushes, the parking of a saved context's subscriptions
with their restore deliveries, and their removal at the end of a team. -/

namespace Sys2Proof.Machine

/-! ## The tables (R311) -/

/-- The directory entry of a slot. -/
def State.dirFind (s : State) (die ctx tslot slot : Nat) : Option DirEntry :=
  (s.die die).directory.find? fun e => e.ctx == ctx && e.tslot == tslot && e.slot == slot

/-- Drop the directory entry of a slot, on every die. -/
def State.dirDrop (s : State) (ctx tslot slot : Nat) : State :=
  (List.range 4).foldl (fun s die => s.modDie die fun d =>
    { d with directory := d.directory.filter fun e => !(e.ctx == ctx && e.tslot == tslot && e.slot == slot) }) s

/-- Set the state of the directory entry of a slot. -/
def State.dirMark (s : State) (die ctx tslot slot : Nat) (st : DirSt) : State :=
  s.modDie die fun d => { d with directory := d.directory.map fun e =>
    if e.ctx == ctx && e.tslot == tslot && e.slot == slot then { e with st } else e }

/-- The subscriber records of a granule. -/
def State.subsOf (s : State) (g : Nat) : List Subscriber := (tget s.pkg.subs g).getD []

/-- Set the subscriber records of a granule; an entry without any is freed. -/
def State.setSubs (s : State) (g : Nat) (l : List Subscriber) : State :=
  s.modPkg fun p => { p with subs := if l.isEmpty then tdel p.subs g else tset p.subs g l }

/-- The entries in use in the subscription table of a granule's home slice. -/
def State.subEntries (s : State) (g : Nat) : Nat :=
  (s.pkg.subs.filter fun e => homeDie (16 * e.1) == homeDie (16 * g) && homeSlice (16 * e.1) == homeSlice (16 * g)).length

/-- Whether a subscriber is that of a slot. -/
def Subscriber.holds (b : Subscriber) (ctx tslot slot : Nat) : Bool := b.ctx == ctx && b.tslot == tslot && b.slot == slot

/-- The granule that a slot subscribes, with its record. -/
def State.subFind (s : State) (ctx tslot slot : Nat) : Option (Nat × Subscriber) :=
  s.pkg.subs.findSome? fun e => (e.2.find? fun b => b.holds ctx tslot slot).map fun b => (e.1, b)

/-- Change the record of a slot. -/
def State.subMod (s : State) (ctx tslot slot : Nat) (f : Subscriber → Subscriber) : State :=
  s.modPkg fun p => { p with subs := tmap p.subs fun _ l => l.map fun b => if b.holds ctx tslot slot then f b else b }

/-- Remove the record of a slot. -/
def State.subDrop (s : State) (ctx tslot slot : Nat) : State :=
  match s.subFind ctx tslot slot with
  | some (g, _) => s.setSubs g ((s.subsOf g).filter fun b => !(b.holds ctx tslot slot))
  | none => s

/-- Whether a context's subscriptions are parked (R321). -/
def Ctx.parks (c : Ctx) : Bool := c.place == .streamingOut || c.place == .saved || c.place == .streamingIn

/-! ## Issue (R312, R313) -/

/-- The slot offset. -/
def standSlot (s : State) (th : Thread) (b : Sel) (imm : BitVec 12) : Nat := (rd32 s.site.rep th .b b + imm.signExtend 32).toNat

/-- Issue for one member; a STAND counts against its context, and traps when the count is full. -/
def State.startStand (s : State) (i : Instr) (k : Key) (d : Dst) (w : StandOp) : State × Out :=
  if w.kind = .stand ∧ ((s.ctx? k.ctx).map (·.subCount)).getD 0 ≥ 4096 then (s, .trap 0x0D0 0 0) else
  match s.startOp i k d 1 (.stand w) none with
  | (s, .next) => (if w.kind = .stand then s.modCtx k.ctx fun c => { c with subCount := c.subCount + 1 } else s, .next)
  | r => r

def execStand (d : Dst) (a b : Sel) (imm : BitVec 12) (s : State) : Host.Outcome State Fault Refusal :=
  .next (s.issueEng (.stand d a b imm) 1 fun s k _ th =>
    s.startStand (.stand d a b imm) k d ⟨.stand, rd64 s.site.rep th .a a, standSlot s th b imm, false, 0⟩)

def execUnstand (d : Dst) (b : Sel) (imm : BitVec 12) (s : State) : Host.Outcome State Fault Refusal :=
  .next (s.issueEng (.unstand d b imm) 1 fun s k _ th =>
    s.startStand (.unstand d b imm) k d ⟨.unstand, 0, standSlot s th b imm, false, 0⟩)

def execSubstat (d : Dst) (b : Sel) (clr : BitVec 8) (imm : BitVec 12) (s : State) : Host.Outcome State Fault Refusal :=
  .next (s.issueEng (.substat d b clr imm) 1 fun s k _ th =>
    s.startStand (.substat d b clr imm) k d ⟨.substat, 0, standSlot s th b imm, clr == 1, 0⟩)

/-! ## Progress (R313 to R316) -/

/-- The checks of the slot: an INVALID reason. -/
def State.slotCheck (s : State) (o : EngOp) (w : StandOp) : Option Nat :=
  if w.slot % 16 ≠ 0 ∨ (w.kind = .stand ∧ w.ga.toNat % 16 ≠ 0) then some 1
  else if w.slot + 16 > s.opScrSize o then some 7
  else none

/-- Whether the operation of the next lower position of the same issue is still to reach the directory (R312). -/
def State.standBehind (s : State) (id : Nat) (o : EngOp) : Bool :=
  s.ops.any fun e => e.1 != id && e.2.order + 1 == o.order && e.2.key.ctx == o.key.ctx && e.2.pc == o.pc && e.2.result.isNone &&
    match e.2.work with
    | .stand w => w.phase == 0
    | _ => false

/-- Whether an earlier STAND of the slot is still under way: an UNSTAND or a SUBSTAT waits for its completion (R314, log 39). -/
def State.standAhead (s : State) (o : EngOp) (w : StandOp) : Bool :=
  w.kind != .stand && s.ops.any fun e => decide (e.2.order < o.order) && e.2.key.ctx == o.key.ctx &&
    e.2.key.tslot == o.key.tslot && e.2.result.isNone &&
    match e.2.work with
    | .stand x => x.kind == .stand && x.slot == w.slot
    | _ => false

/-- STAND up to its directory record. -/
def State.standBegin (s : State) (id : Nat) (o : EngOp) (w : StandOp) : State :=
  let die := dieOf (s.opCore o)
  if !(canonical w.ga) then s.finish id (cword 7 (8 * 2 ^ 24))
  else if (s.dirFind die o.key.ctx o.key.tslot w.slot).isSome then s.finish id (cword 7 (10 * 2 ^ 24))
  else if o.canceled then s.finish id (cword 2 0)
  else
    match s.engineTr (s.opCore o) (s.opAsid o) w.ga .load o.sup with
    | (none, s) => s.finish id (cword 1 0)
    | (some pa, s) =>
      if !(s.isLocal pa) then s.finish id (cword 7 (9 * 2 ^ 24))
      else if (s.die die).directory.length ≥ 32768 then s.finish id (cword 8 (3 * 2 ^ 24))
      else
        let s := s.modDie die fun d => { d with directory := d.directory ++ [⟨o.key.ctx, o.key.tslot, w.slot, pa, .installing⟩] }
        s.modWork id (.stand { w with ga := pa, phase := 1 })

/-- Deliver the first value into the slot, or park it (R313, R321). -/
def State.standDeliver (s : State) (o : EngOp) (w : StandOp) (v : BitVec 128) : State :=
  if (s.ctx? o.key.ctx).any Ctx.parks then
    s.subMod o.key.ctx o.key.tslot w.slot fun b => { b with parked := true, pval := v, pscope := 0, parkn := 1, pinit := true }
  else s.deliverGranule (o.scr w.slot) v

/-- STAND at the home: the issuing domain's dirty bytes first, then the record and the first delivery. -/
def State.standInstall (s : State) (id : Nat) (o : EngOp) (w : StandOp) : State :=
  let fail := fun (s : State) (x : Word) => (s.dirDrop o.key.ctx o.key.tslot w.slot).finish id x
  if o.canceled then fail s (cword 2 0) else
  let s := (s.snoopOf (s.domainOf o.key)).foldl (fun s g => s.writeBack g (sectorOf w.ga)) s
  let a := localOf w.ga
  let g := a / 16
  let s := if inHbm a then (s.homeGet (a / 128)).2 else s.setUnbk
  let old := s.subsOf g
  if old.isEmpty && decide (s.subEntries g ≥ 1024) then fail s (cword 8 (1 * 2 ^ 24))
  else if old.length ≥ 4 then fail s (cword 8 (2 * 2 ^ 24))
  else
    let (n, s) := s.freshId
    let rec_ : Subscriber := { id := n, ctx := o.key.ctx, tslot := o.key.tslot, slot := w.slot, ovr := 0, parked := false, pval := 0,
                               pscope := 0, parkn := 0, pinit := false, removing := false, queued := [] }
    let s := s.setSubs g (old ++ [rec_])
    let s := s.standDeliver o w (s.granule g)
    let s := s.dirMark (dieOf (s.opCore o)) o.key.ctx o.key.tslot w.slot .active
    s.finish id (cword 0 (old.length + 1))

/-- UNSTAND and SUBSTAT before their point at the home: the slot must hold an active subscription. -/
def State.standLookup (s : State) (id : Nat) (o : EngOp) (w : StandOp) : State :=
  let die := dieOf (s.opCore o)
  match s.dirFind die o.key.ctx o.key.tslot w.slot with
  | none => s.finish id (cword 7 (11 * 2 ^ 24))
  | some e =>
    match e.st with
    | .installing => s
    | .removing => s.finish id (cword 7 (11 * 2 ^ 24))
    | .active =>
      let s := if w.kind = .unstand then
          (s.dirMark die o.key.ctx o.key.tslot w.slot .removing).subMod o.key.ctx o.key.tslot w.slot fun b => { b with removing := true }
        else s
      s.modWork id (.stand { w with phase := 1 })

/-- UNSTAND and SUBSTAT at the home, once every push sent has been delivered. -/
def State.standHome (s : State) (id : Nat) (o : EngOp) (w : StandOp) : State :=
  match s.subFind o.key.ctx o.key.tslot w.slot with
  | none => s.finish id (cword 7 (11 * 2 ^ 24))
  | some (g, b) =>
    if !b.queued.isEmpty then s
    else if w.kind = .unstand then
      ((s.subDrop o.key.ctx o.key.tslot w.slot).dirDrop o.key.ctx o.key.tslot w.slot).finish id (cword 0 b.ovr)
    else if b.removing then s.finish id (cword 7 (11 * 2 ^ 24))
    else
      let n := (s.subsOf g).length
      let s := if w.clr then s.subMod o.key.ctx o.key.tslot w.slot fun b => { b with ovr := 0 } else s
      s.finish id (cword 0 (n * 16 + b.ovr))

/-- The next progress of a standing-load operation. -/
def State.standTurn (s : State) (id : Nat) (o : EngOp) (w : StandOp) : State :=
  if w.phase = 0 then
    if s.standBehind id o || s.standAhead o w then s else
    match s.slotCheck o w with
    | some r => s.finish id (cword 7 (r * 2 ^ 24))
    | none => if w.kind = .stand then s.standBegin id o w else s.standLookup id o w
  else if w.kind = .stand then s.standInstall id o w else s.standHome id o w

/-! ## Pushes (R318, R319) -/

/-- PUSH_DELIVERY: the oldest push of a subscriber reaches its slot; one that finds F set counts as an overrun. -/
def execPushDelivery (sub : Nat) (s : State) : Host.Outcome State Fault Refusal :=
  .next (match s.pkg.subs.findSome? fun e => e.2.find? fun b => b.id == sub with
    | none => s
    | some b =>
      match b.queued with
      | [] => s
      | (v, scope) :: rest =>
        let a : ScrAddr := ⟨b.ctx, b.tslot, b.slot⟩
        let ovr := if s.scrF a then min 15 (b.ovr + 1) else b.ovr
        let s := s.subMod b.ctx b.tslot b.slot fun b => { b with ovr, queued := rest }
        let s := s.acquireAt (s.domainOf ⟨b.ctx, b.tslot, 0⟩) scope
        s.deliverGranule a v)

/-! ## Saved contexts (R321, R322) and the end of a team (R323) -/

/-- A subscriber is parked: the pushes not yet delivered become parked ones. -/
def Subscriber.park (b : Subscriber) : Subscriber :=
  let r := b.queued.foldl (fun (x : Subscriber) p => { x with pval := p.1, pscope := p.2, parkn := min 15 (x.parkn + 1) }) b
  { r with parked := true, queued := [] }

/-- Park the subscriptions of a context. -/
def State.parkSubs (s : State) (ctx : Nat) : State :=
  s.modPkg fun p => { p with subs := tmap p.subs fun _ l => l.map fun b => if b.ctx == ctx then b.park else b }

/-- The overruns that a restore delivery adds (R322). -/
def Subscriber.restoreOvr (b : Subscriber) (f0 : Bool) : Nat :=
  let x := if f0 && !b.pinit then 1 else 0
  min 15 (b.ovr + (b.parkn - 1) + x)

/-- The restore deliveries of a context: one for each subscriber with parked pushes (R322). -/
def State.restoreSubs (s : State) (ctx : Nat) : State :=
  let mine := s.pkg.subs.flatMap fun e => e.2.filter fun b => b.ctx == ctx
  mine.foldl (fun s b =>
    let a : ScrAddr := ⟨b.ctx, b.tslot, b.slot⟩
    let ovr := if b.parkn = 0 then b.ovr else b.restoreOvr (s.scrF a)
    let s := s.subMod b.ctx b.tslot b.slot fun b => { b with parked := false, ovr, parkn := 0, pinit := false, pscope := 0 }
    if b.parkn = 0 then s else
    let s := s.acquireAt (s.domainOf ⟨b.ctx, b.tslot, 0⟩) b.pscope
    s.deliverGranule a b.pval) s

/-- Whether a standing-load operation of a team has not ended. -/
def State.standing (s : State) (ctx tslot : Nat) : Bool :=
  s.ops.any fun e => e.2.key.ctx == ctx && e.2.key.tslot == tslot &&
    match e.2.work with
    | .stand _ => true
    | _ => false

/-- Remove the subscriptions of a team, each once its pushes sent have been delivered; whether any is left. The team's own operations
go first: an UNSTAND under way completes with its overrun count (R314, R323). -/
def State.endSubs (s : State) (ctx tslot : Nat) : State × Bool :=
  if s.standing ctx tslot then (s, true) else
  let mine := s.pkg.subs.flatMap fun e => e.2.filter fun b => b.ctx == ctx && b.tslot == tslot
  mine.foldl (fun (r : State × Bool) b =>
    if b.queued.isEmpty then
      (((r.1.subDrop b.ctx b.tslot b.slot).dirDrop b.ctx b.tslot b.slot).modCtx ctx fun c => { c with subCount := c.subCount - 1 }, r.2)
    else (r.1.subMod b.ctx b.tslot b.slot fun b => { b with removing := true }, true)) (s, false)

end Sys2Proof.Machine
end

