-- ==== Sys2Proof/Machine/Matrix.lean ====
section
/-! DEFINITION. The matrix unit (11) and its arithmetic (02 R45 to R54): issue by a group, the matrix queue, MLOOP and its step
boundaries, MFOLD, MZERO and CVTDN. -/

namespace Sys2Proof.Machine

/-! ## The value of a step (02 R49 to R51) -/

/-- The block exponents of an output: zero and NaN blocks, else the exact sum scaled once. -/
def intStep (ea ew : Nat) (sum : Int) : Nat :=
  if ea = 255 ∨ ew = 255 then f32.nan
  else if ea = 0 ∨ ew = 0 ∨ sum = 0 then 0
  else (f32.round 0 1 0 (decide (sum < 0)) sum.natAbs ((ea : Int) + ew - 254)).bits

/-- The sum of exact products: NaN, an infinity, or their exact sum rounded once. -/
def fltStep (ps : List Ex) : Nat :=
  let infP := ps.any fun p => p == .inf false
  let infN := ps.any fun p => p == .inf true
  if (ps.any fun p => p == .nan || p == .invalid) || (infP && infN) then f32.nan
  else if infP then f32.inf false
  else if infN then f32.inf true
  else
    let sum : Int := (ps.map fun p => match p with
      | .val s m e => scaled s m e (-300)
      | _ => 0).sum
    if sum = 0 then 0 else (f32.round 0 1 0 (decide (sum < 0)) sum.natAbs (-300)).bits

/-- The element fields of an MLOOP's second word (R241). -/
def MatOp.ct (m : MatOp) : Nat := field m.w1.toNat 31 24
def MatOp.ainc (m : MatOp) : Nat := field m.w1.toNat 23 20
def MatOp.winc (m : MatOp) : Nat := field m.w1.toNat 19 16
def MatOp.fmt (m : MatOp) : Nat := field m.w1.toNat 15 14
def MatOp.fin (m : MatOp) : Bool := m.w1.getLsbD 13
def MatOp.zero (m : MatOp) : Bool := m.w1.getLsbD 12
def MatOp.steps (m : MatOp) : Nat := field m.w1.toNat 11 0 + 1

/-- An element of a row or column: a signed integer of 8 or 4 bits, or a 16-bit pattern. -/
def intElem (wide : Bool) (buf : Mem) (size base kk : Nat) : Int :=
  if wide then sint 8 (mread buf ((base + kk) % size)).toNat
  else
    let b := (mread buf ((base + kk / 2) % size)).toNat
    sint 4 (if kk % 2 = 0 then b % 16 else b / 16)

/-- The step value of output (i, j): operands from the buffers' contents (R235). -/
def matValue (fmt : Nat) (a w : TypedImage) (abase wbase i j : Nat) : Nat :=
  if fmt ≥ 2 then
    let wide := fmt == 2
    let row := if wide then 64 else 32
    let ab := (abase + row * i) % 262144
    let wb := (wbase + row * j) % 524288
    intStep (mread a.exps (ab / 32)).toNat (mread w.exps (wb / 32)).toNat
      ((List.range 64).map fun kk => intElem wide a.data 262144 ab kk * intElem wide w.data 524288 wb kk).sum
  else
    let f := if fmt = 0 then bf16 else f16
    fltStep ((List.range 32).map fun kk =>
      mulV (f.value (mreadN a.data ((abase + 64 * i + 2 * kk) % 262144) 2)) (f.value (mreadN w.data ((wbase + 64 * j + 2 * kk) % 524288) 2)))

/-! ## Tiles (10 R225) -/

/-- The 4,096 elements of a tile, row by row. -/
def tileRead (cbuf : Mem) (t : Nat) : List Word :=
  (List.range 4096).map fun k => BitVec.ofNat 32 (mreadN cbuf (16384 * t + 4 * k) 4)

/-- Write a tile. -/
def tileWrite (cbuf : Mem) (t : Nat) (l : List Word) : Mem := mwriteL cbuf (16384 * t) (l.flatMap fun w => leBytes 4 w.toNat)

/-- A chain add or a fold (02 R52). -/
def chainAdd (a b : Word) : Word := BitVec.ofNat 32 (addF32 a.toNat b.toNat)

def isNan32 (w : Word) : Bool := (f32.value w.toNat).isNan

/-- One more than the first position where new values are NaN and old ones were not; 0 with none (R246). -/
def firstNan (fresh : List (Bool × Word)) : Nat :=
  match fresh.findIdx? fun e => e.1 && isNan32 e.2 with
  | some k => k + 1
  | none => 0

/-! ## The queue (R239, R248) -/

/-- The other operations of a context's queue may use what an operation leaves in the buffers (R255). -/
def State.matNoted (s : State) (id : Nat) (o : EngOp) (stored : Nat × Nat) : State :=
  s.bufNoted o.key.ctx (s.opCore o) (some id) stored

/-- End a matrix operation: it leaves its queue. -/
def State.matDone (s : State) (id : Nat) (o : EngOp) (w : Word) : State :=
  (s.finish id w).modCtx o.key.ctx fun c => { c with matq := c.matq.filter (· != id) }

/-- The bytes that have been stored at an address of CBUF since an operation was issued (R255). -/
def MatOp.stored (m : MatOp) (a : Nat) : List Byte :=
  ((m.was.drop 1).zip m.wrote).filterMap fun e => if e.2.1 ≤ a ∧ a < e.2.1 + e.2.2 then some (mread e.1.c a) else none

/-- A word of a chain, a byte of which is one that has been stored to CBUF there since the operation was issued, freely (R255). -/
def State.chainWord (s : State) (m : MatOp) (a : Nat) (w : Word) : Word × State :=
  (List.range 4).foldl (fun (r : Word × State) j =>
    let since := m.stored (a + j)
    if since.isEmpty then r else
    let (k, s) := r.2.drawNat
    match since[k % (since.length + 1)]? with
    | some b => ((r.1 &&& ~~~(BitVec.ofNat 32 (255 * 2 ^ (8 * j)))) ||| BitVec.ofNat 32 (b.toNat * 2 ^ (8 * j)), s)
    | none => (r.1, s))
    (w, s)

/-- A chain held for a tile. -/
def State.chainSees (s : State) (m : MatOp) (t : Nat) (l : List Word) : List Word × State :=
  if m.wrote.all (·.2 == 0) then (l, s) else
  let (r, s, _) := l.foldl (fun (r : List Word × State × Nat) w =>
    let (w, s) := r.2.1.chainWord m (16384 * t + 4 * r.2.2) w
    (w :: r.1, s, r.2.2 + 1)) ([], s, 0)
  (r.reverse, s)

/-- The chains of an MLOOP as its next step or stop takes them. -/
def State.mloopSees (s : State) (m : MatOp) : MatOp × State :=
  let (even, s) := s.chainSees m m.ct m.even
  let (odd, s) := s.chainSees m (m.ct + 1) m.odd
  ({ m with even, odd }, s)

/-- Write planes, or one, of the context's CBUF contents; the operation keeps what stood there, and the others may use what it writes
(R255). -/
def State.matPlanes (s : State) (id : Nat) (o : EngOp) (t : Nat) (planes : List (List Word)) : State :=
  let b := s.opBuf o 2
  let data := (planes.foldl (fun (r : Mem × Nat) l => (tileWrite r.1 r.2 l, r.2 + 1)) (b.data, t)).1
  let s := { s with ops := tmod s.ops id fun e => match e.work with
    | .mat m => { e with work := .mat { m with before := m.before ++ [b.data] } }
    | _ => e }
  (s.putBuf o 2 { b with data }).matNoted id o (16384 * t, 16384 * planes.length)

/-- MATNANPOS at a NaN stop (R247): `pos` is 64 × row + column. -/
def State.nanStop (s : State) (o : EngOp) (fold : Bool) (ct pos : Nat) : State :=
  s.modCtx o.key.ctx fun c => { c with
    matnanpos := BitVec.ofNat 32 (2 ^ 31 + (if fold then 2 ^ 20 else 0) + ct * 2 ^ 16 + pos) }

/-- Perform the next step of an MLOOP on the chain of its parity (R242, 02 R52). A byte of its operands that has been written since
its issue is the old or the new one, freely (R255). -/
def State.matStep (s : State) (id : Nat) (o : EngOp) (m : MatOp) : State :=
  let (ad, s) := s.sees (s.opBuf o 0).data (m.was.map (·.a.data))
  let (ae, s) := s.sees (s.opBuf o 0).exps (m.was.map (·.a.exps))
  let (wd, s) := s.sees (s.opBuf o 1).data (m.was.map (·.w.data))
  let (we, s) := s.sees (s.opBuf o 1).exps (m.was.map (·.w.exps))
  let a : TypedImage := ⟨ad, ae⟩
  let w : TypedImage := ⟨wd, we⟩
  let abase := 128 * ((m.a.toNat + m.next * 2 ^ m.ainc) % 2048)
  let wbase := 128 * ((m.b.toNat + m.next * 2 ^ m.winc) % 4096)
  let old := if m.next % 2 = 0 then m.even else m.odd
  let new := (old.zip (List.range 4096)).map fun e =>
    chainAdd e.1 (BitVec.ofNat 32 (matValue m.fmt a w abase wbase (e.2 / 64) (e.2 % 64)))
  let nan := if m.nt then firstNan ((old.zip new).map fun e => (!(isNan32 e.1), e.2)) else 0
  let m := if m.next % 2 = 0 then { m with even := new } else { m with odd := new }
  s.modWork id (.mat { m with begun := true, next := m.next + 1, nan })

/-- Fold two planes: the folded values and the first NaN that the fold produces (R246). -/
def foldPlanes (even odd : List Word) : List Word × Nat :=
  let new := (even.zip odd).map fun e => chainAdd e.1 e.2
  (new, firstNan ((even.zip (odd.zip new)).map fun e => (!(isNan32 e.1) && !(isNan32 e.2.1), e.2.2)))

/-- A plane of +0. -/
def zeroPlane : List Word := List.replicate 4096 0

/-- The end of an MLOOP after its last step: the fold, the plane writes and the completion. -/
def State.mloopEnd (s : State) (id : Nat) (o : EngOp) (m : MatOp) : State :=
  if m.fin then
    let (new, nan) := foldPlanes m.even m.odd
    let s := s.matPlanes id o m.ct [new, zeroPlane]
    if m.nt ∧ nan ≠ 0 then (s.nanStop o true m.ct (nan - 1)).matDone id o (cword 6 m.steps)
    else s.matDone id o (cword 0 m.steps)
  else (s.matPlanes id o m.ct [m.even, m.odd]).matDone id o (cword 0 m.steps)

/-- Whether an operation of another context asks for the matrix unit or for a buffer that a context owns. -/
def State.opClaims (s : State) (core ctx : Nat) (o : EngOp) : Bool :=
  o.key.ctx != ctx && o.result.isNone && (s.ctx? o.key.ctx).any (fun x => x.place == .active && x.core == core) &&
    match o.work with
    | .copy c => (List.range 3).any fun b => (spaceBuf c.dsp == some b || spaceBuf c.ssp == some b) && (s.core core).owner b == some ctx
    | .mat _ => true
    | _ => false

/-- Whether a group of another context is stalled at an access to a buffer that a context owns. -/
def State.groupClaims (s : State) (core ctx slot : Nat) (g : Group) : Bool :=
  g.ctx != ctx && decide (g.stalled ≠ 0) &&
    match s.prepare core slot with
    | .run (.ldt _ _ buf _ _) _ | .run (.stt _ _ buf _ _) _ => (s.core core).owner buf.toNat == some ctx
    | _ => false

/-- The third row of R248: another context claims the unit or a buffer of this one, or this one is being migrated. -/
def State.handsOver (s : State) (ctx : Nat) : Bool :=
  match s.ctx? ctx with
  | none => false
  | some c => c.moving.isSome || (s.ops.any fun o => s.opClaims c.core ctx o.2) ||
      (s.core c.core).groups.any fun g => s.groupClaims c.core ctx g.1 g.2

/-- A step boundary (R248): NaN stop, the end after the last step, cancellation, hand-over, or the next step. -/
def State.mloopBoundary (s : State) (id : Nat) (o : EngOp) (m : MatOp) (handover : Bool) : State :=
  if m.nan ≠ 0 then
    ((s.matPlanes id o m.ct [m.even, m.odd]).nanStop o false m.ct (m.nan - 1)).matDone id o (cword 6 (m.next - 1))
  else if m.next ≥ m.steps then s.mloopEnd id o m
  else if o.canceled then (s.matPlanes id o m.ct [m.even, m.odd]).matDone id o (cword 2 m.next)
  else
    let (m, s) := s.mloopSees m
    if handover then
      let before := m.before ++ [(s.opBuf o 2).data]
      let s := (s.matPlanes id o m.ct [m.even, m.odd])
      let c := (s.opBuf o 2).data
      s.modWork id (.mat { m with
        begun := false, even := [], odd := [], was := m.was.map (fun b => { b with c }), wrote := m.wrote.map fun _ => (0, 0), before })
    else s.matStep id o m

/-! ## CVTDN (R251 to R254, 02 R47) -/

/-- The elements of a block at one exponent, or none where one does not fit. -/
def blockAt (v : List FV) (lo hi : Int) (e : Nat) : Option (List Int) :=
  let q := v.filterMap fun x => match x with
    | .fin s m k => let r := (roundInt 0 s m (k + 127 - e)).1; if lo ≤ r ∧ r ≤ hi then some r else none
    | _ => none
  if q.length = v.length then some q else none

/-- A block conversion: its exponent, its elements (none with E = 255, which gives none), and its clamps; none on overflow. -/
def sbBlock (v : List FV) (lo hi : Int) (ovf : BitVec 2) : Option (Nat × Option (List Int) × Nat) :=
  if v.any FV.isNan then some (255, none, 0)
  else if v.all FV.isZero then some (0, some (v.map fun _ => 0), 0)
  else match (upTo 1 254).findSome? fun e => (blockAt v lo hi e).map fun q => (e, q) with
    | some (e, q) => some (e, some q, 0)
    | none =>
      match ovf.toNat with
      | 0 =>
        let r := v.map fun x => match x with
          | .fin s m k => (roundInt 0 s m (k - 127)).1
          | .inf s => if s then lo - 1 else hi + 1
          | .nan => 0
        some (254, some (r.map fun x => max lo (min hi x)), (r.filter fun x => decide (x < lo) || decide (x > hi)).length)
      | 3 => none
      | _ => some (255, none, 0)

/-- Fields of a CVTDN's second word. -/
def MatOp.rm (m : MatOp) : BitVec 3 := m.w1.extractLsb' 21 3
def MatOp.ovf (m : MatOp) : BitVec 2 := m.w1.extractLsb' 17 2
def MatOp.global (m : MatOp) : Bool := m.w1.getLsbD 2
def MatOp.pfmt (m : MatOp) : Nat := field m.w1.toNat 1 0

/-- The bytes of a CVTDN image (R252). -/
def cvtSize (pfmt : Nat) : Nat := if pfmt < 2 then 8192 else if pfmt = 2 then 4096 else 2048

/-- The bytes of a row: for BF16 and F16 two halves of 64 bytes 4,096 apart, for a block one piece; with their offsets. -/
def cvtPieces (pfmt i : Nat) : List (Nat × Nat) :=
  if pfmt < 2 then [(64 * i, 64), (4096 + 64 * i, 64)] else if pfmt = 2 then [(64 * i, 64)] else [(32 * i, 32)]

/-- The converted bytes of integers of a block. -/
def blockElems (pfmt : Nat) (q : List Int) : List Byte :=
  if pfmt = 2 then q.map (BitVec.ofInt 8)
  else leBytes 32 ((q.zip (List.range 64)).map fun e => wrap 4 e.1 * 2 ^ (4 * e.2)).sum

/-- A converted row: bytes, exponent, clamps and NaN outputs. A block with E = 255 has elements of no stated value (log 26). -/
structure CvtRow where
  bytes : List Byte
  exp : Nat
  sat : Nat
  nan : Nat

/-- Convert a row; none on an overflow under OVF = 11. -/
def State.cvtRow (s : State) (m : MatOp) (row : List Word) : Option CvtRow × State :=
  if m.pfmt < 2 then
    let f := if m.pfmt = 0 then bf16 else f16
    let q := row.map fun w => f.deliver m.rm m.ovf 0x082 (match f32.value w.toNat with
      | .nan => .nan
      | .inf s => .inf s
      | .fin s m e => .val s m e)
    (if q.any fun r => r.trap.isSome then none
     else some ⟨q.flatMap fun r => leBytes 2 r.bits, 0, (q.map FRes.sat).sum, (q.filter fun r => (f.value r.bits).isNan).length⟩, s)
  else
    match sbBlock (row.map fun w => f32.value w.toNat) (if m.pfmt = 2 then -128 else -8) (if m.pfmt = 2 then 127 else 7) m.ovf with
    | none => (none, s)
    | some (e, some q, sat) => (some ⟨blockElems m.pfmt q, e, sat, 0⟩, s)
    | some (e, none, sat) =>
      let (x, s) := s.drawNat
      (some ⟨leBytes (if m.pfmt = 2 then 64 else 32) x, e, sat, 64⟩, s)

/-- Store a piece of a row to global memory as a store of the issuing thread, by way of L1 (R254). -/
def State.cvtStore (s : State) (o : EngOp) (l : List (Pair × Nat)) (bytes : List Byte) : State :=
  (l.foldl (fun (r : State × List Byte) p =>
    let (pa, n) := p
    let s := r.1
    let v := leNat (r.2.take n)
    let s := if s.isLocal pa && !inHbm (localOf pa) then s.setUnbk
      else s.l1Store o.key (s.opCore o) (sectorOf pa) (s.opAsid o) o.pc.h false (maskOf (pa.toNat % 128) n) (secPut (pa.toNat % 128) n v)
    (s, r.2.drop n)) (s, bytes)).1

/-- Write a row's exponent to the sideband of its global block. -/
def State.cvtSide (s : State) (pa : Pair) (blk e : Nat) : State :=
  if !(s.isLocal pa) then s else
  let k := pa.toNat % 128 / blk
  s.sideStore (localOf pa) (BitVec.ofNat 4 (2 ^ k)) (BitVec.ofNat 32 (e * 2 ^ (8 * k)))

/-- The pieces of a row in global memory, translated, or the completion word where one fails: FAULT with the rows written (R253), or
INVALID 9 where the device is absent (25 R435; log 47). -/
def State.cvtMap (s : State) (o : EngOp) (m : MatOp) (i : Nat) : (List (List (Pair × Nat)) ⊕ Word) × State :=
  (cvtPieces m.pfmt i).foldl (fun (r : (List (List (Pair × Nat)) ⊕ Word) × State) p =>
    match r.1 with
    | .inr _ => r
    | .inl acc =>
      match r.2.engMap o (m.a + BitVec.ofNat 64 p.1) p.2 .store with
      | (.inl l, s) => (.inl (acc ++ [l]), s)
      | (.inr .absent, s) => (.inr (cword 7 (9 * 2 ^ 24)), s)
      | (.inr _, s) => (.inr (cword 1 i), s)) (.inl [], s)

/-- Write a converted row, or say with what word the operation ends where an address fails (R252, R253). -/
def State.cvtWrite (s : State) (o : EngOp) (m : MatOp) (i : Nat) (r : CvtRow) : Option Word × State :=
  let parts := (cvtPieces m.pfmt i).zip [r.bytes.take 64, r.bytes.drop 64]
  if !m.global then
    let b := s.opBuf o 0
    let base := 128 * m.a.toNat
    let data := parts.foldl (fun d p => mwriteL d (base + p.1.1) p.2) b.data
    let e := BitVec.ofNat 8 r.exp
    let exps := if m.pfmt < 2 then b.exps
      else if m.pfmt = 2 then mwriteL b.exps ((base + 64 * i) / 32) [e, e] else mwriteL b.exps ((base + 32 * i) / 32) [e]
    (none, s.putBuf o 0 ⟨data, exps⟩)
  else
    match s.cvtMap o m i with
    | (.inr w, s) => (some w, s)
    | (.inl ls, s) =>
      let s := (ls.zip (parts.map (·.2))).foldl (fun s p => s.cvtStore o p.1 p.2) s
      (none, if m.pfmt < 2 then s else match ls with
        | ((pa, _) :: _) :: _ => s.cvtSide pa (if m.pfmt = 2 then 64 else 32) r.exp
        | _ => s)

/-- Whether the next row of a CVTDN holds for an earlier access of its thread to a line of another device that it stores to, because
its stores are those of the thread (R254, 25 R436). -/
def State.cvtHeld (s : State) (o : EngOp) (m : MatOp) : Bool :=
  m.global && decide (m.next < 64) && (cvtPieces m.pfmt m.next).any fun p => (pieces (m.a + BitVec.ofNat 64 p.1) p.2).any fun x =>
    (s.mayBe (s.opCore o) (s.opAsid o) (BitVec.ofNat 64 x.1)).any fun pa => !(s.isLocal pa) && s.blockBusy o.key (s.opCore o) pa

/-- Convert and write the next row of a CVTDN, or complete it after the last. -/
def State.cvtTurn (s : State) (id : Nat) (o : EngOp) (m : MatOp) : State :=
  let i := m.next
  if s.cvtHeld o m then s else
  if i ≥ 64 then (s.opSat id m.sat).matDone id o (cword 0 (m.nan * 2 ^ 13 + m.sat)) else
  let (tiles, s) := s.sees (s.opBuf o 2).data (m.was.map (·.c))
  let row := (List.range 64).map fun j => BitVec.ofNat 32 (mreadN tiles (16384 * m.ct + 256 * i + 4 * j) 4)
  match s.cvtRow m row with
  | (none, s) => s.matDone id o (cword 4 i)
  | (some r, s) =>
    match s.cvtWrite o m i r with
    | (some w, s) => s.matDone id o w
    | (none, s) => (if m.global then s else s.matNoted id o (0, 0)).modWork id
        (.mat { m with next := i + 1, sat := m.sat + r.sat, nan := m.nan + r.nan })

/-- Whether an image of blocks lies wholly in one enabled window of its format, as far as it is mapped (R252, reason 5). -/
def State.cvtWindowed (s : State) (o : EngOp) (m : MatOp) : Bool :=
  let at_ := (pieces m.a (cvtSize m.pfmt)).filterMap fun p =>
    match s.walk (dieOf (s.opCore o)) (s.opAsid o) (BitVec.ofNat 64 p.1) with
    | .leaf e l =>
      let pa := leafPa e l (BitVec.ofNat 64 p.1)
      some (if s.isLocal pa then (s.windowAt (localOf pa)).bind fun w =>
        if w.2.fmt.toNat = (if m.pfmt = 2 then 1 else 2) then some w.1 else none else none)
    | _ => none
  match at_ with
  | [] => true
  | w :: rest => w.isSome && rest.all (· == w)

/-- The INVALID reason that a CVTDN meets, in the order of R252. -/
def State.cvtCheck (s : State) (o : EngOp) (m : MatOp) : Option Nat :=
  if m.global then
    if !(canonical m.a) then some 8
    else if m.a.toNat % 128 ≠ 0 then some 1
    else if m.pfmt ≥ 2 ∧ !(s.cvtWindowed o m) then some 5 else none
  else if 128 * m.a.toNat + cvtSize m.pfmt > 262144 then some 7 else none

/-! ## The beginning of an operation (R239, R242) -/

/-- The INVALID reason that an operation meets when its turn has come. -/
def State.matCheck (s : State) (o : EngOp) (m : MatOp) : Option Nat :=
  if !((s.ctx? o.key.ctx).any (·.typed)) then some 6 else
  match m.kind with
  | .mloop => if m.a.toNat ≥ 2048 ∨ m.b.toNat ≥ 4096 then some 7 else none
  | .cvtdn => s.cvtCheck o m
  | _ => none

/-- Whether the unit and the buffers are the context's, or can pass to it now (10 R226). -/
def State.matReady (s : State) (o : EngOp) : Bool :=
  match s.ctx? o.key.ctx with
  | none => false
  | some c => c.moving.isNone && (List.range 3).all fun b =>
      (s.core c.core).owner b == some o.key.ctx || (c.place == .active && !(s.typedBusy c.core o.key.ctx b))

/-- Begin or resume the operation at the head of its queue. -/
def State.matBegin (s : State) (id : Nat) (o : EngOp) (m : MatOp) : State :=
  if o.canceled then s.matDone id o (cword 2 m.next) else
  match s.matCheck o m with
  | some r => s.matDone id o (cword 7 (r * 2 ^ 24))
  | none =>
    if !(s.matReady o) then s else
    let s := (List.range 3).foldl (fun s b => s.opTyped o b) s
    let nt := if m.next = 0 then ((s.ctx? o.key.ctx).map fun c => c.regs.matctl.getLsbD 0).getD false else m.nt
    let (cbuf, s) := if m.kind == .mloop || m.kind == .mfold then s.sees (s.opBuf o 2).data (m.was.map (·.c)) else ([], s)
    match m.kind with
    | .mloop =>
      let fresh := m.next == 0 && m.zero
      s.matStep id o { m with
        nt
        even := if fresh then zeroPlane else tileRead cbuf m.ct
        odd := if fresh then zeroPlane else tileRead cbuf (m.ct + 1) }
    | .mfold =>
      let (new, nan) := foldPlanes (tileRead cbuf m.ct) (tileRead cbuf (m.ct + 1))
      let s := s.matPlanes id o m.ct [new, zeroPlane]
      if nt ∧ nan ≠ 0 then (s.nanStop o true m.ct (nan - 1)).matDone id o (cword 6 0) else s.matDone id o (cword 0 0)
    | .mzero =>
      let k := field m.w1.toNat 3 0 + 1
      (s.matPlanes id o m.ct (List.replicate k zeroPlane)).matDone id o (cword 0 k)
    | .cvtdn => s.modWork id (.mat { m with begun := true })

/-- The operation at the head of a context's matrix queue. -/
def State.matHead (s : State) (ctx : Nat) : Option (Nat × EngOp × MatOp) :=
  ((s.ctx? ctx).bind fun c => c.matq.head?).bind fun id => (tget s.ops id).bind fun o =>
    match o.work with
    | .mat m => if o.result.isNone then some (id, o, m) else none
    | _ => none

/-- The next progress of a matrix operation; one that waits in its queue can only be cancelled. -/
def State.matTurn (s : State) (id : Nat) (o : EngOp) (m : MatOp) : State :=
  if m.begun then (if m.kind == .cvtdn then s.cvtTurn id o m else s.mloopBoundary id o m (s.handsOver o.key.ctx))
  else if o.canceled || (s.matHead o.key.ctx).any fun h => h.1 == id then s.matBegin id o m else s

/-- MATRIX_OP_BEGIN: the unit begins or resumes the next queued operation of a context. -/
def execMatrixOpBegin (ctx : Nat) (s : State) : Host.Outcome State Fault Refusal :=
  .next (match s.matHead ctx with
    | some (id, o, m) => if m.begun then s else s.matBegin id o m
    | none => s)

/-- MLOOP_STEP_BOUNDARY: a boundary with a hand-over takes place only where one is asked for, and one without only where none is
(R248). -/
def execMloopStepBoundary (ctx : Nat) (handover : Bool) (s : State) : Host.Outcome State Fault Refusal :=
  .next (match s.matHead ctx with
    | some (id, o, m) => if m.begun && m.kind == .mloop && handover == s.handsOver ctx then s.mloopBoundary id o m handover else s
    | none => s)

/-! ## Issue (R238) -/

/-- The operation that this issue has started, if it has: one whose identifier is not below the first that it could take. -/
def State.matStarted (s : State) (first : Nat) : Option (Nat × EngOp) :=
  s.ops.find? fun o => decide (first ≤ o.1) && match o.2.work with
    | .mat _ => true
    | _ => false

/-- One member of a matrix issue: the first starts the operation, the others share it. -/
def State.matMember (s : State) (i : Instr) (first : Nat) (k : Key) (d : Dst) (w : MatOp) : State × Out :=
  match s.matStarted first with
  | some (id, o) =>
    let s := { s with ops := tset s.ops id { o with also := o.also ++ [k] } }
    (s.modThread k fun th => th.holdFuture s.site.rep i d o.slot o.gen, .next)
  | none =>
    let id := s.fresh
    match s.startOp i k d 1 (.mat w) none with
    | (s, .next) => (s.modCtx k.ctx fun c => { c with matq := c.matq ++ [id] }, .next)
    | r => r

/-- Issue a matrix instruction: it stalls while its context's queue holds 8 operations, or while no slot is FREE and some will be. -/
def State.issueMat (s : State) (i : Instr) (d : Dst) (kind : MatKind) (ops : Option Rep → Thread → Pair × Pair) : State :=
  if s.stalls i then s.noteStall else
  if (s.site.members.any fun m => (s.faultOf i m).isNone) && ((s.ctx? s.site.ctx).map fun c => decide (c.matq.length ≥ 8) || (decide (c.slotsRunning > 0) && decide (c.slotsUsed ≥ 1024))).getD false
  then s.noteStall else
  s.afterRelease i 1 fun s =>
    let first := s.fresh
    s.issueEach i fun s k _ th =>
      let (a, b) := ops s.site.rep th
      s.matMember i first k d { kind, w0 := s.site.w0, w1 := (encode i).getD 1 0, a, b, begun := false, next := 0, nt := false,
                                even := [], odd := [], sat := 0, nan := 0
                                was := [s.buffers k.ctx s.site.core], wrote := [], before := [] }

def execMloop (d : Dst) (a b : Sel) (ct : BitVec 8) (ainc winc : BitVec 4) (fmt : BitVec 2) (fin zero : Bool) (steps : BitVec 12)
    (s : State) : Host.Outcome State Fault Refusal :=
  .next (s.issueMat (.mloop d a b ct ainc winc fmt fin zero steps) d .mloop fun rep th =>
    ((rd32 rep th .a a).setWidth 64, (rd32 rep th .b b).setWidth 64))

def execMfold (d : Dst) (t : BitVec 8) (s : State) : Host.Outcome State Fault Refusal :=
  .next (s.issueMat (.mfold d t) d .mfold fun _ _ => (0, 0))

def execMzero (d : Dst) (t : BitVec 8) (km1 : BitVec 4) (s : State) : Host.Outcome State Fault Refusal :=
  .next (s.issueMat (.mzero d t km1) d .mzero fun _ _ => (0, 0))

def execCvtdn (d : Dst) (a : Sel) (t : BitVec 8) (rm : BitVec 3) (ovf : BitVec 2) (dsp : Bool) (pfmt : BitVec 2) (s : State) :
    Host.Outcome State Fault Refusal :=
  .next (s.issueMat (.cvtdn d a t rm ovf dsp pfmt) d .cvtdn fun rep th =>
    (if dsp then rd64 rep th .a a else (rd32 rep th .a a).setWidth 64, 0))

end Sys2Proof.Machine
end

