-- ==== Sys2Proof/Machine/Lantern.lean ====
section
/-! DEFINITION. Lanterns (17): the lease queue, grants and snuffing, LEASE, UNLEASE, LSTAT, the commands queued on a lantern, and
the merge lantern's MRG. -/

namespace Sys2Proof.Machine

/-! ## The lanterns of a die (R325 to R327) -/

/-- A dark lantern that nobody has used. -/
def Lantern.reset : Lantern :=
  { st := .dark, ctx := 0, tslot := 0, leased := false, op := 0, pri := 0, granted := 0, litAt := 0, since := 0, why := .lease,
    queue := [] }

def State.lantern (s : State) (die id : Nat) : Lantern := (tget (s.die die).lanterns id).getD Lantern.reset
def State.setLantern (s : State) (die id : Nat) (l : Lantern) : State :=
  s.modDie die fun d => { d with lanterns := tset d.lanterns id l }

/-- The ids of a kind: 0 merge, 1 neighbour. -/
def kindIds (kind : Nat) : List Nat := upTo (16 * kind) 16

/-- Whether a lantern holds a power slot. -/
def Lantern.holds (l : Lantern) : Bool := l.st == .warming || l.st == .lit || l.st == .snuffed

/-- The lanterns of a die that hold power slots. -/
def State.holders (s : State) (die : Nat) : List Nat := (List.range 32).filter fun id => (s.lantern die id).holds

/-- The entries of a lease queue in order: priority, then age (R329). -/
def leaseOrder (q : List LeaseReq) : List LeaseReq :=
  q.foldl (fun acc e =>
    let before := fun (x : LeaseReq) => decide (x.pri > e.pri) || (x.pri == e.pri && decide (x.age < e.age))
    acc.takeWhile before ++ e :: acc.dropWhile before) []

/-- The lantern that an entry can be granted: the lowest glowing one of its kind, else the lowest dark one, with a slot free. -/
def State.grantable (s : State) (die : Nat) (e : LeaseReq) : Option Nat :=
  if (s.holders die).length ≥ (s.die die).power.cap then none else
  match (kindIds e.kind).find? fun id => (s.lantern die id).st == .glowing with
  | some id => some id
  | none => (kindIds e.kind).find? fun id => (s.lantern die id).st == .dark

/-- Grant a lantern to an entry: it warms (R326). -/
def State.grant (s : State) (die id : Nat) (e : LeaseReq) : State :=
  let (n, s) := s.freshId
  let s := s.setLantern die id { Lantern.reset with
    st := .warming, ctx := e.ctx, tslot := e.tslot, leased := true, op := e.op, pri := e.pri, granted := n, since := s.us }
  s.modDie die fun d => { d with leaseQ := d.leaseQ.filter fun x => x.op != e.op }

/-- Grant until no entry can be served; each turn takes the first that can. -/
def State.grantAll (s : State) (die : Nat) : Nat → State
  | 0 => s
  | n + 1 =>
    match (leaseOrder (s.die die).leaseQ).findSome? fun e => (s.grantable die e).map fun id => (id, e) with
    | some (id, e) => (s.grant die id e).grantAll die n
    | none => s

/-! ## Snuffing (R330, R331) -/

/-- Write a command's descriptor to its scratch; F bits are unchanged (R339, 18 R349). -/
def State.putDesc (s : State) (o : EngOp) (c : CmdOp) : State :=
  if c.begun then s.modTeam o.key.ctx o.key.tslot fun t => { t with
    scratch := mwriteL t.scratch c.off (c.desc.flatMap fun w => leBytes 4 w.toNat) } else s

/-- Stop a command that has not ended with a status: its descriptor is written, and the value is what it has done. -/
def State.cmdStop (s : State) (id status : Nat) : State :=
  match tget s.ops id with
  | some o =>
    match o.work with
    | .cmd c => if o.result.isSome then s else (s.putDesc o c).finish id (cword status (min c.count 0x0FFFFFFF))
    | _ => s
  | none => s

/-- Change a lease record of a team: the held record of an id, to lost or to free. -/
def Team.unhold (t : Team) (id : Nat) (lost : Bool) : Team :=
  { t with leases := (t.leases.filter fun r => !(r.held && r.id == id)) ++
      (if lost && t.leases.any fun r => r.held && r.id == id then [⟨id, false⟩] else []) }

/-- Snuff a lantern (R331): its commands complete SNUFFED, the lessee's record becomes lost, and its state is discarded. A lantern
that warms when its lessee's context leaves the die has its LEASE completed CANCELLED (R332). -/
def State.snuff (s : State) (die id : Nat) (why : SnuffFor) : State :=
  let l := s.lantern die id
  let s := if l.st = .warming then s.finish l.op (cword 2 0)
    else (l.queue.foldl (fun s op => s.cmdStop op 3) s).modTeam l.ctx l.tslot (Team.unhold · id true)
  s.setLantern die id { l with st := .snuffed, leased := false, why, since := s.us, queue := [] }

/-- How long a lit lantern has been lit, in nanoseconds, as the time counter stands. -/
def State.litFor (s : State) (l : Lantern) : Nat := s.ns.toNat - l.litAt

/-- Whether a lantern is lit and past its minimum hold of 8 µs. -/
def State.pastHold (s : State) (die id : Nat) : Bool :=
  let l := s.lantern die id
  l.st == .lit && decide (8000 ≤ s.litFor l)

/-- The victim among some lanterns: the lowest priority, then the most recently granted. -/
def State.victim (s : State) (die : Nat) (ids : List Nat) : Option Nat :=
  ids.foldl (fun m id =>
    let l := s.lantern die id
    match m with
    | none => some id
    | some x =>
      let y := s.lantern die x
      if l.pri < y.pri ∨ (l.pri = y.pri ∧ l.granted > y.granted) then some id else some x) none

/-- Snuff for the power cap, one lantern for each unit of fuel, while more hold slots than the cap leaves once those being
snuffed have gone. -/
def State.snuffForCap (s : State) (die : Nat) : Nat → State
  | 0 => s
  | n + 1 =>
    let keep := (s.holders die).filter fun id => (s.lantern die id).st != .snuffed
    if keep.length ≤ (s.die die).power.cap then s else
    match s.victim die (keep.filter fun id => s.pastHold die id) with
    | some id => (s.snuff die id .cap).snuffForCap die n
    | none => s

/-- Snuff for the first waiting lease, unless one has been snuffed for it. -/
def State.snuffForLease (s : State) (die : Nat) : State :=
  match leaseOrder (s.die die).leaseQ with
  | [] => s
  | e :: _ =>
    if e.snuffed then s else
    let own := (kindIds e.kind).all fun id => (s.lantern die id).leased
    let ids := (if own then kindIds e.kind else List.range 32).filter fun id =>
      s.pastHold die id && decide ((s.lantern die id).pri < e.pri)
    match s.victim die ids with
    | none => s
    | some id => (s.snuff die id .lease).modDie die fun d => { d with
        leaseQ := d.leaseQ.map fun x => if x.op = e.op then { x with snuffed := true } else x }

/-- A glowing lantern is dark once 40 µs have passed for certain (R326). -/
def State.darken (s : State) (die : Nat) : State :=
  (List.range 32).foldl (fun s id =>
    if (s.lantern die id).st = .glowing ∧ s.us > (s.lantern die id).since + 40 then s.setLantern die id { Lantern.reset with since := s.us }
    else s) s

/-- The grants of an evaluation (R329). -/
def State.lanternGrants (s : State) (die : Nat) : State := (s.darken die).grantAll die 128

/-- The snuffing of an evaluation (R330). -/
def State.lanternSnuffs (s : State) (die : Nat) : State := (s.snuffForCap die 32).snuffForLease die

/-- The evaluation at the boundary of a control interval (R329, R330). -/
def State.lanternBoundary (s : State) (die : Nat) : State := (s.lanternGrants die).lanternSnuffs die

/-- The evaluation at a change of the queue, of a lantern or of the cap (R329, R330), which takes place at some moment of its
microsecond (log 24): where a lantern may be snuffed the time counter moves on to that moment. -/
def State.lanternEval (s : State) (die : Nat) : State :=
  let s := s.lanternGrants die
  if (s.die die).leaseQ.isEmpty ∧ (s.holders die).length ≤ (s.die die).power.cap then s else s.readTime.2.lanternSnuffs die

/-! ## LEASE, UNLEASE and LSTAT (R335 to R337) -/

/-- Records, queued leases and warming grants of a team. -/
def State.leaseUse (s : State) (die : Nat) (k : Key) : Nat :=
  let recs := ((s.team? k.ctx k.tslot).map (·.leases.length)).getD 0
  let queued := ((s.die die).leaseQ.filter fun e => e.ctx == k.ctx && e.tslot == k.tslot).length
  let warm := ((List.range 32).filter fun id =>
    let l := s.lantern die id
    l.st == .warming && l.ctx == k.ctx && l.tslot == k.tslot).length
  recs + queued + warm

/-- The die whose lanterns an operation of a context names. -/
def State.lanternDie (s : State) (k : Key) : Nat := dieOf (((s.ctx? k.ctx).map (·.core)).getD 0)

def execLease (d : Dst) (kind : BitVec 8) (pri : BitVec 2) (s : State) : Host.Outcome State Fault Refusal :=
  .next (s.issueEng (.lease d kind pri) 1 fun s k _ _ =>
    let die := s.lanternDie k
    let result := if s.leaseUse die k ≥ 4 then some (cword 7 (12 * 2 ^ 24))
      else if (s.die die).leaseQ.length ≥ 128 then some (cword 8 (4 * 2 ^ 24)) else none
    let id := s.fresh
    match s.startOp (.lease d kind pri) k d 1 (.lease kind.toNat pri.toNat) result with
    | (s, .next) =>
      let s := if result.isSome then s else
        (s.modDie die fun x => { x with leaseQ := x.leaseQ ++ [⟨id, false, k.ctx, k.tslot, kind.toNat, pri.toNat, id⟩] }).lanternEval die
      (s, .next)
    | r => r)

/-- Cancel a LEASE that is still queued (R335). -/
def State.leaseTurn (s : State) (id : Nat) (o : EngOp) : State :=
  let die := dieOf o.core
  if o.canceled && (s.die die).leaseQ.any fun e => e.op == id then
    ((s.modDie die fun d => { d with leaseQ := d.leaseQ.filter fun e => e.op != id }).finish id (cword 2 0)).lanternEval die
  else s

/-- The traps of a lantern id: out of range, or no record of the team. -/
def Team.lanternFault (t : Team) (id : Nat) (needsRecord : Bool) : Option Nat :=
  if id ≥ 32 then some 0x0C1
  else if needsRecord && !(t.leases.any fun r => r.id == id) then some 0x0C0 else none

def execUnlease (d : Dst) (a : Sel) (s : State) : Host.Outcome State Fault Refusal :=
  .next (s.issueEng (.unlease d a) 1 fun s k t th =>
    let id := (rd32 s.site.rep th .a a).toNat
    match t.lanternFault id true with
    | some c => (s, .trap c 0 0)
    | none => s.startOp (.unlease d a) k d 1 (.unlease id none) none)

/-- The commands on a lantern that have not completed. -/
def State.commands (s : State) (die id : Nat) : List Nat :=
  (s.lantern die id).queue.filter fun op => (tget s.ops op).isSome

/-- A lantern released by its lessee: glowing, with its record freed; the die evaluates. -/
def State.releaseLantern (s : State) (die id : Nat) (k : Key) : State :=
  let s := s.modTeam k.ctx k.tslot (Team.unhold · id false)
  (s.setLantern die id { Lantern.reset with st := .glowing, since := s.us }).lanternEval die

/-- Free one lost record of an id. -/
def Team.freeLost (t : Team) (id : Nat) : Team :=
  match t.leases.findIdx? fun r => r.id == id && !r.held with
  | some n => { t with leases := t.leases.eraseIdx n }
  | none => t

/-- UNLEASE (R336): the commands end, the lantern glows, and the operation completes after those commands have. -/
def State.unleaseTurn (s : State) (id : Nat) (o : EngOp) (lantern : Nat) (waits : Option (List Nat)) : State :=
  match waits with
  | some l => if l.any fun x => (tget s.ops x).isSome then s else s.finish id (cword 0 0)
  | none =>
    let die := s.lanternDie o.key
    let held := (s.team? o.key.ctx o.key.tslot).any fun t => t.leases.any fun r => r.held && r.id == lantern
    if !held then (s.modTeam o.key.ctx o.key.tslot (Team.freeLost · lantern)).finish id (cword 0 1) else
    let cmds := s.commands die lantern
    let s := cmds.foldl (fun s x => s.cmdStop x 2) s
    (s.releaseLantern die lantern o.key).modWork id (.unlease lantern (some cmds))

/-- The LSTAT word of a lantern as a team sees it (R337). -/
def State.lstatWord (s : State) (die : Nat) (k : Key) (t : Team) (id : Nat) : Word :=
  let l := s.lantern die id
  let st := match l.st with
    | .dark => 0
    | .warming => 1
    | .lit => 2
    | .glowing => 3
    | .snuffed => 4
  let held := if l.st = .lit then min 4095 (s.litFor l / 1000) else 0
  let qlen := ((s.die die).leaseQ.filter fun e => e.kind == id / 16).length
  let run := (s.commands die id).any fun op => (tget s.ops op).any fun o => match o.work with
    | .cmd c => o.result.isNone && !c.desc.isEmpty
    | _ => false
  let mine := l.leased && l.ctx == k.ctx && l.tslot == k.tslot
  let lost := t.leases.any fun r => r.id == id && !r.held
  cword 0 (held * 2 ^ 16 + qlen % 256 * 2 ^ 8 + (if run then 2 ^ 7 else 0) + (if l.leased then l.pri else 0) * 2 ^ 5
    + (if mine then 2 ^ 4 else 0) + (if lost then 2 ^ 3 else 0) + st)

def execLstat (d : Dst) (a : Sel) (s : State) : Host.Outcome State Fault Refusal :=
  .next (s.issueEng (.lstat d a) 1 fun s k t th =>
    let id := (rd32 s.site.rep th .a a).toNat
    match t.lanternFault id false with
    | some c => (s, .trap c 0 0)
    | none => s.startOp (.lstat d a) k d 1 .known (some (s.lstatWord (s.lanternDie k) k t id)))

/-! ## Changes of a lantern's state (R326) -/

/-- LANTERN_LIT: the wake time ends; the LEASE completes with a held record. -/
def execLanternLit (die id : Nat) (s : State) : Host.Outcome State Fault Refusal :=
  let l := s.lantern die id
  .next (if l.st ≠ .warming then s else
    let (t, s) := s.readTime
    let s := s.setLantern die id { l with st := .lit, litAt := t.toNat, since := s.us }
    let s := s.modTeam l.ctx l.tslot fun t => { t with leases := t.leases ++ [⟨id, true⟩] }
    (s.finish l.op (cword 0 id)).lanternEval die)

/-- SNUFF_END: a snuffed lantern becomes glowing, or dark where the power cap snuffed it. -/
def execSnuffEnd (die id : Nat) (s : State) : Host.Outcome State Fault Refusal :=
  let l := s.lantern die id
  .next (if l.st ≠ .snuffed then s else
    (s.setLantern die id { Lantern.reset with st := if l.why = .cap then .dark else .glowing, since := s.us }).lanternEval die)

/-- LANTERN_DARK: 40 µs after it became glowing, within the interval in which they end. -/
def execLanternDark (die id : Nat) (s : State) : Host.Outcome State Fault Refusal :=
  let l := s.lantern die id
  .next (if l.st ≠ .glowing ∨ s.us < l.since + 40 then s else
    (s.setLantern die id { Lantern.reset with since := s.us }).lanternEval die)

/-! ## Commands (R338, 18 R344) -/

/-- Issue a command for one member: a record that is lost completes SNUFFED, a lantern with four commands stalls its issuer. -/
def State.startCmd (s : State) (i : Instr) (k : Key) (t : Team) (d : Dst) (scope : BitVec 3) (cmd : LanternCmd) (id off : Nat) : State × Out :=
  match t.lanternFault id true with
  | some c => (s, .trap c 0 0)
  | none =>
    if !(t.leases.any fun r => r.held && r.id == id) then s.startOp i k d scope .known (some (cword 3 0)) else
    let die := s.lanternDie k
    if (s.commands die id).length ≥ 4 then (s, s.stay) else
    let op := s.fresh
    match s.startOp i k d scope (.cmd ⟨cmd, id, off, false, 0, [], [], 0, none, []⟩) none with
    | (s, .next) => (s.setLantern die id { s.lantern die id with queue := s.commands die id ++ [op] }, .next)
    | r => r

/-- Whether a command may run: it is the first of its lantern's commands, the lantern is lit, and its context is active on the die. -/
def State.cmdRuns (s : State) (id : Nat) (o : EngOp) (c : CmdOp) : Bool :=
  let die := dieOf o.core
  (s.commands die c.lantern).head? == some id && (s.lantern die c.lantern).st == .lit &&
    (s.ctx? o.key.ctx).any fun x => x.place == .active && dieOf x.core == die

/-- Suspend the running commands of a context that leaves the active bank (R332). -/
def State.suspendCmds (s : State) (ctx : Nat) : State :=
  s.ops.foldl (fun s e =>
    match e.2.work with
    | .cmd c => if e.2.key.ctx = ctx ∧ c.begun ∧ e.2.result.isNone then
        (s.putDesc e.2 c).modWork e.1 (.cmd { c with begun := false, half := none }) else s
    | _ => s) s

/-- Where a lantern accesses memory: canonical form, translation, device, then the local address. -/
def State.lanAt (s : State) (o : EngOp) (va : Pair) (acc : Acc) : (Nat ⊕ Got) × State :=
  if !(canonical va) then (.inr .bad, s) else
  match s.engineTr (s.opCore o) (s.opAsid o) va acc o.sup with
  | (none, s) => (.inr .fault, s)
  | (some pa, s) => (if s.isLocal pa then .inl (localOf pa) else .inr .absent, s)

/-- A lantern reads at the home slices the bytes of one sector. -/
def State.lanRead (s : State) (o : EngOp) (va : Pair) (n : Nat) : Got × State :=
  match s.lanAt o va .load with
  | (.inr g, s) => (g, s)
  | (.inl a, s) =>
    let (v, s) := s.homeLoad a n
    (.bytes (leBytes n v), s)

/-- Where a lantern writes. -/
def State.lanMap (s : State) (o : EngOp) (va : Pair) : (Nat ⊕ Got) × State := s.lanAt o va .store

/-- The places of several writes in order, or why the first that has none has none. -/
def State.lanMaps (s : State) (o : EngOp) (vas : List Pair) : (List Nat ⊕ Got) × State :=
  vas.foldl (fun (r : (List Nat ⊕ Got) × State) va =>
    match r.1 with
    | .inr _ => r
    | .inl l =>
      match r.2.lanMap o va with
      | (.inl a, s) => (.inl (l ++ [a]), s)
      | (.inr g, s) => (.inr g, s)) (.inl [], s)

/-- A lantern's write of bytes in one sector. -/
def State.lanPut (s : State) (a : Nat) (b : List Byte) : State :=
  if inHbm a then s.homeWrite a b.length (leNat b) else s.setUnbk

/-- The words of a descriptor. -/
def CmdOp.w (c : CmdOp) (k : Nat) : Word := c.desc.getD k 0
def CmdOp.q (c : CmdOp) (k : Nat) : Pair := pairOf (c.w k) (c.w (k + 1))
def CmdOp.setW (c : CmdOp) (k : Nat) (v : Word) : CmdOp := { c with desc := c.desc.set k v }
def CmdOp.setQ (c : CmdOp) (k : Nat) (v : Pair) : CmdOp := (c.setW k (loWord v)).setW (k + 1) (hiWord v)

/-- The words of a command's block in scratch. -/
def State.readDesc (s : State) (o : EngOp) (off n : Nat) : List Word :=
  (List.range n).map fun k => BitVec.ofNat 32 (s.scrRead (o.scr (off + 4 * k)) 4)

/-- End a command whose access failed: FAULT, or INVALID with a reason, in each case with its descriptor written. -/
def State.cmdFail (s : State) (id : Nat) (o : EngOp) (c : CmdOp) (g : Got) : State :=
  let s := s.putDesc o c
  match g with
  | .absent => s.finish id (cword 7 (9 * 2 ^ 24 + match c.cmd with
      | .mrg _ _ => min c.count 0xFFFFFF
      | _ => 0))
  | .bad => s.finish id (cword 7 (8 * 2 ^ 24))
  | _ => s.finish id (cword 1 (min c.count 0x0FFFFFFF))

/-- A command completes. -/
def State.cmdDone (s : State) (id : Nat) (o : EngOp) (c : CmdOp) (w : Word) : State := (s.putDesc o c).finish id w

/-! ## MRG (R339 to R341) -/

/-- The check of an MRG that fails first, as an INVALID reason. -/
def mrgCheck (c : CmdOp) (op : BitVec 8) (size : Nat) (scr : Nat) : Option Nat :=
  let ptrs := [c.q 0, c.q 2] ++ if op = 4 then [] else [c.q 4]
  if c.lantern ≥ 16 then some 2
  else if c.off % 16 ≠ 0 then some 1
  else if c.off + 32 > scr then some 7
  else if ptrs.any fun p => p.toNat % size ≠ 0 then some 1
  else if ptrs.any fun p => !(canonical p) then some 8
  else none

/-- What a step of R340 does: whether a and b are consumed, the keys emitted, and the matches counted; none when done. -/
def mrgStep (op : BitVec 8) (a b : Option Nat) : Option (Bool × Bool × List Nat × Nat) :=
  let isect := op == 0
  let union := op == 1
  let diff := op == 2
  let merge := op == 3
  match a, b with
  | none, none => none
  | none, some y => if union || merge then some (false, true, [y], 0) else none
  | some x, none => if union || merge || diff then some (true, false, [x], 0) else none
  | some x, some y =>
    if x < y then some (true, false, if union || merge || diff then [x] else [], 0)
    else if y < x then some (false, true, if union || merge then [y] else [], 0)
    else some (true, true, if isect || union then [x] else if merge then [x, y] else [], if op == 4 then 1 else 0)

/-- The next key of a stream, if it has one: its cursor word and its remaining count word. A key that the command has overwritten
has its original or its present value, freely. -/
def State.mrgKey (s : State) (o : EngOp) (c : CmdOp) (cur rem size : Nat) (need : Bool) : (Option Nat ⊕ Got) × State :=
  if c.w rem = 0 ∨ !need then (.inl none, s) else
  match s.lanAt o (c.q cur) .load with
  | (.inr g, s) => (.inr g, s)
  | (.inl a, s) =>
    let (v, s) := s.homeLoad a size
    match tget c.old a with
    | none => (.inl (some v), s)
    | some w =>
      if w = v then (.inl (some v), s) else
      let (k, s) := s.drawBool
      (.inl (some (if k then w else v)), s)

/-- Advance a stream. -/
def CmdOp.consume (c : CmdOp) (cur rem size : Nat) (yes : Bool) : CmdOp :=
  if yes then (c.setQ cur (c.q cur + BitVec.ofNat 64 size)).setW rem (c.w rem - 1) else c

/-- Write the keys of a step, all or none, keeping what the command overwrites. -/
def State.mrgEmit (s : State) (o : EngOp) (old : Tab Nat) (out : Pair) (size : Nat) (keys : List Nat) : (Tab Nat ⊕ Got) × State :=
  match s.lanMaps o ((List.range keys.length).map fun k => out + BitVec.ofNat 64 (size * k)) with
  | (.inr g, s) => (.inr g, s)
  | (.inl places, s) =>
    let l := places.zip keys
    let old := l.foldl (fun t e => if (tget t e.1).isSome || !(inHbm e.1) then t else tset t e.1 (s.homeNat e.1 size)) old
    (.inl old, l.foldl (fun s e => s.lanPut e.1 (leBytes size e.2)) s)

/-- One step of an MRG. -/
def State.mrgTurn (s : State) (id : Nat) (o : EngOp) (c : CmdOp) (op : BitVec 8) (size : Nat) : State :=
  let both := c.w 6 != 0 && c.w 7 != 0
  let needA := both || op == 1 || op == 2 || op == 3
  let needB := both || op == 1 || op == 3
  match s.mrgKey o c 0 6 size needA with
  | (.inr g, s) => s.cmdFail id o c g
  | (.inl a, s) =>
    match s.mrgKey o c 2 7 size needB with
    | (.inr g, s) => s.cmdFail id o c g
    | (.inl b, s) =>
      match mrgStep op a b with
      | none => s.cmdDone id o c (cword 0 (min c.count 0x0FFFFFFF))
      | some (useA, useB, keys, hits) =>
        match s.mrgEmit o c.old (c.q 4) size keys with
        | (.inr g, s) => s.cmdFail id o c g
        | (.inl old, s) =>
          let c := ((c.consume 0 6 size useA).consume 2 7 size useB)
          let out := c.q 4 + BitVec.ofNat 64 (size * keys.length + hits)
          s.modWork id (.cmd { c.setQ 4 out with count := c.count + keys.length + hits, old })

/-- The beginning of an MRG: its descriptor and its checks. -/
def State.mrgBegin (s : State) (id : Nat) (o : EngOp) (c : CmdOp) (op : BitVec 8) (size : Nat) : State :=
  let c' := { c with desc := s.readDesc o c.off 8 }
  match mrgCheck c' op size (s.opScrSize o) with
  | some r => s.finish id (cword 7 (r * 2 ^ 24))
  | none => s.modWork id (.cmd { c' with begun := true })

def execMrg (d : Dst) (a b : Sel) (op : BitVec 8) (w : BitVec 2) (scope : BitVec 3) (imm : BitVec 12) (s : State) :
    Host.Outcome State Fault Refusal :=
  .next (s.issueEng (.mrg d a b op w scope imm) scope fun s k t th =>
    s.startCmd (.mrg d a b op w scope imm) k t d scope (.mrg op (w == 3)) (rd32 s.site.rep th .a a).toNat
      (rd32 s.site.rep th .b b + imm.signExtend 32).toNat)

/-! ## The end of a team, and leaving a die (R332, R333) -/

/-- The lanterns of a die that a team holds or warms. -/
def State.lanternsOf (s : State) (die ctx tslot : Nat) : List Nat :=
  (List.range 32).filter fun id => let l := s.lantern die id
    l.leased && l.ctx == ctx && l.tslot == tslot

/-- Drop the queued leases of some teams: they complete CANCELLED. -/
def State.dropLeases (s : State) (die : Nat) (sel : LeaseReq → Bool) : State :=
  let gone := (s.die die).leaseQ.filter sel
  let s := s.modDie die fun d => { d with leaseQ := d.leaseQ.filter fun e => !(sel e) }
  gone.foldl (fun s e => s.finish e.op (cword 2 0)) s

/-- A team whose threads have ended gives up its leases; whether a warming lantern or a command is still to end. -/
def State.endLeases (s : State) (ctx tslot : Nat) : State × Bool :=
  let die := dieOf (((s.ctx? ctx).map (·.core)).getD 0)
  let s := s.dropLeases die fun e => e.ctx == ctx && e.tslot == tslot
  let ids := s.lanternsOf die ctx tslot
  let s := ids.foldl (fun s id =>
    if (s.lantern die id).st = .lit ∧ (s.commands die id).isEmpty then s.releaseLantern die id ⟨ctx, tslot, 0⟩ else s) s
  (s.lanternEval die, !(s.lanternsOf die ctx tslot).isEmpty)

/-- A context leaves a die: its queued leases end, and its lanterns are snuffed at once. -/
def State.departLanterns (s : State) (die ctx : Nat) : State :=
  let s := s.dropLeases die fun e => e.ctx == ctx
  let ids := (List.range 32).filter fun id => let l := s.lantern die id
    l.leased && l.ctx == ctx && (l.st == .lit || l.st == .warming)
  (ids.foldl (fun s id => s.snuff die id .departed) s).lanternEval die

end Sys2Proof.Machine
end

