-- ==== Sys2Proof/Machine/Neighbour.lean ====
section
/-! DEFINITION. The neighbour lantern (18): NBRGRID, NBRBIN, NBRPAIR and NBRCHK, and the grid region that they share. The layout of
the region is the model's own (log 27). -/

namespace Sys2Proof.Machine

/-! ## Exact coordinates (R346, R348, R351) -/

/-- A finite F32 as a multiple of 2^−149. -/
def fx (w : Word) : Int :=
  match f32.value w.toNat with
  | .fin s m e => scaled s m e (-149)
  | _ => 0

def finite32 (w : Word) : Bool :=
  match f32.value w.toNat with
  | .fin _ _ _ => true
  | _ => false

/-- F32 sum and product, rounded once. -/
def addW (a b : Word) : Word := BitVec.ofNat 32 (addF32 a.toNat b.toNat)
def mulW (a b : Word) : Word := BitVec.ofNat 32 (f32.deliver 0 1 0 (mulV (f32.value a.toNat) (f32.value b.toNat))).bits
/-- An exact multiple of 2^lo, rounded to F32. -/
def roundW (v : Int) (lo : Int) : Word := BitVec.ofNat 32 (f32.round 0 1 0 (decide (v < 0)) v.natAbs lo).bits

/-- The stored coordinate of R348: taken into the box on a periodic axis. -/
def placeX (per : Bool) (l x : Word) : Word :=
  if !per then x else
  let r := roundW (fx x % fx l) (-149)
  if r = l then 0 else r

/-- The cell index of R348 on an axis of `nc` cells. -/
def cellOf (per : Bool) (l x : Word) (nc : Nat) : Nat :=
  let i := fx (placeX per l x) * nc / fx l
  if i < 0 then 0 else min (nc - 1) i.toNat

/-- The separation on an axis, the nearest image on a periodic one (R351). -/
def sepX (per : Bool) (l a b : Word) : Word :=
  let d := addW a (b ^^^ 0x80000000#32)
  if !per then d else
  let d := if 2 * fx d > fx l then addW d (l ^^^ 0x80000000#32) else d
  if 2 * fx d < -(fx l) then addW d l else d

/-- The rounded sum of squares of three separations. -/
def sumSq (d : List Word) : Word :=
  if d.all finite32 then roundW ((d.map fun x => fx x * fx x).sum) (-298) else BitVec.ofNat 32 (f32.inf false)

/-- Whether one F32 is at most another. -/
def leW (a b : Word) : Bool := !((f32.value b.toNat).lt (f32.value a.toNat))

/-! ## The grid header (R346, R347) -/

/-- The header's words: the 12 words of the parameter block, a mark, the binning state and the count (log 27). -/
abbrev Grid := List Word

/-- The mark of a grid header. -/
def gridMark : Word := 0x4E425247#32

def Grid.g (h : Grid) (k : Nat) : Word := List.getD h k 0
def Grid.len (h : Grid) (axis : Nat) : Word := h.g (2 + axis)
def Grid.cut (h : Grid) : Word := h.g 5
def Grid.skin (h : Grid) : Word := h.g 6
def Grid.nc (h : Grid) (axis : Nat) : Nat := field (h.g 7).toNat (6 * axis + 5) (6 * axis) + 1
def Grid.per (h : Grid) (axis : Nat) : Bool := (h.g 7).getLsbD (18 + axis)
def Grid.capl (h : Grid) : Nat := field (h.g 7).toNat 23 21
def Grid.cap (h : Grid) : Nat := 2 ^ (h.capl + 3)
def Grid.nmax (h : Grid) : Nat := (h.g 8).toNat
def Grid.cells (h : Grid) : Nat := h.nc 0 * h.nc 1 * h.nc 2
/-- The cutoff with the skin, and its square. -/
def Grid.h (h : Grid) : Word := addW h.cut h.skin
def Grid.h2 (h : Grid) : Word := mulW h.h h.h
def Grid.marked (h : Grid) : Bool := h.g 12 == gridMark
/-- 0 EMPTY, 1 BINNING, 2 BINNED. -/
def Grid.state (h : Grid) : Nat := (h.g 13).toNat
def Grid.count (h : Grid) : Nat := (h.g 14).toNat

/-- The offset of a slot of a cell, and of a reference position. -/
def Grid.slotOff (h : Grid) (c slot : Nat) : Nat := 4096 + 16 * (c * h.cap + slot)
def Grid.refOff (h : Grid) (i : Nat) : Nat := 4096 + 16 * (h.cells * h.cap) + 16 * i

/-- Whether a parameter block breaks a limit (R347, reason 13). -/
def Grid.bad (h : Grid) : Bool :=
  let pos := fun (w : Word) => finite32 w && decide (fx w > 0)
  !((List.range 3).all fun a => pos (h.len a)) || !(pos h.cut) || !(finite32 h.skin) || h.skin.getLsbD 31 ||
  decide (h.capl > 4) || h.nmax == 0 || decide (h.nmax > 2 ^ 24) || (h.g 7).toNat / 2 ^ 24 != 0 ||
  h.g 9 != 0 || h.g 10 != 0 || h.g 11 != 0 || !(finite32 h.h) ||
  (List.range 3).any fun a => decide (fx (h.len a) < fx h.h * (h.nc a)) || (h.per a && decide (fx (h.len a) < 2 * fx h.h))

/-- The linear cell index of a particle's stored coordinates. -/
def Grid.cellAt (h : Grid) (x : List Word) : Nat :=
  let c := fun (a : Nat) => cellOf (h.per a) (h.len a) (x.getD a 0) (h.nc a)
  c 0 + h.nc 0 * (c 1 + h.nc 1 * c 2)

/-- The neighbouring indices on an axis: wrapped where it is periodic, cut off else. -/
def Grid.near (h : Grid) (axis c : Nat) : List Nat :=
  let n := h.nc axis
  if h.per axis then [(c + n - 1) % n, c, (c + 1) % n]
  else (if c = 0 then [] else [c - 1]) ++ [c] ++ (if c + 1 < n then [c + 1] else [])

/-- The distinct stencil cells of a cell, ascending. -/
def Grid.stencil (h : Grid) (c : Nat) : List Nat :=
  let cx := c % h.nc 0
  let cy := c / h.nc 0 % h.nc 1
  let cz := c / (h.nc 0 * h.nc 1)
  let all := (h.near 2 cz).flatMap fun z => (h.near 1 cy).flatMap fun y => (h.near 0 cx).map fun x => x + h.nc 0 * (y + h.nc 1 * z)
  all.foldl insertNat []

/-- Whether two stored positions are a pair under a bound on the squared separation (R351, R353). -/
def Grid.r2 (h : Grid) (x y : List Word) : Word :=
  sumSq ((List.range 3).map fun a => sepX (h.per a) (h.len a) (x.getD a 0) (y.getD a 0))

/-! ## Access to the region -/

/-- The words of `n` bytes read by a lantern. -/
def State.lanWords (s : State) (o : EngOp) (va : Pair) (n : Nat) : (List Word ⊕ Got) × State :=
  match s.lanRead o va n with
  | (.bytes b, s) => (.inl ((List.range (n / 4)).map fun k => BitVec.ofNat 32 (leNat ((b.drop (4 * k)).take 4))), s)
  | (g, s) => (.inr g, s)

/-- Write words, or say why not. -/
def State.lanWrite (s : State) (o : EngOp) (va : Pair) (ws : List Word) : Option Got × State :=
  match s.lanMap o va with
  | (.inl a, s) => (none, s.lanPut a (ws.flatMap fun w => leBytes 4 w.toNat))
  | (.inr g, s) => (some g, s)

/-- Write words at several places in order, all or none. -/
def State.lanWrites (s : State) (o : EngOp) (ps : List (Pair × List Word)) : Option Got × State :=
  match s.lanMaps o (ps.map (·.1)) with
  | (.inr g, s) => (some g, s)
  | (.inl places, s) => (none, (places.zip ps).foldl (fun s e => s.lanPut e.1 (e.2.2.flatMap fun w => leBytes 4 w.toNat)) s)

/-- A byte of the region by its offset. -/
def CmdOp.region (c : CmdOp) (off : Nat) : Pair := c.q 0 + BitVec.ofNat 64 off

/-- The particle in a slot of a cell. -/
def State.slotAt (s : State) (o : EngOp) (c : CmdOp) (cell slot : Nat) : (Option Nat ⊕ Got) × State :=
  let h : Grid := c.grid
  if slot ≥ h.cap then (.inl none, s) else
  match s.lanWords o (c.region (h.slotOff cell slot)) 4 with
  | (.inl ws, s) => (.inl (if ws.getD 0 0 = 0 then none else some ((ws.getD 0 0).toNat - 1)), s)
  | (.inr g, s) => (.inr g, s)

/-- How many particles a cell holds, looking at no more slots than it has. -/
def State.fillOf (s : State) (o : EngOp) (c : CmdOp) (cell : Nat) : Nat → Nat → (Nat ⊕ Got) × State
  | 0, k => (.inl k, s)
  | fuel + 1, k =>
    match s.slotAt o c cell k with
    | (.inl (some _), s) => s.fillOf o c cell fuel (k + 1)
    | (.inl none, s) => (.inl k, s)
    | (.inr g, s) => (.inr g, s)

/-! ## Checks (R347, R349, R350) -/

/-- The first checks of a block or a descriptor (R347): kind, alignment, range, and canonical form of its addresses. A field outside
the allocation is not there to be aligned (log 38). -/
def nbrCheck (c : CmdOp) (bytes scr : Nat) (ptrs : List (Pair × Nat)) (more1 more7 : Bool) : Option Nat :=
  let there := fun (k : Nat) => decide (c.off + 8 * k + 8 ≤ scr)
  if c.lantern < 16 then some 2
  else if c.off % 16 ≠ 0 then some 1
  else if (ptrs.zip (List.range ptrs.length)).any fun p => there p.2 && p.1.1.toNat % p.1.2 != 0 then some 1
  else if there 3 && more1 then some 1
  else if c.off + bytes > scr then some 7
  else if more7 then some 7
  else if ptrs.any fun p => !(canonical p.1) then some 8
  else none

/-- End with an INVALID reason. -/
def State.cmdInvalid (s : State) (id r : Nat) : State := s.finish id (cword 7 (r * 2 ^ 24))

/-- NBRGRID, whole (R347). -/
def State.nbrgrid (s : State) (id : Nat) (o : EngOp) (c : CmdOp) : State :=
  let p : Grid := s.readDesc o c.off 12
  let c := { c with desc := p }
  match nbrCheck c 48 (s.opScrSize o) [(c.q 0, 256)] false false with
  | some r => s.cmdInvalid id r
  | none =>
    if p.bad then s.cmdInvalid id 13 else
    match s.lanWrite o (c.q 0) (p ++ [gridMark, 0, 0, 0]) with
    | (some g, s) => s.cmdFail id o { c with begun := false } g
    | (none, s) => s.finish id (cword 0 0)

/-- Read the header and go on, or end where it cannot be read or is no grid. -/
def State.withGrid (s : State) (id : Nat) (o : EngOp) (c : CmdOp) (go : State → CmdOp → State) : State :=
  match s.lanWords o (c.q 0) 64 with
  | (.inr g, s) => s.cmdFail id o { c with begun := false } g
  | (.inl h, s) => if Grid.marked h && !(Grid.bad h) then go s { c with grid := h } else s.cmdInvalid id 16

/-- Write the binning state and count into the header. -/
def State.setGridState (s : State) (o : EngOp) (c : CmdOp) (st n : Nat) : Option Got × State :=
  s.lanWrite o (c.region 52) [BitVec.ofNat 32 st, BitVec.ofNat 32 n]

/-- Whether POS maps to memory of another device (R350, reason 9); a page that is missing is found when a particle is read. -/
def State.posAbsent (s : State) (o : EngOp) (c : CmdOp) : Bool :=
  (s.mayBe (s.opCore o) (s.opAsid o) (c.q 2)).head?.any fun pa => !(s.isLocal pa)

/-- Whether the particle count of a command is out of range for its grid. -/
def CmdOp.badCount (c : CmdOp) : Bool := c.w 4 == 0 || decide ((c.w 4).toNat > Grid.nmax c.grid)

/-! ## NBRBIN (R350) -/

/-- The first word of every cell's first slot, cleared. -/
def emptyCells (c : CmdOp) : List (Pair × List Word) :=
  let h : Grid := c.grid
  (List.range h.cells).map fun k => (c.region (h.slotOff k 0), [0])

def State.nbrbinBegin (s : State) (id : Nat) (o : EngOp) (c : CmdOp) : State :=
  let c := { c with desc := s.readDesc o c.off 12 }
  match nbrCheck c 48 (s.opScrSize o) [(c.q 0, 256), (c.q 2, 16)] false false with
  | some r => s.cmdInvalid id r
  | none => if s.posAbsent o c then s.cmdInvalid id 9 else s.withGrid id o c fun s c =>
    if c.badCount then s.cmdInvalid id 3
    else if c.w 5 = 0 then
      match s.lanWrites o (emptyCells c ++ [(c.region 52, [1, 0])]) with
      | (some g, s) => s.cmdFail id o { c with begun := false } g
      | (none, s) => s.modWork id (.cmd { c.setW 6 0 with begun := true })
    else if Grid.state c.grid ≠ 1 ∨ (c.w 5).toNat > (c.w 4).toNat then s.cmdInvalid id 15
    else s.modWork id (.cmd { c with begun := true })

/-- Put a particle into its cell: the reference position, then the cell's next slot. -/
def State.binParticle (s : State) (id : Nat) (o : EngOp) (c : CmdOp) (i : Nat) (x : List Word) : State :=
  let h : Grid := c.grid
  let ref := (List.range 3).map fun a => placeX (h.per a) (h.len a) (x.getD a 0)
  let cell := h.cellAt ref
  match s.fillOf o c cell h.cap 0 with
  | (.inr g, s) => s.cmdFail id o c g
  | (.inl n, s) =>
    let full := decide (n ≥ h.cap)
    let slots := if full then [] else
      (if n + 1 < h.cap then [(c.region (h.slotOff cell (n + 1)), [(0 : Word)])] else []) ++
        [(c.region (h.slotOff cell n), [BitVec.ofNat 32 (i + 1)])]
    match s.lanWrites o ((c.region (h.refOff i), ref) :: slots) with
    | (some g, s) => s.cmdFail id o c g
    | (none, s) =>
      let c := if full then c.setW 6 (c.w 6 + 1) else c
      s.modWork id (.cmd { c.setW 5 (BitVec.ofNat 32 (i + 1)) with count := c.count + 1 })

/-- The coordinates of a particle. -/
def State.particle (s : State) (o : EngOp) (c : CmdOp) (i : Nat) : (List Word ⊕ Got) × State :=
  s.lanWords o (c.q 2 + BitVec.ofNat 64 (16 * i)) 12

/-- The next particle of a command that reads particles; a coordinate that is not finite ends it (reason 14). -/
def State.nextParticle (s : State) (id : Nat) (o : EngOp) (c : CmdOp) (last : State → State)
    (go : State → Nat → List Word → State) : State :=
  let i := (c.w 5).toNat
  if i ≥ (c.w 4).toNat then last s else
  match s.particle o c i with
  | (.inr g, s) => s.cmdFail id o c g
  | (.inl x, s) =>
    if x.all finite32 then go s i x else s.cmdDone id o c (cword 7 (14 * 2 ^ 24 + i % 2 ^ 24))

def State.nbrbinTurn (s : State) (id : Nat) (o : EngOp) (c : CmdOp) : State :=
  s.nextParticle id o c
    (fun s => match s.setGridState o c 2 (c.w 4).toNat with
      | (some g, s) => s.cmdFail id o c g
      | (none, s) => s.cmdDone id o c (if c.w 6 = 0 then cword 0 (min c.count 0x0FFFFFFF) else cword 4 (min (c.w 6).toNat 0x0FFFFFFF)))
    fun s i x => s.binParticle id o c i x

/-! ## NBRCHK (R353) -/

def State.nbrchkBegin (s : State) (id : Nat) (o : EngOp) (c : CmdOp) : State :=
  let c := { c with desc := s.readDesc o c.off 12 }
  match nbrCheck c 48 (s.opScrSize o) [(c.q 0, 256), (c.q 2, 16)] false false with
  | some r => s.cmdInvalid id r
  | none => if s.posAbsent o c then s.cmdInvalid id 9 else s.withGrid id o c fun s c =>
    if c.badCount then s.cmdInvalid id 3
    else if Grid.state c.grid ≠ 2 ∨ Grid.count c.grid ≠ (c.w 4).toNat then s.cmdInvalid id 15
    else s.modWork id (.cmd { c.setW 6 0 with begun := true })

/-- The bound of staleness: the square of half the skin, rounded once. -/
def Grid.t2 (h : Grid) : Word := roundW (fx h.skin * fx h.skin) (-300)

def State.nbrchkTurn (s : State) (id : Nat) (o : EngOp) (c : CmdOp) : State :=
  s.nextParticle id o c (fun s => s.cmdDone id o c (cword 0 (min c.count 0x0FFFFFFF))) fun s i x =>
    let h : Grid := c.grid
    match s.lanWords o (c.region (h.refOff i)) 12 with
    | (.inr g, s) => s.cmdFail id o c g
    | (.inl ref, s) =>
      let now := (List.range 3).map fun a => placeX (h.per a) (h.len a) (x.getD a 0)
      if leW (h.r2 now ref) h.t2 then
        s.modWork id (.cmd { c.setW 5 (BitVec.ofNat 32 (i + 1)) with count := c.count + 1 })
      else s.cmdDone id o c (cword 5 i)

/-! ## NBRPAIR (R351, R352) -/

/-- A pair cursor from its fields, and its fields (R349). -/
def curOf (cell islot sten jslot : Nat) : Nat := cell % 2 ^ 18 + islot % 2 ^ 7 * 2 ^ 18 + sten % 2 ^ 5 * 2 ^ 25 + jslot % 2 ^ 7 * 2 ^ 30
def curCell (x : Nat) : Nat := field x 17 0
def curI (x : Nat) : Nat := field x 24 18
def curSten (x : Nat) : Nat := field x 29 25
def curJ (x : Nat) : Nat := field x 36 30

/-- The cursor after the last candidate: the last particle slot of the last cell, beyond every stencil cell (log 28). -/
def Grid.endCur (h : Grid) : Nat := curOf (h.cells - 1) (h.cap - 1) 31 0

/-- Put a cursor into a descriptor; END and the reserved bits stay. -/
def CmdOp.setCur (c : CmdOp) (x : Nat) : CmdOp :=
  c.setQ 10 (BitVec.ofNat 64 ((c.q 10).toNat / 2 ^ 37 * 2 ^ 37 + x % 2 ^ 37))

/-- NBRPAIR begins. A ring is outside the allocation only where RSIZE is a size that a ring can have (log 38). -/
def State.nbrpairBegin (s : State) (id : Nat) (o : EngOp) (c : CmdOp) : State :=
  let c := { c with desc := s.readDesc o c.off 12, half := none }
  let scr := s.opScrSize o
  match nbrCheck c 48 scr [(c.q 0, 256)] ((c.w 7).toNat % 16 != 0) 
      (decide ((c.w 8).toNat ≤ 16384) && decide ((c.w 7).toNat + 16 * (c.w 8).toNat > scr)) with
  | some r => s.cmdInvalid id r
  | none => s.withGrid id o c fun s c =>
    if c.w 8 = 0 ∨ (c.w 8).toNat > 16384 ∨ (c.w 9).toNat ≥ (c.w 8).toNat then s.cmdInvalid id 3
    else if Grid.state c.grid ≠ 2 then s.cmdInvalid id 15
    else if (c.q 10).getLsbD 63 then s.finish id (cword 0 0)
    else s.modWork id (.cmd { c with begun := true, cur := (c.q 10).toNat % 2 ^ 37 })

/-- Whether the ring granule at RPOS can be written. -/
def State.ringFree (s : State) (o : EngOp) (c : CmdOp) : Bool :=
  !(s.scrF (o.scr ((c.w 7).toNat + 16 * (c.w 9).toNat)))

/-- The sum of a count and a 32-bit word that saturates. -/
def satW (a : Word) (n : Nat) : Word := BitVec.ofNat 32 (min 0xFFFFFFFF (a.toNat + n))

/-- Write the granule at RPOS, set its F and advance RPOS. -/
def State.ringPut (s : State) (o : EngOp) (c : CmdOp) (r1 r2 : Word × Word) : CmdOp × State :=
  let off := (c.w 7).toNat + 16 * (c.w 9).toNat
  let next := if (c.w 9).toNat + 1 ≥ (c.w 8).toNat then 0 else c.w 9 + 1
  (c.setW 9 next, s.deliverGranule (o.scr off) (r2.2 ++ r2.1 ++ r1.2 ++ r1.1))

/-- The sentinel after the last pair (R352). -/
def State.ringEnd (s : State) (id : Nat) (o : EngOp) (c : CmdOp) : State :=
  if !(s.ringFree o c) then s else
  let n := if c.half.isSome then 1 else 0
  let c := c.setW 6 (satW (c.w 6) n)
  let sent : Word × Word := (0xFFFFFFFF#32, c.w 6)
  let (c, s) := s.ringPut o c (c.half.getD sent) sent
  let c := { (c.setCur c.cur).setW 11 ((c.setCur c.cur).w 11 ||| 0x80000000#32) with count := c.count + n, half := none }
  s.cmdDone id o c (cword 0 (min c.count 0x0FFFFFFF))

/-- Move the running cursor; the descriptor's cursor follows unless a pair waits for the second of its granule. -/
def CmdOp.moveTo (c : CmdOp) (x : Nat) : CmdOp := { (if c.half.isSome then c else c.setCur x) with cur := x }

/-- Emit a pair found at the running cursor: the first of a granule waits, the second delivers both. -/
def State.emitPair (s : State) (id : Nat) (o : EngOp) (c : CmdOp) (i j next : Nat) : State :=
  let r : Word × Word := (BitVec.ofNat 32 i, BitVec.ofNat 32 j)
  match c.half with
  | none => s.modWork id (.cmd { c.setCur c.cur with half := some r, cur := next })
  | some first =>
    if !(s.ringFree o c) then s else
    let (c, s) := s.ringPut o c first r
    s.modWork id (.cmd { (c.setCur next).setW 6 (satW (c.w 6) 2) with half := none, cur := next, count := c.count + 2 })

/-- Test the candidate at the running cursor, or move on to the next particle, stencil cell or cell (R351). -/
def State.nbrpairTurn (s : State) (id : Nat) (o : EngOp) (c : CmdOp) : State :=
  let h : Grid := c.grid
  let cell := curCell c.cur
  let to_ := fun (s : State) (x : Nat) => s.modWork id (.cmd (c.moveTo x))
  if c.cur = h.endCur ∨ cell ≥ h.cells then s.ringEnd id o c else
  let cellAfter := if cell + 1 ≥ h.cells then h.endCur else curOf (cell + 1) 0 0 0
  match s.slotAt o c cell (curI c.cur) with
  | (.inr g, s) => s.cmdFail id o c g
  | (.inl none, s) => to_ s cellAfter
  | (.inl (some i), s) =>
    let particleAfter := if curI c.cur + 1 ≥ h.cap then cellAfter else curOf cell (curI c.cur + 1) 0 0
    match (h.stencil cell)[curSten c.cur]? with
    | none => to_ s particleAfter
    | some other =>
      let stenAfter := if curSten c.cur + 1 ≥ (h.stencil cell).length then particleAfter else curOf cell (curI c.cur) (curSten c.cur + 1) 0
      match s.slotAt o c other (curJ c.cur) with
      | (.inr g, s) => s.cmdFail id o c g
      | (.inl none, s) => to_ s stenAfter
      | (.inl (some j), s) =>
        let next := if curJ c.cur + 1 ≥ h.cap then stenAfter else curOf cell (curI c.cur) (curSten c.cur) (curJ c.cur + 1)
        if j ≤ i then to_ s next else
        match s.lanWords o (c.region (h.refOff i)) 12 with
        | (.inr g, s) => s.cmdFail id o c g
        | (.inl x, s) =>
          match s.lanWords o (c.region (h.refOff j)) 12 with
          | (.inr g, s) => s.cmdFail id o c g
          | (.inl y, s) => if leW (h.r2 x y) h.h2 then s.emitPair id o c i j next else to_ s next

/-! ## Progress -/

/-- The next progress of a lantern command: its end where it is cancelled, its beginning, or one step. -/
def State.cmdTurn (s : State) (id : Nat) (o : EngOp) (c : CmdOp) : State :=
  if o.canceled then s.cmdStop id 2
  else if !(s.cmdRuns id o c) then s
  else match c.cmd, c.begun with
    | .mrg op w64, false => s.mrgBegin id o c op (if w64 then 8 else 4)
    | .mrg op w64, true => s.mrgTurn id o c op (if w64 then 8 else 4)
    | .nbrgrid, _ => s.nbrgrid id o c
    | .nbrbin, false => s.nbrbinBegin id o c
    | .nbrbin, true => s.nbrbinTurn id o c
    | .nbrpair, false => s.nbrpairBegin id o c
    | .nbrpair, true => s.nbrpairTurn id o c
    | .nbrchk, false => s.nbrchkBegin id o c
    | .nbrchk, true => s.nbrchkTurn id o c

/-! ## Issue (R345) -/

/-- Issue a neighbour command. -/
def State.issueNbr (s : State) (i : Instr) (d : Dst) (a b : Sel) (scope : BitVec 3) (imm : BitVec 12) (cmd : LanternCmd) : State :=
  s.issueEng i scope fun s k t th =>
    s.startCmd i k t d scope cmd (rd32 s.site.rep th .a a).toNat (rd32 s.site.rep th .b b + imm.signExtend 32).toNat

def execNbrgrid (d : Dst) (a b : Sel) (scope : BitVec 3) (imm : BitVec 12) (s : State) : Host.Outcome State Fault Refusal :=
  .next (s.issueNbr (.nbrgrid d a b scope imm) d a b scope imm .nbrgrid)
def execNbrbin (d : Dst) (a b : Sel) (scope : BitVec 3) (imm : BitVec 12) (s : State) : Host.Outcome State Fault Refusal :=
  .next (s.issueNbr (.nbrbin d a b scope imm) d a b scope imm .nbrbin)
def execNbrpair (d : Dst) (a b : Sel) (scope : BitVec 3) (imm : BitVec 12) (s : State) : Host.Outcome State Fault Refusal :=
  .next (s.issueNbr (.nbrpair d a b scope imm) d a b scope imm .nbrpair)
def execNbrchk (d : Dst) (a b : Sel) (scope : BitVec 3) (imm : BitVec 12) (s : State) : Host.Outcome State Fault Refusal :=
  .next (s.issueNbr (.nbrchk d a b scope imm) d a b scope imm .nbrchk)

end Sys2Proof.Machine
end

