-- ==== Sys2Proof/Machine/Queues.lean ====
section
/-! DEFINITION. Queues (19 R358, R359, R364 to R369): descriptors and rings in package memory, QPOP, QPUT, QDONE, the bins of task
queues and their drain order. -/

namespace Sys2Proof.Machine

/-! ## Descriptors (R358) -/

/-- The local address of a queue's descriptor. -/
def State.qAddr (s : State) (q : Nat) : Nat := localOf s.pkg.qtbase + 64 * q

def State.qCtl (s : State) (q : Nat) : Nat := s.homeNat (s.qAddr q + 8) 4
def State.qEn (s : State) (q : Nat) : Bool := (s.qCtl q).testBit 0
def State.qMode (s : State) (q : Nat) : Bool := (s.qCtl q).testBit 1
def State.qClosed (s : State) (q : Nat) : Bool := (s.qCtl q).testBit 2
def State.qAsid (s : State) (q : Nat) : Nat := field (s.qCtl q) 24 9
def State.qLog (s : State) (q : Nat) : Nat := field (s.qCtl q) 8 4
def State.qSize (s : State) (q : Nat) : Nat := 2 ^ s.qLog q
def State.qRing (s : State) (q : Nat) : Nat := s.homeNat (s.qAddr q) 8
def State.qWidx (s : State) (q : Nat) : Word := BitVec.ofNat 32 (s.homeNat (s.qAddr q + 0x20) 4)
/-- Bytes of a slot: 64 in a launch queue, 32 in a task queue. -/
def State.qSlotBytes (s : State) (q : Nat) : Nat := if s.qMode q then 32 else 64

/-- The local address of a slot (R358). -/
def State.slotAddr (s : State) (q : Nat) (w : Word) : Nat := s.qRing q % 2 ^ 45 + w.toNat % s.qSize q * s.qSlotBytes q

/-- The STAMP of a slot (R359). -/
def stampOf (w : Word) : Nat := 2 ^ 31 + w.toNat % 2 ^ 31

/-- The words of a slot; those of unbacked space are 0 (22 R399). -/
def State.slotWords (s : State) (q : Nat) (w : Word) : List Word × State :=
  ((List.range (s.qSlotBytes q / 4)).map fun k => BitVec.ofNat 32 (s.homeNat (s.slotAddr q w + 4 * k) 4),
   if inHbm (s.slotAddr q w) then s else s.setUnbk)

/-- A queue that nothing has happened to since reset (R358). -/
def Queue.reset : Queue :=
  { on := false, ridx := 0, served := 0, cur := 0, taking := 0, bins := [], finished := [], lost := [], puts := [] }

/-- A queue's dispatcher state. -/
def State.queue (s : State) (q : Nat) : Queue := (tget s.queues q).getD Queue.reset

def State.setQueue (s : State) (q : Nat) (x : Queue) : State := { s with queues := tset s.queues q x }

/-- RIDX as the device holds it. -/
def State.qRidx (s : State) (q : Nat) : Word := (s.queue q).ridx

/-- Write bits of CTL. -/
def State.setCtl (s : State) (q : Nat) (v : Nat) : State := s.homeWrite (s.qAddr q + 8) 4 v

/-- The word of a descriptor that holds SERVED and CURBIN. -/
def Queue.servedWord (x : Queue) : Nat := x.served * 64 + x.cur

/-- The read-only words of a descriptor apart from CTL: SERVED with CURBIN, RIDX, and the reserved ones. -/
def Queue.roWords (x : Queue) : List (Nat × Nat) :=
  [(0x0C, x.servedWord), (0x10, 0), (0x14, 0), (0x18, 0), (0x1C, 0), (0x24, 0), (0x28, x.ridx.toNat), (0x2C, 0), (0x30, 0), (0x34, 0),
   (0x38, 0), (0x3C, 0)]

/-- Overwrite what system software has written to the read-only words of a descriptor (R358). DESIGN CHOICE (log 98): the rule does
not say when; it is done here, as the device reads a descriptor, and at the device's next own write of the word. -/
def State.keepRo (s : State) (q : Nat) : State :=
  (s.queue q).roWords.foldl (fun s e =>
    if s.homeNat (s.qAddr q + e.1) 4 = e.2 then s else s.homeWrite (s.qAddr q + e.1) 4 e.2) s

/-- QUEUE_ENABLE: the device reads the descriptor when EN has changed (R358); in the safe stage no queue can be enabled (22 R406). -/
def execQueueEnable (q : Nat) (s : State) : Host.Outcome State Fault Refusal :=
  .next (if q ≥ 2048 ∨ s.pkg.stage ≠ 2 then s else
    let x := s.queue q
    let c := s.qCtl q
    if !(s.qEn q) then (if x.on then s.setQueue q { x with on := false } else s)
    else if x.on then s
    else
      let s := s.keepRo q
      if s.qLog q < 4 ∨ s.qLog q > 20 ∨ s.qRing q % (s.qSize q * s.qSlotBytes q) ≠ 0 then s.setCtl q ((c ||| 8) - c % 2)
      else (s.setCtl q (c - (if c.testBit 3 then 8 else 0))).setQueue q { x with on := true })

/-- A queue whose EN reads 0 is no longer served: when EN is 1 again the device reads its descriptor first (R358). -/
def State.watchQueues (s : State) : State := { s with queues := tmap s.queues fun q x => { x with on := x.on && s.qEn q } }

/-- Whether a queue is served now. -/
def State.served (s : State) (q : Nat) : Bool := decide (q < 2048) && (s.queue q).on && s.qEn q

/-- The slot that shares the ring place of a slot, one ring later. -/
def State.nextLap (s : State) (q : Nat) (w : Word) : Word := w + BitVec.ofNat 32 (s.qSize q)

/-- Whether a producer has claimed the ring place of a slot again, one ring later. -/
def State.claimedOver (s : State) (q : Nat) (w : Word) : Bool := decide ((s.qWidx q - w).toNat > s.qSize q)

/-- Whether a slot has overwritten an entry that was not yet served, or has been overwritten so (R359, log 30). -/
def State.collides (s : State) (q : Nat) (w : Word) : Bool :=
  (s.queue q).lost.contains w || s.claimedOver q w || decide ((w - s.qRidx q).toNat ≥ s.qSize q)

/-- Advance RIDX over the finished slots, as a release at sys scope (R359), whose push is relaxed (16 R319); one slot for each unit of
fuel. A slot whose place has
been claimed again before it leaves is noted with the slot that took the place. -/
def State.advance (s : State) (q : Nat) : Nat → State
  | 0 => s
  | n + 1 =>
    let x := s.queue q
    let r := x.ridx
    if x.finished.contains r then
      let overrun := if s.claimedOver q r then [s.nextLap q r] else []
      let s := s.setQueue q { x with ridx := r + 1, finished := x.finished.filter (· != r), lost := x.lost.filter (· != r) ++ overrun }
      (s.homeWrite (s.qAddr q + 0x28) 4 (r + 1).toNat).advance q n
    else s

/-- A slot is finished with. -/
def State.finishSlot (s : State) (q : Nat) (w : Word) : State :=
  let x := s.queue q
  let s := s.setQueue q { x with finished := x.finished ++ [w] }
  s.advance q (x.finished.length + 1)

/-! ## Bins and drain order (R365) -/

/-- The bin of a key. -/
def binOf (key : Nat) : Nat := ([12, 18, 24, 30, 36, 42] : List Nat).foldl (fun b k => b ^^^ field key (k + 5) k) 0

/-- Put a taken entry into its bin. -/
def State.binEntry (s : State) (q : Nat) (w : Word) (key : Nat) : State :=
  let x := s.queue q
  let b := binOf key
  s.setQueue q { x with bins := tset x.bins b ((tget x.bins b).getD [] ++ [w]) }

/-- The entries of a bin. -/
def Queue.bin (x : Queue) (b : Nat) : List Word := (tget x.bins b).getD []

/-- The bin that the next delivery is from, with the value that SERVED takes before it; none when every bin is empty. -/
def Queue.nextBin (x : Queue) (cur served : Nat) : Option (Nat × Nat) :=
  if (x.bin cur).isEmpty ∨ served = 4096 then
    match ((List.range 64).map fun k => (cur + 1 + k) % 64).find? fun b => !(x.bin b).isEmpty with
    | none => none
    | some c => some (c, if c ≠ cur ∨ served = 4096 then 0 else served)
  else some (cur, served)

/-- Take the oldest entry of a bin, and write CURBIN and SERVED. -/
def State.takeEntry (s : State) (q b served : Nat) : Word × State :=
  let x := s.queue q
  let y := { x with bins := tset x.bins b ((x.bin b).drop 1), served := served + 1, cur := b }
  ((x.bin b).headD 0, (s.setQueue q y).homeWrite (s.qAddr q + 0xC) 4 y.servedWord)

/-- Put an entry back at the head of its bin (R372); SERVED keeps counting its turn (log 89). -/
def State.putBack (s : State) (q b : Nat) (w : Word) : State :=
  let x := s.queue q
  s.setQueue q { x with bins := tset x.bins b (w :: x.bin b) }

/-! ## QPOP and its deliveries (R366, R368) -/

def execQpop (d : Dst) (s : State) : Host.Outcome State Fault Refusal :=
  .next (s.issueEach (.qpop d) fun s k t th =>
    match t.queue with
    | none => (s, .trap 0x0F0 0 0)
    | some q =>
      let r := dstReg s.site.rep th d.r 8
      let (id, s) := s.await k ((List.range 8).map fun j => (r + j, 0)) 0
      let core := ((s.ctx? k.ctx).map (·.core)).getD 0
      ({ s with qreqs := s.qreqs ++ [⟨k, r, q, id, core, false, none⟩] }, .next))

/-- Deliver eight words to a request, after the acquire actions at pkg scope. -/
def State.giveEntry (s : State) (r : QReq) (ws : List Word) : State :=
  let s := { s with qreqs := s.qreqs.filter (· != r) }
  let s := s.acquireAt (s.domainOf r.key) 4
  (s.arrive r.landing r.key ((List.range 8).map fun j => (r.d + j, ws.getD j 0)) 0).land r.landing

/-- Whether a thread lies in the scope instance of a put (08 R174). -/
def State.inInstance (s : State) (p : Putter) (u : Key) : Bool :=
  match s.team? u.ctx u.tslot, s.ctx? u.ctx with
  | some t, some c =>
    let mates := t.launch == p.launch && t.cluster == p.cluster
    (match p.scope with
      | 1 => mates && t.index == p.index
      | 2 => mates
      | 3 => dieOf c.core == dieOf p.core
      | _ => true)
  | _, _ => false

/-- The write-back that an entry's producer makes before its delivery to a thread outside the scope instance of the put: that of the
cores that hold its cluster, or of the core it ran on last; none where its context has been saved since (R368). -/
def State.flushPutter (s : State) (q : Nat) (w : Word) (u : Key) : State :=
  let x := s.queue q
  match x.puts.find? fun p => p.slot == w with
  | none => s
  | some p =>
    let s := s.setQueue q { x with puts := x.puts.filter (· != p) }
    if p.saved || s.inInstance p u then s else
    let dom := s.clusterCores p.launch p.cluster
    s.releaseAt (if dom.isEmpty then [p.core] else dom) 3

/-- Change the records of the threads of a context that have put slots. -/
def State.mapPutters (s : State) (ctx : Nat) (f : Putter → Putter) : State :=
  { s with queues := tmap s.queues fun _ x => { x with puts := x.puts.map fun p => if p.key.ctx = ctx then f p else p } }

/-- The threads of a context run on another core from now on. -/
def State.movePutters (s : State) (ctx core : Nat) : State :=
  s.mapPutters ctx fun p => if ((s.thread? p.key).any fun th => th.run != .ended) then { p with core } else p

/-- The words of an entry at its delivery; those of a slot that collided have no stated value (log 30). -/
def State.entryWords (s : State) (q : Nat) (w : Word) : List Word × State :=
  if s.collides q w then
    let (v, s) := s.drawNat
    ((List.range 8).map fun k => BitVec.ofNat 32 (v / 2 ^ (32 * k)), s)
  else s.slotWords q w

/-- Whether the thread of a request has ended. -/
def State.gone (s : State) (r : QReq) : Bool := (s.thread? r.key).all fun th => th.run == .ended

/-- An assigned entry reaches its core: it is delivered, or refused where the thread has ended, and then returns to the head of its
bin (R366, R372). -/
def State.deliverEntry (s : State) (r : QReq) (b : Nat) (w : Word) : State :=
  if s.gone r then ({ s with qreqs := s.qreqs.filter (· != r) } : State).putBack r.queue b w
  else if !(s.served r.queue) then s
  else
    let s := s.flushPutter r.queue w r.key
    let (ws, s) := s.entryWords r.queue w
    (s.giveEntry r ws).finishSlot r.queue w

/-- The first request of a queue that waits is assigned the next entry in drain order, or receives eight words of 0 where the queue is
closed and empty (R365, R366). -/
def State.assignEntry (s : State) (q : Nat) : State :=
  match s.qreqs.find? fun r => r.queue == q && !r.withdrawn && r.got.isNone with
  | none => s
  | some r =>
    if !(s.served q) then s else
    match (s.queue q).nextBin (s.queue q).cur (s.queue q).served with
    | some (b, served) =>
      let (w, s) := s.takeEntry q b served
      { s with qreqs := s.qreqs.map fun x => if x = r then { x with got := some (b, w) } else x }
    | none => if s.qClosed q && (s.queue q).taking == s.qWidx q then s.giveEntry r (List.replicate 8 0) else s

/-- TASK_DELIVERY: an entry that has been assigned reaches its core; where there is none, the next request is assigned one. -/
def execTaskDelivery (q : Nat) (s : State) : Host.Outcome State Fault Refusal :=
  .next (match s.qreqs.find? fun r => r.queue == q && r.got.isSome with
    | some r =>
      (match r.got with
        | some (b, w) => s.deliverEntry r b w
        | none => s)
    | none => s.assignEntry q)

/-! ## QPUT (R367) -/

/-- One member's put: its queue and its scratch offset. -/
structure PutReq where
  key : Key
  q : Nat
  off : Nat
  deriving DecidableEq, Repr

/-- The INVALID reason of a put. -/
def State.putCheck (s : State) (r : PutReq) : Option Nat :=
  if r.q ≥ 2048 ∨ !(s.qEn r.q) ∨ s.qClosed r.q then some 17
  else if r.off % 16 ≠ 0 then some 1
  else if r.off + s.qSlotBytes r.q > ((s.team? r.key.ctx r.key.tslot).map (·.scrSize)).getD 0 then some 7
  else none

/-- Write one entry into its slot, STAMP last as the release; its pushes are relaxed (16 R319). -/
def State.putSlot (s : State) (r : PutReq) (w : Word) (scope : Nat) : State :=
  let n := s.qSlotBytes r.q
  let a := s.slotAddr r.q w
  let s := s.homeWrite a (n - 4) (s.scrRead ⟨r.key.ctx, r.key.tslot, r.off⟩ (n - 4))
  let s := s.homeWrite (a + n - 4) 4 (stampOf w)
  match s.team? r.key.ctx r.key.tslot, s.ctx? r.key.ctx with
  | some t, some c =>
    let x := s.queue r.q
    s.setQueue r.q { x with puts := x.puts.filter (fun p => p.slot != w) ++ [⟨w, r.key, t.launch, t.cluster, t.index, scope, c.core, false⟩] }
  | _, _ => s

/-- The puts of one issue to one queue: all of them get slots, contiguously, or all complete FULL. -/
def State.putQueue (s : State) (q : Nat) (rs : List PutReq) (scope : Nat) : List (Key × Word) × State :=
  if (s.qWidx q - s.qRidx q).toNat + rs.length > s.qSize q then (rs.map fun r => (r.key, cword 8 0), s) else
  let w0 := s.qWidx q
  let s := s.homeWrite (s.qAddr q + 0x20) 4 (w0 + BitVec.ofNat 32 rs.length).toNat
  let put := rs.zip ((List.range rs.length).map fun i => w0 + BitVec.ofNat 32 i)
  (put.map fun e => (e.1.key, cword 0 (e.2.toNat % 2 ^ 28)), put.foldl (fun s e => s.putSlot e.1 e.2 scope) s)

/-- All puts of one issue, in ascending position: their completion words. -/
def State.putAll (s : State) (rs : List PutReq) (scope : Nat) : List (Key × Word) × State :=
  let bad := rs.filterMap fun r => (s.putCheck r).map fun c => (r.key, cword 7 (c * 2 ^ 24))
  let good := rs.filter fun r => (s.putCheck r).isNone
  let qs := dedup (good.map (·.q))
  qs.foldl (fun acc q =>
    let (ws, s) := acc.2.putQueue q (good.filter fun r => r.q == q) scope
    (acc.1 ++ ws, s)) (bad, s)

/-- The members of an issue that start operations: those that do not trap, as many as there are FREE slots. -/
def State.starters (s : State) (i : Instr) (c : Ctx) : List (Key × Thread) :=
  (s.site.members.filterMap fun m =>
    if (s.faultOf i m).isSome then none else
    (s.member? m).bind fun x => if x.2.run = .ended then none else some (⟨s.site.ctx, m.1, m.2⟩, x.2)).take (1024 - c.slotsUsed)

def execQput (d : Dst) (a b : Sel) (scope : BitVec 3) (imm : BitVec 12) (s : State) : Host.Outcome State Fault Refusal :=
  let i : Instr := .qput d a b scope imm
  .next (if s.stalls i then s.noteStall else
    s.afterRelease i scope.toNat fun s =>
      match s.ctx? s.site.ctx with
      | none => s
      | some c =>
        if c.slotsRunning > 0 ∧ 1024 - c.slotsUsed < (s.site.members.filter fun m => (s.faultOf i m).isNone).length then s.noteStall
        else
          let rs := (s.starters i c).map fun (e : Key × Thread) => (⟨e.1, (rd32 s.site.rep e.2 .a a).toNat,
            (rd32 s.site.rep e.2 .b b + imm.signExtend 32).toNat⟩ : PutReq)
          let (ws, s) := s.putAll rs scope.toNat
          s.issueEach i fun s k _ _ => s.startOp i k d scope .known (((ws.find? fun e => e.1 == k).map (·.2)).or (some 0)))

/-! ## QDONE (R369) -/

/-- The new value of a counter at its home, with the release of the operation (R319). -/
def State.countAt (s : State) (a v scope : Nat) : Nat × State :=
  if !inHbm a then (v % 2 ^ 32, s.setUnbk) else
  let new := (s.homeNat a 4 + v) % 2 ^ 32
  (new, s.homeWriteRel a 4 new scope)

def execQdone (d : Dst) (a b : Sel) (scope : BitVec 3) (s : State) : Host.Outcome State Fault Refusal :=
  let i : Instr := .qdone d a b scope
  .next (s.issueEng i scope fun s k _ th =>
    s.startOp i k d scope (.qdone (rd64 s.site.rep th .a a) (rd32 s.site.rep th .b b) false) none)

/-- The progress of a QDONE: its checks and its translation, then its increment at the home, or a request to another device. -/
def State.qdoneTurn (s : State) (id : Nat) (o : EngOp) (va : Pair) (inc : Word) (sent : Bool) : State :=
  if sent then s
  else if va.toNat % 4 ≠ 0 then s.finish id (cword 7 (1 * 2 ^ 24))
  else if !(canonical va) then s.finish id (cword 7 (8 * 2 ^ 24))
  else match s.engineTr (s.opCore o) (s.opAsid o) va .store o.sup with
    | (none, s) => s.finish id (cword 1 0)
    | (some pa, s) =>
      if s.isLocal pa then
        let s := s.purge (s.domainOf o.key) (sectorOf pa)
        let (v, s) := s.countAt (localOf pa) inc.toNat o.scope.toNat
        s.finish id (cword 0 (v % 2 ^ 28))
      else if !(s.present (devOf pa)) then s.finish id (cword 7 (9 * 2 ^ 24))
      else
        let (held, s) := s.engHeld o pa
        if held then s else
        let s := s.send 5 pa 4 (leBytes 4 inc.toNat) ⟨pa, s.opAsid o, s.opCore o, .qdone id, 0⟩
        s.modWork id (.qdone va inc true)

end Sys2Proof.Machine
end

