-- ==== Sys2Proof/Machine/Launches.lean ====
section
/-! DEFINITION. Launches (19 R360 to R363, R370, R371, 14 R287 to R290, 20 R374): launch packets, their translation and refusal,
bind records, the placing of clusters, the start of threads, the end of teams, TAIL successors and completion records. -/

namespace Sys2Proof.Machine

/-! ## Launch packets (R360) -/

/-- A field of a packet or of a successor record, which share a layout. -/
def pkWord (p : List Word) (k : Nat) : Nat := (p.getD k 0).toNat
def pkPair (p : List Word) (k : Nat) : Pair := pairOf (p.getD k 0) (p.getD (k + 1) 0)
def pkCode (p : List Word) : Pair := pkPair p 0
def pkConst (p : List Word) : Pair := pkPair p 2
def pkCompl (p : List Word) : Pair := pkPair p 4
def pkWaitAddr (p : List Word) : Pair := pkPair p 6
def pkWaitVal (p : List Word) : Nat := pkWord p 8
def pkGrid (p : List Word) : Nat × Nat × Nat := (pkWord p 9 % 2 ^ 16, pkWord p 9 / 2 ^ 16, pkWord p 10 % 2 ^ 16)
def pkTeams (p : List Word) : Nat := (pkGrid p).1 * (pkGrid p).2.1 * (pkGrid p).2.2
def pkConst16 (p : List Word) : Nat := pkWord p 10 / 2 ^ 16
def pkShape (p : List Word) : Nat := pkWord p 11
/-- The threads of a team of a shape (01 R19). -/
def shapeThreads (w : Nat) : Nat := (field w 9 0 + 1) * (field w 19 10 + 1) * (field w 29 20 + 1)
def pkThreads (p : List Word) : Nat := shapeThreads (pkShape p)
def pkTqv (p : List Word) : Bool := (pkWord p 12).testBit 19
def pkPersist (p : List Word) : Bool := (pkWord p 12).testBit 18
def pkPri (p : List Word) : Nat := field (pkWord p 12) 17 16
def pkTyped (p : List Word) : Bool := (pkWord p 12).testBit 15
def pkH (p : List Word) : Nat := field (pkWord p 12) 14 12 + 1
def pkW (p : List Word) : Nat := field (pkWord p 12) 11 8 + 1
def pkRegs (p : List Word) : Nat := pkWord p 12 % 256
/-- Scratch bytes, rounded up to a multiple of 16 (10 R213). -/
def pkScratch (p : List Word) : Nat := ceilDiv (pkWord p 13) 16 * 16
def pkTaskq (p : List Word) : Nat := pkWord p 14 % 2 ^ 11

/-- Whether a team's shape and register count are well formed (01 R12, R19). -/
def teamShapeOk (p : List Word) : Bool :=
  (pkShape p) / 2 ^ 30 == 0 && decide (pkThreads p ≤ 1024) && pkRegs p % 8 == 0 && decide (8 ≤ pkRegs p) && decide (pkRegs p ≤ 128)

/-- Whether a packet breaks a limit (R360, R364, 14 R287). -/
def State.packetBad (s : State) (die : Nat) (p : List Word) : Bool :=
  let g := pkGrid p
  let n := pkW p * pkH p
  let q := pkTaskq p
  (pkCompl p).toNat % 64 != 0 || (pkWaitAddr p).toNat % 4 != 0 || g.1 == 0 || g.2.1 == 0 || g.2.2 == 0 ||
  decide (pkTeams p > 65536) || decide (pkConst16 p > 4096) || !(teamShapeOk p) || decide (pkThreads p * pkRegs p > 131072) ||
  decide (pkWord p 13 > 262144) || pkWord p 12 / 2 ^ 20 != 0 || pkWord p 14 / 2 ^ 11 != 0 ||
  decide (pkW p > 12) || decide (n > 12) || pkTeams p % n != 0 || (pkPersist p && !(pkTqv p)) ||
  (pkTqv p && !(s.qEn q && s.qMode q && q / 512 == die))

/-! ## Wick's translations (20 R374) -/

/-- Why Wick cannot translate a range: a missing page, or a refusal. -/
inductive WickFail where
  | missing (page : Nat × Nat)
  | refused
  deriving DecidableEq, Repr

/-- Translate every page of a range for Wick, at supervisor level: the pages by number (log 31). -/
def State.wickPages (s : State) (die asid : Nat) (va : Pair) (n : Nat) (acc : Acc) : (List (Nat × Pair) ⊕ WickFail) × State :=
  (upTo (va.toNat / 65536) ((va.toNat + n - 1) / 65536 + 1 - va.toNat / 65536)).foldl
    (fun (r : (List (Nat × Pair) ⊕ WickFail) × State) p =>
      match r.1 with
      | .inr _ => r
      | .inl l =>
        let a := BitVec.ofNat 64 (65536 * p)
        if p ≥ 2 ^ 48 ∨ !(canonical a) then (.inr .refused, r.2) else
        match r.2.translate none die asid a acc true with
        | (.ok pa, s) => (.inl (l ++ [(p, pa)]), s)
        | (.missing lv, s) => (.inr (.missing (asid, vpageOf a 0)), s.pendFault die asid a lv 4 0 127)
        | (_, s) => (.inr .refused, s)) (.inl [], s)

/-- The physical address of a byte by a list of translated pages. -/
def pageAddr (pages : List (Nat × Pair)) (va : Nat) : Option Pair :=
  (pages.find? fun p => p.1 == va / 65536).map fun p => p.2 + BitVec.ofNat 64 (va % 65536)

/-- Write bytes for Wick through translated pages, one piece of a sector at a time; the pushes are relaxed (16 R319). -/
def State.wickPut (s : State) (die : Nat) (pages : List (Nat × Pair)) (va : Pair) (b : List Byte) : State :=
  ((pieces va b.length).foldl (fun (r : State × List Byte) p =>
    let v := leNat (r.2.take p.2)
    let s := match pageAddr pages p.1 with
      | none => r.1
      | some pa =>
        if r.1.isLocal pa then
          (if inHbm (localOf pa) then r.1.homeWrite (localOf pa) p.2 v else r.1.setUnbk)
        else r.1.remoteWrite (96 * die) 0 (sectorOf pa) (maskOf (pa.toNat % 128) p.2) (secPut (pa.toNat % 128) p.2 v) none none
    (s, r.2.drop p.2)) (s, b)).1

/-! ## Completion records (R361) -/

/-- The bytes of a fault report (12 R279). -/
def FlogEntry.bytes (e : FlogEntry) : List Byte :=
  leBytes 4 e.handle.toNat ++ leBytes 4 e.word.toNat ++ leBytes 4 (e.tid % 1024 + e.wi % 16 * 2 ^ 10) ++ leBytes 8 e.h.toNat ++
    List.replicate 12 0

/-- The record's bytes after STATE. -/
def Launch.record (l : Launch) : List Byte :=
  let a := l.abort.getD ⟨0, 0, 0, 0, 0, 0, 0⟩
  let reports := l.reports.flatMap FlogEntry.bytes
  leBytes 4 l.nrep ++ leBytes 4 (a.tid % 1024 + a.team % 65536 * 2 ^ 10) ++ leBytes 4 a.estat.toNat ++ leBytes 4 a.einfo.toNat ++
  leBytes 4 a.flogstat.toNat ++ leBytes 8 a.epc.toNat ++ leBytes 8 a.eaddr.toNat ++ leBytes 4 (l.refused.getD 0) ++
  List.replicate 20 0 ++ reports ++ List.replicate (960 - reports.length) 0

/-- STATE of a launch that has ended. -/
def Launch.state (l : Launch) : Nat :=
  if l.refused.any (· < 16) then 4 else if l.failed then 3 else if l.aborted then 2 else if l.refused.isSome then 5 else 1

/-- Whether a write of Wick to the pages of a launch's record is not yet acknowledged by their device. -/
def State.recordBusy (s : State) (l : Launch) : Bool :=
  s.remotes.any fun r => r.2.core == 96 * l.die && r.2.asid == 0 && match r.2.kind with
    | .write _ _ => l.compl.any fun p => p.2.toNat / 65536 == r.2.pa.toNat / 65536
    | _ => false

/-- STATE of a record, once every other field is in place. -/
def State.putState (s : State) (id : Nat) : State :=
  match tget s.launches id with
  | none => s
  | some l =>
    if !l.writing || s.recordBusy l then s else
    ({ s with launches := tset s.launches id { l with writing := false } } : State).wickPut l.die l.compl (pkCompl l.packet)
      (leBytes 4 l.state)

/-- STATE of each record whose other fields have been acknowledged. -/
def State.putStates (s : State) : State := s.launches.foldl (fun s e => s.putState e.1) s

/-- Write a launch's record, STATE last; the launch is done. -/
def State.writeRecord (s : State) (id : Nat) : State :=
  match tget s.launches id with
  | none => s
  | some l =>
    let va := pkCompl l.packet
    let s := { s with launches := tset s.launches id { l with done := true, writing := va != 0 } }
    if va = 0 then s else (s.wickPut l.die l.compl (va + 4) l.record).putState id

/-! ## Launch queues (R359, R362) -/

/-- A launch packet has been read: a launch that is not yet ready. -/
def State.newLaunch (s : State) (q : Nat) (w : Word) (p : List Word) : State :=
  let (id, s) := s.freshId
  let l : Launch := { queue := q, slot := w, die := q / 512, asid := s.qAsid q, packet := p, konst := ConstSpace.none, compl := [],
                      nextCluster := 0, clusters := 0, teamsLeft := 0, aborted := false, abort := none, nrep := 0, reports := [],
                      refused := none, failed := false, done := false, prio := pkPri p, ready := 0, waited := none, writing := false }
  { s with launches := tset s.launches id l }

/-- Take a slot: a task entry goes into its bin, a packet becomes a launch and its slot is finished with. -/
def State.takeSlot (s : State) (q : Nat) (w : Word) (ws : List Word) : State :=
  let x := s.queue q
  let s := s.setQueue q { x with taking := w + 1 }
  if s.qMode q then s.binEntry q w (pkPair ws 0).toNat else (s.newLaunch q w ws).finishSlot q w

/-- QUEUE_SLOT_TAKEN: the next slot is taken when its STAMP is valid (R359). Of a slot that collided with another, whether it is taken
and what it holds is free (log 30). -/
def execQueueSlotTaken (q : Nat) (s : State) : Host.Outcome State Fault Refusal :=
  .next (let w := (s.queue q).taking
    if !(s.served q) || w == s.qWidx q then s
    else if s.collides q w then
      let (taken, s) := s.drawBool
      if !taken then s else
      let (v, s) := s.drawNat
      let x := s.queue q
      (s.setQueue q { x with lost := x.lost ++ [w] }).takeSlot q w ((List.range 16).map fun k => BitVec.ofNat 32 (v / 2 ^ (32 * k)))
    else
      let (ws, s) := s.slotWords q w
      if pkWord ws (ws.length - 1) = stampOf w then s.takeSlot q w ws else s)

/-- A refusal: the record receives STATE 4 through COMPL, or the host a notice where it cannot be written (20 R374). -/
def State.refuseLaunch (s : State) (id code : Nat) : State :=
  match tget s.launches id with
  | none => s
  | some l =>
    let s := { s with launches := tset s.launches id { l with refused := some code }
                      held := s.held.filter fun h => !(h.queue == l.queue) }
    let va := pkCompl l.packet
    if va = 0 then s.writeRecord id else
    let (r, s) := if code = 4 ∨ va.toNat % 64 ≠ 0 then (.inr WickFail.refused, s) else s.wickPages l.die l.asid va 1024 .store
    match r with
    | .inl pages => ({ s with launches := tmod s.launches id fun l => { l with compl := pages } } : State).writeRecord id
    | .inr _ =>
      let s := { s with launches := tmod s.launches id fun l => { l with done := true } }
      s.notifyHost 0x0F2 (BitVec.ofNat 64 (code * 2 ^ 24 + l.queue)) (l.slot.setWidth 64)

/-- Hold a packet for a missing page. -/
def State.holdLaunch (s : State) (l : Launch) (page : Nat × Nat) (reason : Nat) : State :=
  { s with held := (s.held.filter fun h => !(h.queue == l.queue)) ++ [⟨l.queue, l.die, some page, reason, false⟩] }

/-- The word at a WAITADDR as Wick reads it; one of another device is asked for, and none until it has come. That of an absent device
is free (log 31). -/
def State.wickRead (s : State) (id : Nat) (l : Launch) (pa : Pair) : Option Nat × State :=
  if s.isLocal pa then
    let (v, s) := s.homeLoad (localOf pa) 4
    (some v, s)
  else if !(s.present (devOf pa)) then
    let (v, s) := s.drawNat
    (some (v % 2 ^ 32), s)
  else match l.waited with
    | some v => (some v, { s with launches := tmod s.launches id fun l => { l with waited := none } })
    | none =>
      if s.remotes.any fun r => r.2.kind == .wait id then (none, s)
      else (none, s.send 1 pa 4 [] ⟨pa, l.asid, 96 * l.die, .wait id, 0⟩)

/-- One range of a packet that Wick translates, then what follows; a null address needs no translation. -/
def State.wickStep (s : State) (id : Nat) (l : Launch) (va : Pair) (n : Nat) (acc : Acc) (reason : Nat)
    (go : State → List (Nat × Pair) → State) : State :=
  if va = 0 ∨ n = 0 then go s [] else
  match s.wickPages l.die l.asid va n acc with
  | (.inl pages, s) => go s pages
  | (.inr (.missing page), s) => s.holdLaunch l page reason
  | (.inr .refused, s) => s.refuseLaunch id reason

/-- A constant space at its binding, with the bytes of this package as they are (log 23). -/
def State.constSpace (s : State) (pages : List (Nat × Pair)) (base : Pair) (len : Nat) : ConstSpace :=
  let c : ConstSpace := { pages, base, len, old := [], mark := s.pkg.noted.length }
  { c with old := (List.range len).foldl (fun m k =>
      if s.isLocal (c.pa k) then mwrite m k (s.homeByte (localOf (c.pa k))) else m) [] }

/-- A packet becomes ready: its translations are made, and its wait is satisfied. -/
def State.prepareLaunch (s : State) (id : Nat) (l : Launch) : State :=
  let p := l.packet
  if s.packetBad l.die p then s.refuseLaunch id 1 else
  let len := 16 * pkConst16 p
  s.wickStep id l (pkConst p) len .load 2 fun s consts =>
  s.wickStep id l (pkWaitAddr p) 4 .load 3 fun s wait =>
  s.wickStep id l (pkCompl p) 1024 .store 4 fun s compl =>
    let (met, s) := match pageAddr wait (pkWaitAddr p).toNat with
      | none => (true, s)
      | some pa =>
        let (v, s) := s.wickRead id l pa
        (v.any fun v => decide (v ≥ pkWaitVal p), s)
    let s := { s with held := s.held.filter fun h => !(h.queue == l.queue) }
    if !met then s else
    let (n, s) := s.freshId
    let konst := if pkConst p = 0 then ConstSpace.none else s.constSpace consts (pkConst p) len
    { s with launches := tset s.launches id { l with konst, compl, waited := none, ready := n + 1, teamsLeft := pkTeams p,
                                                     clusters := pkTeams p / (pkW p * pkH p) } }

/-- Work on the first packet of a queue that is neither ready nor refused; a held one waits for its page. -/
def State.readQueue (s : State) (q : Nat) : State :=
  match s.launches.find? fun e => e.2.queue == q && e.2.ready == 0 && e.2.refused.isNone && !e.2.done with
  | none => s
  | some (id, l) =>
    match s.held.find? fun h => h.queue == q with
    | some h =>
      if h.refused then s.refuseLaunch id h.reason
      else if h.page.isSome then s else s.prepareLaunch id l
    | none => s.prepareLaunch id l

/-! ## The slot table (R363) -/

/-- Wick's mirror of a bind record in package memory (log 29). -/
def State.mirrorBind (s : State) (die k : Nat) : State :=
  let a := localOf s.pkg.mirror + 0x2000 * die + 16 * k
  match tget (s.die die).binds k with
  | none => s.homeWriteL a (List.replicate 16 0)
  | some b => s.homeWriteL a (leBytes 4 (b.pri * 2 ^ 6 + b.st) ++ leBytes 4 (b.first * 2 ^ 16 + b.origin) ++ leBytes 8 b.packet.toNat)

def State.setBind (s : State) (die k : Nat) (b : Option Bind) : State :=
  (s.modDie die fun d => { d with binds := match b with
    | some x => tset d.binds k x
    | none => tdel d.binds k }).mirrorBind die k

/-- Where Wick keeps its copy of the packet of a bind record (log 29). -/
def State.packetCopy (s : State) (die k : Nat) : Nat := localOf s.pkg.mirror + 0x8000 + 64 * (256 * die + k)

/-- The ready launch that binds next on a die: the highest priority, then the earliest ready (R362). -/
def State.nextLaunch (s : State) (die : Nat) : Option (Nat × Launch) :=
  (s.launches.filter fun e => e.2.die == die && e.2.ready != 0 && !e.2.failed && decide (e.2.nextCluster < e.2.clusters)).foldl
    (fun m e => match m with
      | none => some e
      | some x => if e.2.prio > x.2.prio ∨ (e.2.prio = x.2.prio ∧ e.2.ready < x.2.ready) then some e else some x) none

/-- LAUNCH_BIND: Wick reads the launch queues of its die, and writes the bind record of the next cluster (R362, R363). DESIGN CHOICE
(log 101): of the free records it takes the lowest. -/
def execLaunchBind (die : Nat) (s : State) : Host.Outcome State Fault Refusal :=
  .next (if die ≥ 4 then s else
    let qs := dedup ((s.launches.filter fun e => e.2.die == die).map (·.2.queue))
    let s := qs.foldl State.readQueue s
    match s.nextLaunch die, (List.range 256).find? fun k => (tget (s.die die).binds k).isNone with
    | some (id, l), some k =>
      let a := s.packetCopy die k
      let s := s.homeWriteL a (l.packet.flatMap fun w => leBytes 4 w.toNat)
      let b : Bind := { pri := l.prio, st := 1, first := l.nextCluster * (pkW l.packet * pkH l.packet), origin := 0xFFFF,
                        packet := BitVec.ofNat 64 (s.pkg.deviceId.toNat * 2 ^ 45 + a), launch := id }
      { s.setBind die k (some b) with launches := tmod s.launches id fun l => { l with nextCluster := l.nextCluster + 1 } }
    | _, _ => s)

/-! ## Placing a cluster (14 R288, R290) -/

/-- Whether a context can take one more team (00 R4, 01 R12, 10 R213). -/
def Ctx.fits (c : Ctx) (threads regs scratch : Nat) : Bool :=
  let ts := c.teams.map (·.2)
  decide (ts.length < 8) && decide ((ts.map (·.threads.length)).sum + threads ≤ 1024) &&
    decide ((ts.map fun t => t.threads.length * t.n).sum + threads * regs ≤ 131072) &&
    decide ((ts.map (·.scrSize)).sum + scratch ≤ 262144)

/-- The contexts in the banks of a core. -/
def State.resident (s : State) (core : Nat) : List (Nat × Ctx) :=
  s.ctxs.filter fun e => e.2.core == core && e.2.place != .saved

/-- Whether a bank of a core is taken, by a context or for one that is on its way there. -/
def State.bankTaken (s : State) (core : Nat) (p : Place) : Bool :=
  s.ctxs.any fun e => (e.2.core == core && e.2.place == p) || e.2.moving == some (core, p)

/-- The state of the bank that a new context of a core takes: active where that bank is empty, else hot; none when neither is. -/
def State.freeBank (s : State) (core : Nat) : Option Place :=
  if !(s.bankTaken core .active) then some .active else if !(s.bankTaken core .hot) then some .hot else none

/-- The contexts of a core that match a team of a launch and have room for it. -/
def State.matching (s : State) (core : Nat) (l : Launch) : List (Nat × Ctx) :=
  (s.resident core).filter fun e => e.2.asid == l.asid && e.2.typed == pkTyped l.packet &&
    e.2.fits (pkThreads l.packet) (pkRegs l.packet) (pkScratch l.packet)

/-- Those that a team may join now: one that is streaming or moving takes none. -/
def State.joinable (s : State) (core : Nat) (l : Launch) : List Nat :=
  ((s.matching core l).filter fun e => (e.2.place == .active || e.2.place == .hot) && e.2.moving.isNone).map (·.1)

/-- Whether a core accepts a team of a launch: into a context, or into a new one where none matches (R288). -/
def State.accepts (s : State) (core : Nat) (l : Launch) : Bool :=
  !((s.die (dieOf core)).disabled.contains (core % 96)) &&
    (!(s.joinable core l).isEmpty || ((s.matching core l).isEmpty && (s.freeBank core).isSome))

/-- The cores of a rectangle of a die, by rank. -/
def rectCores (die w h x0 y0 : Nat) : List Nat := (List.range (w * h)).map fun r => 96 * die + 12 * (y0 + r / w) + x0 + r % w

/-- The first origin at which every core of the rectangle accepts its team. -/
def State.findOrigin (s : State) (l : Launch) : Option Nat :=
  let w := pkW l.packet
  let h := pkH l.packet
  (List.range 96).find? fun o =>
    decide (o % 12 + w ≤ 12) && decide (o / 12 + h ≤ 8) && (rectCores l.die w h (o % 12) (o / 12)).all fun c => s.accepts c l

/-- A context that has just been created (12 R267). -/
def Ctx.fresh (asid : Nat) (typed : Bool) (place : Place) (core bank : Nat) : Ctx :=
  { asid, typed, place, core, bank, image := 0, regs := CtxRegs.reset, satcount := 0, matnanpos := 0, teams := [], futures := [],
    matq := [], event := { coal := 0, pendCur := false, pendThm := false, info := 0, time := 0 },
    subCount := 0, abuf := none, wbuf := none, cbuf := none, sync := none, joined := true, moving := none, left := none, gangOut := false, pages := [], bases := [] }

/-- A core when a context becomes its active one: age counts start from 0 (01 R26), and no laneset has been served (13 R282). -/
def Core.fresh (c : Core) : Core := { c with ages := [], lastLaneset := none, greedy := [] }

/-- The context that a team of a launch joins on a core, created where none can be joined; among several Wick's choice is free. -/
def State.contextFor (s : State) (core : Nat) (l : Launch) : Nat × State :=
  match s.joinable core l with
  | [] =>
    let (id, s) := s.freshId
    let banks := (s.resident core).map (·.2.bank)
    let bank := ((List.range 3).find? fun b => !(banks.contains b)).getD 0
    let place := (s.freeBank core).getD .hot
    let s := if place = .active then s.modCore core Core.fresh else s
    (id, { s with ctxs := tset s.ctxs id (Ctx.fresh l.asid (pkTyped l.packet) place core bank) })
  | [c] => (c, s)
  | cs =>
    let (k, s) := s.drawNat
    (cs.getD (k % cs.length) 0, s)

/-- A thread at its start (01 R20). -/
def Thread.start (tid index rank lcore : Nat) (code : Pair) (view : CtxRegs) : Thread :=
  { regs := (((Vector.replicate 128 (0 : Word)).set 1 (BitVec.ofNat 32 tid)).set 2 (BitVec.ofNat 32 index)).set 3
      (BitVec.ofNat 32 (rank * 2 ^ 16 + lcore)),
    pend := [], counts := Vector.replicate 8 0, flags := 0, repidx := 0, pc := ⟨code.setWidth 56, 0⟩, run := .runnable,
    deferred := false, priv := false, estat := 0, einfo := 0, epc := 0, eaddr := 0, esave0 := 0, esave1 := 0, ssSkip := false,
    atStart := true, bars := Vector.replicate 16 .none, latches := Vector.replicate 4 .unwritten, view,
    satOld := none, nanOld := false }

/-- The threads of a team at its start. -/
def startThreads (n index rank lcore : Nat) (code : Pair) (view : CtxRegs) : Tab Thread :=
  (List.range n).map fun tid => (tid, Thread.start tid index rank lcore code view)

/-- A launch code address that is not a code address is trapped at the start of each thread (06 R130; log 32). -/
def State.checkStart (s : State) (ctx tslot : Nat) (code : Pair) : State :=
  if canonical code && code.toNat % 4 == 0 then s else
  match s.team? ctx tslot with
  | none => s
  | some t => t.threads.foldl (fun s e => s.takeTrap ⟨ctx, tslot, e.1⟩ 0x02C 0 e.2.pc 0 code) s

/-- Place one team of a cluster on a core: its context, the lowest free team slot, and its threads (14 R288). -/
def State.placeTeam (s : State) (id : Nat) (l : Launch) (cluster rank core : Nat) : State :=
  let (c, s) := s.contextFor core l
  match s.ctx? c with
  | none => s
  | some x =>
    let p := l.packet
    let tslot := ((List.range 8).find? fun k => (tget x.teams k).isNone).getD 0
    let index := cluster * (pkW p * pkH p) + rank
    let t : Team := { index, rank, launch := id, cluster, shape := BitVec.ofNat 32 (pkShape p), n := pkRegs p, scrSize := pkScratch p,
                      scratch := [], fbits := [], threads := startThreads (pkThreads p) index rank core (pkCode p) x.regs,
                      endFlags := 0, flog := [], ovfcnt := 0, leases := [], tail := none,
                      queue := if pkTqv p then some (pkTaskq p) else none, konst := l.konst, aborted := false }
    (s.modCtx c fun x => { x with teams := tset x.teams tslot t }).checkStart c tslot (pkCode p)

/-- A launch that has placed no team yet starts: every core's fetched code is discarded (03 R83). -/
def State.startLaunch (s : State) (launch : Nat) (l : Launch) : State :=
  let begun := s.dies.toList.any fun d => d.binds.any fun b => b.2.launch == launch && decide (3 ≤ b.2.st)
  if begun || l.teamsLeft != pkTeams l.packet then s
  else { s with cores := tmap s.cores fun _ c => { c with icache := [] } }

/-- The teams of a cluster are placed at an origin; the data that the launch waited for, or that came with its packet, is seen by
each of them (R359, R362). -/
def State.placeCluster (s : State) (launch : Nat) (l : Launch) (k : Nat) (b : Bind) : State :=
  let w := pkW l.packet
  let h := pkH l.packet
  let o := b.origin % 96
  let cores := rectCores l.die w h (o % 12) (o / 12)
  let s := s.startLaunch launch l
  let s := (cores.zip (List.range cores.length)).foldl (fun s e => s.placeTeam launch l (b.first / (w * h)) e.2 e.1) s
  (s.acquireAt cores 5).setBind l.die k (some { b with st := 3 })

/-- Whether every core of the rectangle at an origin still accepts its team. -/
def State.stillFits (s : State) (l : Launch) (b : Bind) : Bool :=
  let o := b.origin % 96
  (rectCores l.die (pkW l.packet) (pkH l.packet) (o % 12) (o / 12)).all fun c => s.accepts c l

/-- CLUSTER_BIND: a pending cluster of a launch is bound to the first fitting origin, and a bound one is placed there as a whole, or
is pending again where it no longer fits (14 R290, R363). -/
def execClusterBind (launch : Nat) (s : State) : Host.Outcome State Fault Refusal :=
  .next (match tget s.launches launch with
    | none => s
    | some l =>
      match (s.die l.die).binds.find? fun b => b.2.launch == launch && b.2.st == 2 with
      | some (k, b) =>
        if s.stillFits l b then s.placeCluster launch l k b else s.setBind l.die k (some { b with st := 1, origin := 0xFFFF })
      | none =>
        match (s.die l.die).binds.find? fun b => b.2.launch == launch && b.2.st == 1 with
        | none => s
        | some (k, b) =>
          match s.findOrigin l with
          | none => s
          | some o => s.setBind l.die k (some { b with st := 2, origin := 96 * l.die + o }))

/-! ## TAIL (R370) -/

def execTail (a : Sel) (retain : Bool) (s : State) : Host.Outcome State Fault Refusal :=
  .next (s.issueEach (.tail a retain) fun s k _ th =>
    let va := rd64 s.site.rep th .a a
    if va.toNat % 64 ≠ 0 then (s, .trap 0x0F1 0 0) else
    (s.modTeam k.ctx k.tslot fun t => { t with tail := t.tail.or (some (va, retain)) }, .ended))

/-- The successor's record, or none where it cannot be read or lies on another device (R371). -/
def State.tailRecord (s : State) (c : Ctx) (va : Pair) : Option (List Word) × State :=
  if !(canonical va) then (none, s) else
  match s.translate none (dieOf c.core) c.asid va .load true with
  | (.ok pa, s) =>
    if !(s.isLocal pa) then (none, s) else
    ((List.range 16).foldl (fun (r : Option (List Word) × State) k =>
      let (v, s) := r.2.homeLoad (localOf pa + 4 * k) 4
      (r.1.map fun l => l ++ [BitVec.ofNat 32 v], s)) (some [], s))
  | (_, s) => (none, s)

/-- The constant space of a successor: its record's, or its launch's where CONST is 0; none where it cannot be translated. -/
def State.tailConst (s : State) (c : Ctx) (t : Team) (p : List Word) : Option ConstSpace × State :=
  if pkConst p = 0 then (some (((tget s.launches t.launch).map (·.konst)).getD t.konst), s) else
  let len := 16 * pkConst16 p
  if len = 0 then (some { ConstSpace.none with base := pkConst p }, s) else
  match s.wickPages (dieOf c.core) c.asid (pkConst p) len .load with
  | (.inl pages, s) =>
    (some (s.constSpace pages (pkConst p) len), s)
  | (.inr _, s) => (none, s)

/-- The successor that a record describes with its code address, or the reason of its refusal. -/
def State.successor (s : State) (ctx tslot : Nat) (c : Ctx) (t : Team) (va : Pair) (retain : Bool) : (Team × Pair ⊕ Nat) × State :=
  match s.tailRecord c va with
  | (none, s) => (.inr 18, s)
  | (some p, s) =>
    if pkTyped p ≠ c.typed then (.inr 19, s) else
    let scr := if retain then t.scrSize else pkScratch p
    if !(teamShapeOk p) || !({ c with teams := tdel c.teams tslot }.fits (pkThreads p) (pkRegs p) scr) then (.inr 20, s) else
    match s.tailConst c t p with
    | (none, s) => (.inr 18, s)
    | (some konst, s) =>
      (.inl ({ t with
        shape := BitVec.ofNat 32 (pkShape p), n := pkRegs p, scrSize := scr, scratch := if retain then t.scratch else [],
        fbits := if retain then t.fbits else [],
        threads := startThreads (pkThreads p) t.index t.rank c.core (pkCode p) (((s.ctx? ctx).map (·.regs)).getD c.regs),
        endFlags := 0, flog := [], ovfcnt := 0, leases := [], tail := none, konst, aborted := false }, pkCode p), s)

/-! ## The end of a team (01 R24) -/

/-- Whether an access or an operation of a team is still under way, or a result of one; SFU and XL results are neither (R24). -/
def State.teamBusy (s : State) (ctx tslot : Nat) : Bool :=
  let mine := fun (k : Key) => k.ctx == ctx && k.tslot == tslot
  (s.ops.any fun o => mine o.2.key || o.2.also.any mine) || (s.loads.any fun l => mine l.2.key) ||
  (s.atoms.any fun a => a.2.turns.any fun t => mine t.key) || (s.qreqs.any fun r => mine r.key && r.got.isSome) || (s.feWaits.any fun w => w.ctx == ctx && w.tslot == tslot && !(mine w.key)) ||
  (s.landings.any fun l => mine l.2.key && l.2.kind != some 7) ||
  s.remotes.any fun r => match r.2.kind with
    | .atom q => q.turns.any fun t => mine t.key
    | .konst q => mine q.key
    | _ => false

/-- The SFU and XL results of the ended threads of a team reach no register of a later thread of its slot (R23): what is left of them
are their clamps (log 73). -/
def State.dropResults (s : State) (ctx tslot : Nat) : State :=
  { s with landings := tmap s.landings fun _ l =>
      if l.key.ctx = ctx ∧ l.key.tslot = tslot then { l with regs := [], latch := none, kind := none, flags := 0 } else l }

/-- Whether a cluster has a team left. -/
def State.clusterLive (s : State) (launch cluster : Nat) : Bool := s.ctxs.any fun c => c.2.holds launch cluster

/-- Free the bind record of a cluster that has ended, or mark it as ending. -/
def State.endBind (s : State) (l : Launch) (launch cluster : Nat) : State :=
  let first := cluster * (pkW l.packet * pkH l.packet)
  match (s.die l.die).binds.find? fun b => b.2.launch == launch && b.2.first == first with
  | none => s
  | some (k, b) => s.setBind l.die k (if s.clusterLive launch cluster then some { b with st := 4 } else none)

/-- A context without teams leaves its bank and gives up its typed buffers. -/
def State.dropContext (s : State) (ctx : Nat) : State :=
  match s.ctx? ctx with
  | none => s
  | some c =>
    if !c.teams.isEmpty then s else
    let s := s.leaveTyped c.core ctx
    { s with ctxs := tdel s.ctxs ctx }

/-- A team leaves its context: its DONE futures are freed, and the launch that has no team left completes. -/
def State.removeTeam (s : State) (ctx tslot : Nat) (t : Team) : State :=
  let s := s.modCtx ctx fun c => { c with
    teams := tdel c.teams tslot
    futures := tmap c.futures fun _ f => if f.tslot = tslot then { f with st := .free } else f }
  let s := s.dropContext ctx
  match tget s.launches t.launch with
  | none => s
  | some l =>
    let s := s.endBind l t.launch t.cluster
    let s := { s with launches := tset s.launches t.launch { l with teamsLeft := l.teamsLeft - 1 } }
    if l.teamsLeft = 1 ∧ !l.done then s.writeRecord t.launch else s

/-- A refused successor ends the team; the launch keeps the first reason. -/
def State.refuseTail (s : State) (t : Team) (code : Nat) : State :=
  { s with launches := tmod s.launches t.launch fun l => { l with refused := l.refused.or (some code) } }

/-- TEAM_END: a team whose threads have ended gives up its leases and subscriptions, and once its accesses and operations have
completed, and its stores have been written back at sys scope (19 R361, 13 R284; log 37), it ends, or its TAIL successor starts
(01 R24, 19 R371). -/
def execTeamEnd (ctx tslot : Nat) (s : State) : Host.Outcome State Fault Refusal :=
  .next (match s.team? ctx tslot with
    | none => s
    | some t =>
      if t.threads.any fun e => e.2.run != .ended then s else
      let (s, leases) := s.endLeases ctx tslot
      let (s, subs) := s.endSubs ctx tslot
      if leases || subs || s.teamBusy ctx tslot then s else
      let dom := s.domainOf ⟨ctx, tslot, 0⟩
      let s := s.releaseAt dom 5
      if s.unacked dom then s else
      let s := s.dropResults ctx tslot
      match s.team? ctx tslot, s.ctx? ctx with
      | some t, some c =>
        match t.tail with
        | some (va, retain) =>
          let s := s.acquireAt dom 4
          (match s.successor ctx tslot c t va retain with
            | (.inr code, s) => (s.refuseTail t code).removeTeam ctx tslot t
            | (.inl (t', code), s) =>
              (s.modCtx ctx fun c => { c with
                teams := tset c.teams tslot t'
                futures := tmap c.futures fun _ f => if f.tslot = tslot then { f with st := .free } else f }).checkStart ctx tslot code)
        | none => s.removeTeam ctx tslot t
      | _, _ => s)

end Sys2Proof.Machine
end

