-- ==== Sys2Proof/Machine/SaveImage.lean ====
section
/-! DEFINITION. The save image of a context (12 R260 to R264, 11 R249, 23 R422): what each of its words holds, and its writing to
memory, and its reading back. A word that the streaming bank does not move has no value (R259). -/

namespace Sys2Proof.Machine

/-- A team of a context with its bases in the image, in slot order (R262; log 33), or where its image puts them. -/
structure Based where
  slot : Nat
  team : Team
  thr : Nat
  reg : Nat
  scr : Nat
  deriving DecidableEq, Repr

/-- Words of registers that a team holds. -/
def Team.regWords (t : Team) : Nat := t.threads.length * t.n

/-- The teams of a context with their bases. -/
def Ctx.based (c : Ctx) : List Based :=
  (c.teams.foldl (fun (a : List Based × Nat × Nat × Nat) e =>
    (a.1 ++ [⟨e.1, e.2, a.2.1, 4 * a.2.2.1, a.2.2.2⟩], a.2.1 + e.2.threads.length, a.2.2.1 + e.2.regWords, a.2.2.2 + e.2.scrSize))
    ([], 0, 0, 0)).1.map fun b =>
      match tget c.bases b.slot with
      | some (thr, reg, scr) => { b with thr, reg, scr }
      | none => b

/-- The context-register page: ASID, SRN 0x10 to 0x17, and the event record. -/
def Ctx.regPage (c : Ctx) (k : Nat) : Nat :=
  let e := c.event
  let l : List (Nat × Word) :=
    [(0x000, BitVec.ofNat 32 c.asid), (0x040, c.regs.fpctl), (0x044, c.satcount), (0x048, c.regs.matctl), (0x04C, c.matnanpos),
     (0x050, loWord c.regs.trapvec), (0x054, hiWord c.regs.trapvec), (0x058, c.regs.trapdlg), (0x05C, c.regs.dbgctl),
     (0x100, BitVec.ofNat 32 (e.coal * 2 ^ 16 + e.pendThm.toNat * 2 + e.pendCur.toNat)), (0x104, e.info),
     (0x108, loWord e.time), (0x10C, hiWord e.time)]
  ((tget l k).getD 0).toNat

/-- A team record (R262). -/
def Based.record (b : Based) (k : Nat) : Nat :=
  let t := b.team
  if k ≥ 0x200 then
    match t.flog[(k - 0x200) / 32]? with
    | some e => leNat ((e.bytes.drop ((k - 0x200) % 32)).take 4)
    | none => 0
  else match k with
    | 0x000 => t.shape.toNat + 2 ^ 31
    | 0x004 => t.n + t.scrSize / 16 * 2 ^ 8
    | 0x008 => b.thr
    | 0x00C => b.reg
    | 0x010 => b.scr
    | 0x014 => t.rank * 2 ^ 16 + t.index
    | 0x018 => t.endFlags.toNat
    | 0x01C => t.flogstat.toNat
    | _ => 0

/-- A future-slot entry (R264). -/
def Ctx.slotEntry (c : Ctx) (k : Nat) : Nat :=
  match tget c.futures k with
  | none => 0
  | some f =>
    let head := f.gen.toNat * 2 ^ 32 + f.tslot * 2 ^ 48 + f.retain.toNat * 2 ^ 53
    match f.st with
    | .free => f.gen.toNat * 2 ^ 32
    | .running => (handle f.kind k f.gen).toNat + head + 2 ^ 51
    | .done => f.word.toNat + head + 2 * 2 ^ 51

/-- The barrier states of a thread, two bits each (R261). -/
def Thread.barWord (th : Thread) : Nat :=
  (List.range 16).foldl (fun w b => w + (match th.bar b with
    | .none => 0
    | .expected => 1
    | .arrived => 2) * 2 ^ (2 * b)) 0

/-- The run state of a thread and what it waits on (R263). -/
def Thread.runCode (th : Thread) : Nat × Nat :=
  match th.run with
  | .waiting (.barrier b _ _) => (1, b)
  | .waiting (.reg r) =>
    match th.pendingOn r with
    | some (.future _ _) => (4, r)
    | _ => (2, r)
  | .waiting (.latch _) => (2, 0)
  | .waiting (.feBit _ g) => (3, 16 * g)
  | .waiting (.park _ _ _) => (6, 0xFFFFFFFF)
  | .ended => (5, 0)
  | _ => (0, 0)

/-- A thread record (R263). A thread that waits on a barrier is at its JWAIT word (06 R137). -/
def Thread.record (th : Thread) (k : Nat) : Nat :=
  let h := (va56 th.pc.h).toNat
  let counts := (List.range 8).foldl (fun w i => w + th.count i % 64 * 2 ^ (6 * i)) 0
  let pending := th.pend.foldl (fun w e => w + 2 ^ (e.1 % 128)) 0
  match k with
  | 0x00 => h % 2 ^ 32
  | 0x04 => h / 2 ^ 32
  | 0x08 => th.pc.wi % 16 + th.flags.toNat * 2 ^ 4 + th.repidx.toNat * 2 ^ 10 + th.deferred.toNat * 2 ^ 16 + th.priv.toNat * 2 ^ 17 +
      th.runCode.1 * 2 ^ 18
  | 0x0C => th.runCode.2
  | 0x10 => counts % 2 ^ 32
  | 0x14 => counts / 2 ^ 32
  | 0x18 => pending % 2 ^ 32
  | 0x1C => pending / 2 ^ 32 % 2 ^ 32
  | 0x20 => pending / 2 ^ 64 % 2 ^ 32
  | 0x24 => pending / 2 ^ 96
  | 0x28 => th.estat.toNat
  | 0x2C => th.einfo.toNat
  | 0x30 => (loWord th.epc).toNat
  | 0x34 => (hiWord th.epc).toNat
  | 0x38 => (loWord th.eaddr).toNat
  | 0x3C => (hiWord th.eaddr).toNat
  | 0x40 => th.esave0.toNat
  | 0x44 => th.esave1.toNat
  | _ => 0

/-- The codes of the kinds that a record other than an MLOOP's holds: the low bits of their opcodes. -/
def MatKind.code : MatKind → Nat
  | .mloop => 0
  | .mfold => 1
  | .cvtdn => 2
  | .mzero => 3

def MatKind.ofCode (c : Nat) : MatKind := if c = 1 then .mfold else if c = 2 then .cvtdn else .mzero

/-- The resume record of an operation with its handle (11 R249): of an MLOOP as the rule lays it out; of another its operand, its slot
and generation, and the fields that its two words use (log 33). -/
def MatOp.record (m : MatOp) (slot : Nat) (gen : BitVec 16) : Nat :=
  let w := m.w1.toNat
  match m.kind with
  | .mloop => w * 2 ^ 96 + (handle 2 slot gen).toNat * 2 ^ 64 + m.a.toNat % 2 ^ 11 * 2 ^ 53 + m.b.toNat % 2 ^ 12 * 2 ^ 41 +
      m.next % 2 ^ 13 * 2 ^ 16 + m.nt.toNat
  | k => m.a.toNat + gen.toNat * 2 ^ 64 + slot % 2 ^ 10 * 2 ^ 80 + field m.w0.toNat 23 8 * 2 ^ 90 + field w 31 21 * 2 ^ 106 +
      field w 18 17 * 2 ^ 117 + field w 3 0 * 2 ^ 119 + k.code * 2 ^ 123

/-- An operation as its resume record has it. -/
def MatOp.ofRecord (m : MatOp) (r : Nat) : MatOp :=
  match m.kind with
  | .mloop => { m with
      w1 := BitVec.ofNat 32 (r / 2 ^ 96), a := BitVec.ofNat 64 (field r 63 53), b := BitVec.ofNat 64 (field r 52 41)
      next := field r 28 16, nt := r.testBit 0 }
  | _ =>
    let kind := MatKind.ofCode (field r 124 123)
    { m with
      kind, a := BitVec.ofNat 64 r, w0 := BitVec.ofNat 32 ((0xD0 + kind.code) * 2 ^ 24 + field r 105 90 * 2 ^ 8)
      w1 := BitVec.ofNat 32 (field r 116 106 * 2 ^ 21 + field r 118 117 * 2 ^ 17 + field r 122 119) }

/-- The matrix resume records of a context in order (11 R249). -/
def State.resumeRecord (s : State) (c : Ctx) (k : Nat) : Nat :=
  match (c.matq[k]?).bind fun id => tget s.ops id with
  | some o =>
    match o.work with
    | .mat m => m.record o.slot o.gen
    | _ => 0
  | none => 0

/-- The thread of an index. -/
def Ctx.threadAt (c : Ctx) (i : Nat) : Option Thread :=
  (c.based.find? fun b => decide (b.thr ≤ i ∧ i < b.thr + b.team.threads.length)).bind fun b => tget b.team.threads (i - b.thr)

/-- A word of the register section. -/
def Ctx.regAt (c : Ctx) (off : Nat) : Option Nat :=
  (c.based.find? fun b => decide (b.reg ≤ off ∧ off < b.reg + 4 * b.team.regWords)).bind fun b =>
    (tget b.team.threads ((off - b.reg) / 4 / b.team.n)).map fun th => (th.get ((off - b.reg) / 4 % b.team.n)).toNat

/-- The team and its own offset at an offset of the scratch section. -/
def Ctx.scrAt (c : Ctx) (off : Nat) : Option (Team × Nat) :=
  (c.based.find? fun b => decide (b.scr ≤ off ∧ off < b.scr + b.team.scrSize)).map fun b => (b.team, off - b.scr)

/-- A word of F bits. -/
def Ctx.fWord (c : Ctx) (k : Nat) : Nat :=
  (List.range 32).foldl (fun w i =>
    w + (if (c.scrAt (16 * (32 * k + i))).any fun x => x.1.hasF (x.2 / 16) then 2 ^ i else 0)) 0

/-- A word of a typed buffer that has been moved to the image (10 R226). -/
def Ctx.typedWord (c : Ctx) (b : Nat) (exps : Bool) (off : Nat) : Option Nat :=
  (c.typedImage b).map fun i => mreadN (if exps then i.exps else i.data) off 4

/-- The 32-bit word of the image at an offset, where the streaming bank writes one. -/
def State.imageWord (s : State) (c : Ctx) (off : Nat) : Option Nat :=
  if off < 0x1000 then some (c.regPage off)
  else if off < 0x3000 then
    some (((c.based.find? fun b => b.slot == (off - 0x1000) / 1024).map fun b => b.record ((off - 0x1000) % 1024)).getD 0)
  else if off < 0x5000 then some (c.slotEntry ((off - 0x3000) / 8) / 2 ^ (8 * (off % 8)) % 2 ^ 32)
  else if off < 0x6000 then some (((c.threadAt ((off - 0x5000) / 4)).map Thread.barWord).getD 0)
  else if off < 0x6100 then some (s.resumeRecord c ((off - 0x6000) / 16) / 2 ^ (8 * (off % 16)) % 2 ^ 32)
  else if off < 0x7000 then some 0
  else if off < 0x7800 then some (c.fWord ((off - 0x7000) / 4))
  else if off < 0x8000 then some 0
  else if off < 0x28000 then some (((c.threadAt ((off - 0x8000) / 128)).map fun th => th.record (off % 128)).getD 0)
  else if off < 0xA8000 then c.regAt (off - 0x28000)
  else if off < 0xE8000 then (c.scrAt (off - 0xA8000)).map fun x => mreadN x.1.scratch x.2 4
  else if off < 0x128000 then c.typedWord 0 false (off - 0xE8000)
  else if off < 0x12A000 then c.typedWord 0 true (off - 0x128000)
  else if off < 0x12E000 then c.typedWord 1 true (off - 0x12A000)
  else if off < 0x130000 then some 0
  else if off < 0x1B0000 then c.typedWord 1 false (off - 0x130000)
  else c.typedWord 2 false (off - 0x1B0000)

/-- The size of an image (R260). -/
def Ctx.imageSize (c : Ctx) : Nat := if c.typed then 0x1F0000 else 0xE8000

/-- Write one word of an image through its translated pages. -/
def State.imagePut (s : State) (c : Ctx) (off v : Nat) : State :=
  s.wickPut (dieOf c.core) c.pages (c.image + BitVec.ofNat 64 off) (leBytes 4 v)

/-- Write the words of a context's image that differ from what an earlier context would have written; all of them when there is
no earlier one. -/
def State.writeImage (s : State) (c : Ctx) (old : Option (State × Ctx)) : State :=
  (List.range (c.imageSize / 4)).foldl (fun t k =>
    match s.imageWord c (4 * k) with
    | none => t
    | some v => if (old.bind fun o => o.1.imageWord o.2 (4 * k)) = some v then t else t.imagePut c (4 * k) v) s

/-- Whether the image is authoritative for a context (R257, R259). -/
def Ctx.imaged (c : Ctx) : Bool := c.place == .saved || c.place == .streamingIn

/-! ## Reading an image back (R259, R261 to R264; log 67) -/

/-- A word of an image as memory holds it: where it is on another device, as the streaming bank has read it, or as the context was
saved. -/
def State.imageGet (s : State) (ctx : Nat) (pages : List (Nat × Pair)) (c : Ctx) (off : Nat) : Nat :=
  let was := (s.imageWord c off).getD 0
  match pageAddr pages (c.image + BitVec.ofNat 64 off).toNat with
  | some pa =>
    if s.isLocal pa then s.homeNat (localOf pa) 4
    else match (tget s.fetched ctx).bind fun t => tget t (sectorOf pa) with
      | some d => secGet d (pa.toNat % 128) 4
      | none => was
  | none => was

/-- A 32-bit word of an image, and two of them. -/
def word32 (rd : Nat → Nat) (off : Nat) : Word := BitVec.ofNat 32 (rd off)
def word64 (rd : Nat → Nat) (off : Nat) : Pair := BitVec.ofNat 64 (rd off + 2 ^ 32 * rd (off + 4))

/-- A barrier state from its two bits. -/
def barOf (w b : Nat) : Bar :=
  match field w (2 * b + 1) (2 * b) with
  | 1 => .expected
  | 2 => .arrived
  | _ => .none

/-- The run state that a record gives a thread, where it is another one than the thread's. A thread that waits on a barrier, or on a
full-empty bit, executes again the word that it waits at. -/
def Thread.runBack (th : Thread) (code on : Nat) : Thread :=
  if (code, on) = th.runCode then th else
  match code with
  | 0 | 3 | 6 => { th with run := .runnable }
  | 1 => { th.setBar (on % 16) .expected with run := .runnable }
  | 2 | 4 => { th with run := .waiting (.reg (on % 128)) }
  | 5 => { th with run := .ended }
  | _ => th

/-- The pending bits and the counts that a record gives a thread. A register that is pending in the record alone waits for a landing,
`lost`, that there is not. -/
def Thread.countBack (th : Thread) (pending counts lost : Nat) : Thread :=
  { th with
    pend := (upTo 1 127).foldl (fun p k =>
      if pending.testBit k then (if (tget p k).isSome then p else tset p k (.landing lost)) else tdel p k) th.pend
    counts := (List.range 8).foldl (fun (v : Vector Nat 8) k => v.setIfInBounds k (field counts (6 * k + 5) (6 * k))) th.counts }

/-- A thread from its record, its barrier states and its registers. -/
def Thread.readBack (th : Thread) (rd : Nat → Nat) (lost index regs n : Nat) : Thread :=
  let r := 0x8000 + 128 * index
  let st := rd (r + 0x08)
  let bars := rd (0x5000 + 4 * index)
  let th := { th with
    regs := (upTo 1 (n - 1)).foldl (fun (v : Vector Word 128) k => v.setIfInBounds k (word32 rd (regs + 4 * k))) th.regs
    bars := (List.range 16).foldl (fun (v : Vector Bar 16) b => v.setIfInBounds b (barOf bars b)) th.bars }
  let th := (th.runBack (field st 20 18) (rd (r + 0x0C))).countBack
    (rd (r + 0x18) + 2 ^ 32 * rd (r + 0x1C) + 2 ^ 64 * rd (r + 0x20) + 2 ^ 96 * rd (r + 0x24)) (rd (r + 0x10) + 2 ^ 32 * rd (r + 0x14)) lost
  { th with
    flags := BitVec.ofNat 6 (field st 9 4), repidx := BitVec.ofNat 6 (field st 15 10), deferred := st.testBit 16, priv := st.testBit 17
    pc := ⟨(word64 rd r).setWidth 56, st % 16⟩
    estat := word32 rd (r + 0x28) &&& estatMask, einfo := word32 rd (r + 0x2C), epc := word64 rd (r + 0x30), eaddr := word64 rd (r + 0x38)
    esave0 := word32 rd (r + 0x40), esave1 := word32 rd (r + 0x44) }

/-- A fault-log entry from its eight words. -/
def flogOf (rd : Nat → Nat) (off : Nat) : FlogEntry :=
  ⟨word32 rd off, word32 rd (off + 4), field (rd (off + 8)) 9 0, field (rd (off + 8)) 13 10, word64 rd (off + 12)⟩

/-- Sparse bytes from `n` words of an image. -/
def memBack (rd : Nat → Nat) (off n : Nat) (m : Mem) : Mem :=
  (List.range n).foldl (fun m k => if rd (off + 4 * k) = mreadN m (4 * k) 4 then m else mwriteN m (4 * k) 4 (rd (off + 4 * k))) m

/-- What a team's record says of it, its threads as many as its shape has. -/
def Team.headBack (t : Team) (rd : Nat → Nat) (slot core : Nat) : Team :=
  let r := 0x1000 + 1024 * slot
  let shape := field (rd r) 29 0
  let ids := rd (r + 0x14)
  let log := rd (r + 0x1C)
  { t with
    shape := BitVec.ofNat 32 shape, n := field (rd (r + 0x04)) 7 0, scrSize := 16 * field (rd (r + 0x04)) 31 8
    rank := field ids 31 16, index := field ids 15 0
    threads := if BitVec.ofNat 32 shape = t.shape then t.threads else (List.range (shapeThreads shape)).map fun tid =>
      (tid, (tget t.threads tid).getD (Thread.start tid t.index t.rank core 0 CtxRegs.reset))
    endFlags := BitVec.ofNat 6 (rd (r + 0x18)), ovfcnt := field log 31 16
    flog := (List.range (min 16 (field log 4 0))).map fun k => flogOf rd (r + 0x200 + 32 * k) }

/-- The bases that a team's record gives it. -/
def basesOf (rd : Nat → Nat) (slot : Nat) : Nat × Nat × Nat :=
  let r := 0x1000 + 1024 * slot
  (rd (r + 0x08), rd (r + 0x0C), rd (r + 0x10))

/-- The threads, the scratch and the F bits of a team. -/
def Based.readBack (b : Based) (rd : Nat → Nat) (lost : Nat) : Team :=
  let t := b.team
  { t with
    threads := tmap t.threads fun tid th => th.readBack rd lost (b.thr + tid) (0x28000 + b.reg + 4 * tid * t.n) t.n
    scratch := memBack rd (0xA8000 + b.scr) (t.scrSize / 4) t.scratch
    fbits := (List.range (t.scrSize / 16)).filter fun g =>
      (rd (0x7000 + 4 * ((b.scr / 16 + g) / 32))).testBit ((b.scr / 16 + g) % 32) }

/-- A future slot from its entry. -/
def futureOf (lo hi : Nat) : Future :=
  let st : FutSt := match field hi 20 19 with
    | 1 => .running
    | 2 => .done
    | _ => .free
  { st, gen := BitVec.ofNat 16 hi, kind := if st = .running then BitVec.ofNat 4 (field lo 31 28) else 0, tslot := field hi 18 16
    retain := hi.testBit 21, word := if st = .done then BitVec.ofNat 32 lo else 0 }

/-- A context as its image holds it (R259). A slot entry that says what the slot's own would leaves the slot as it is. -/
def State.readBack (s : State) (ctx : Nat) (pages : List (Nat × Pair)) (c : Ctx) : Ctx :=
  let rd := s.imageGet ctx pages c
  let bits := rd 0x100
  let c' : Ctx := { c with
    asid := field (rd 0x000) 15 0
    teams := tmap c.teams fun slot t => t.headBack rd slot c.core
    bases := c.teams.map fun e => (e.1, basesOf rd e.1)
    futures := (List.range 1024).foldl (fun t k =>
      let lo := rd (0x3000 + 8 * k)
      let hi := rd (0x3000 + 8 * k + 4)
      if lo + 2 ^ 32 * hi = c.slotEntry k then t else tset t k (futureOf lo hi)) c.futures }
  { c' with
    regs := { fpctl := word32 rd 0x040 &&& fpctlMask, matctl := word32 rd 0x048 &&& matctlMask, trapvec := word64 rd 0x050
              trapdlg := word32 rd 0x058 &&& trapdlgMask, dbgctl := word32 rd 0x05C &&& dbgctlMask }
    satcount := word32 rd 0x044, matnanpos := word32 rd 0x04C &&& matnanposMask
    teams := c'.based.map fun b => (b.slot, b.readBack rd s.fresh)
    event := { coal := field bits 31 16, pendThm := bits.testBit 1, pendCur := bits.testBit 0, info := word32 rd 0x104, time := word64 rd 0x108 }
    abuf := c.abuf.map fun _ => ⟨memBack rd 0xE8000 65536 [], memBack rd 0x128000 2048 []⟩
    wbuf := c.wbuf.map fun _ => ⟨memBack rd 0x130000 131072 [], memBack rd 0x12A000 4096 []⟩
    cbuf := c.cbuf.map fun i => ⟨memBack rd 0x1B0000 65536 [], i.exps⟩ }

/-- The operations of a context's matrix queue as their resume records have them (11 R249). -/
def State.resumeBack (s : State) (ctx : Nat) (pages : List (Nat × Pair)) (c : Ctx) : Tab EngOp :=
  let rd := s.imageGet ctx pages c
  c.matq.zipIdx.foldl (fun ops e =>
    let at_ := 0x6000 + 16 * e.2
    let r := rd at_ + 2 ^ 32 * rd (at_ + 4) + 2 ^ 64 * rd (at_ + 8) + 2 ^ 96 * rd (at_ + 12)
    if r = s.resumeRecord c e.2 then ops else
    tmod ops e.1 fun o => match o.work with
      | .mat m =>
        let slot := if m.kind = .mloop then field r 91 80 else field r 89 80
        { o with slot, gen := BitVec.ofNat 16 (field r 79 64), work := .mat (m.ofRecord r) }
      | _ => o) s.ops

/-- A context takes what its image holds, and a thread that no longer waits on a full-empty bit no longer waits for the granule. -/
def State.takeImage (s : State) (ctx : Nat) (pages : List (Nat × Pair)) (c : Ctx) : State :=
  let s := { (s.modCtx ctx fun _ => s.readBack ctx pages c) with ops := s.resumeBack ctx pages c, fresh := s.fresh + 1 }
  { s with feWaits := s.feWaits.filter fun w => w.key.ctx != ctx || (s.thread? w.key).any fun th =>
      match th.run with
      | .waiting (.feBit _ _) => true
      | _ => false }

/-- The bytes of a page of package memory that are cached at their homes, and those that HBM4 holds. -/
def Pkg.page (p : Pkg) (pa : Nat) : List (Nat × SectorData) × Mem :=
  ((p.l2.filter fun e => decide (pa ≤ 128 * e.1) && decide (128 * e.1 < pa + 65536)).map fun e => (e.1, e.2.data),
   p.hbm.filter fun e => decide (pa ≤ e.1) && decide (e.1 < pa + 65536))

/-- Whether package memory under an image has changed. -/
def State.imageTouched (before after : State) (pages : List (Nat × Pair)) : Bool :=
  (before.pkg.l2 != after.pkg.l2 || before.pkg.hbm != after.pkg.hbm) && pages.any fun p =>
    after.isLocal p.2 && (before.pkg.page (localOf p.2) != after.pkg.page (localOf p.2))

/-- A context that is out is what its image holds: results that have reached it have reached its image, and bytes that have been
stored into its image have reached it (01 R25, 12 R257, R259, 14 R293; log 67). -/
def State.syncImages (before after : State) : State :=
  after.ctxs.foldl (fun s e =>
    if !e.2.imaged then s else
    match tget before.ctxs e.1 with
    | some c =>
      if !c.imaged then s else
      let s := if c != e.2 || before.ops != after.ops then s.writeImage e.2 (some (before, c)) else s
      if before.imageTouched s e.2.pages then s.takeImage e.1 e.2.pages e.2 else s
    | none => s) after

end Sys2Proof.Machine
end

