-- ==== Sys2Proof/Machine/Contexts.lean ====
section
/-! DEFINITION. Switching contexts in and out of a core (12 R256 to R260, 08 R192, 16 R321, R322, 19 R372) and moving them between
cores (23 R425 to R428). -/

namespace Sys2Proof.Machine

/-! ## What leaving and taking up a core does -/

/-- The cores of the snoop domains of a context's teams. -/
def State.ctxDomain (s : State) (ctx : Nat) : List Nat :=
  match s.ctx? ctx with
  | some c => dedup (c.teams.flatMap fun t => s.clusterCores t.2.launch t.2.cluster)
  | none => []

/-- A context stops issuing on its core: its groups are removed (R258 steps 1 and 2), its lantern commands stop (17 R333), its QPOP
requests are withdrawn (19 R372), and the cache actions of 08 R192 begin. -/
def State.leaveCore (s : State) (ctx core : Nat) : State :=
  let slots := ((s.core core).groups.filter fun g => g.2.ctx == ctx).map (·.1)
  let s := slots.foldl (fun s k => s.dissolve core k) s
  let s := s.suspendCmds ctx
  let dom := s.snoopOf (s.ctxDomain ctx)
  let s := (s.releaseAt dom 5).acquireAt dom 5
  let s := { s with qreqs := s.qreqs.map fun (r : QReq) => if r.key.ctx = ctx then { r with withdrawn := true } else r }
  s.modCtx ctx fun x => { x with sync := some (dedup ((x.sync.getD []) ++ dom)) }

/-- The withdrawn QPOP requests of a context are placed again, after all others (19 R372). -/
def State.placeAgain (s : State) (ctx core : Nat) : State :=
  let back := fun (r : QReq) => r.key.ctx == ctx && r.withdrawn
  { s with qreqs := (s.qreqs.filter fun r => !(back r)) ++
      (s.qreqs.filter back).map fun r => { r with withdrawn := false, core } }

/-- A context becomes the active one of its core: age counts start from 0 (01 R26). DESIGN CHOICE (log 100): 13 R282 serves laneset 0
first when a context starts, and the model does the same when one is restored. -/
def State.activate (s : State) (ctx core : Nat) : State :=
  ((s.modCtx ctx fun x => { x with place := .active }).modCore core Core.fresh).placeAgain ctx core

/-- The context of a core in a place. -/
def State.inPlace (s : State) (core : Nat) (p : Place) : Option Nat :=
  (s.ctxs.find? fun e => e.2.core == core && e.2.place == p).map (·.1)

/-- The parked accesses of a context are issued again (20 R387). -/
def State.reissueCtx (s : State) (ctx : Nat) : State :=
  s.modCtx ctx fun x => { x with teams := tmap x.teams fun _ t => { t with threads := tmap t.threads fun _ th =>
    match th.run with
    | .waiting (.park _ _ _) => { th with run := .runnable }
    | _ => th } }

/-- The island of a core (23 R415). -/
def islandOf (core : Nat) : Nat := core % 96 / 24 * 6 + core % 12 / 2

/-- The active context of an island with the most resident threads, the lowest physical core first (23 R425). -/
def State.heaviest (s : State) (die island : Nat) : Option (Nat × Ctx) :=
  let cs := (upTo (96 * die) 96).filter fun g => islandOf g == island
  let load := fun (c : Ctx) => ((c.teams.map fun t => t.2.live.length).sum : Nat)
  (cs.filterMap s.activeOf).foldl (fun m e => match m with
    | none => some e
    | some x => if load e.2 > load x.2 then some e else some x) none

/-- A pending migration request of an island is no longer pending. -/
def State.clearRequest (s : State) (die island : Nat) : State :=
  s.modDie die fun d => { d with power := { d.power with
    islands := d.power.islands.modify island fun i => { i with migReq := false } } }

/-- A migration request lapses for a context that is switched out, alone or with its cluster, in the same interval (23 R428). -/
def State.lapse (s : State) (ctx : Nat) (c : Ctx) : State :=
  if (s.heaviest (dieOf c.core) (islandOf c.core)).any fun e => e.1 == ctx then s.clearRequest (dieOf c.core) (islandOf c.core) else s

/-- What a context finds when it has been restored on a core: the deliveries of its subscriptions, its parked accesses issued again,
and its QPOP requests placed again once it is active (16 R322, 20 R387). -/
def State.restored (s : State) (ctx core : Nat) (p : Place) : State :=
  let s := (s.modCtx ctx fun x => { x with place := p }).restoreSubs ctx
  let s := s.reissueCtx ctx
  if p = .active then s.activate ctx core else s

/-- A move of an active context that began in this control interval lapses for a switch-out of it: the context is the active one of its
core again (23 R428; log 69). -/
def State.unmove (s : State) (ctx : Nat) (c : Ctx) : State :=
  if c.left = some (s.us, .active) ∧ c.moving.isSome ∧ !(s.bankTaken c.core .active) then
    (s.modCtx ctx fun x => { x with moving := none, left := none }).restored ctx c.core .active
  else s

/-! ## Switching (R258, 14 R295) -/

/-- Whether two contexts hold teams of one cluster. -/
def Ctx.shares (a b : Ctx) : Bool := a.teams.any fun t => b.holds t.2.launch t.2.cluster

/-- Some contexts with every other that holds a team of one of their clusters, of the clusters of those, and so on for `n` rounds. -/
def State.gangReach (s : State) : Nat → List Nat → List Nat
  | 0, l => l
  | n + 1, l =>
    let l' := dedup (l ++ (s.ctxs.filter fun e => l.any fun k => (s.ctx? k).any fun c => c.shares e.2).map (·.1))
    if l'.length = l.length then l else s.gangReach n l'

/-- The gang of a context: the contexts that are switched with it, because they hold teams of its clusters, itself first
(14 R295). -/
def State.gang (s : State) (ctx : Nat) : List Nat := s.gangReach s.ctxs.length [ctx]

/-- Whether the core of a member of a gang can take it: it is hot, or active with no switch-out requested (14 R295). -/
def Ctx.ready (c : Ctx) : Bool := c.moving.isNone && (c.place == .hot || (c.place == .active && !c.gangOut))

/-- Whether the core of every other member of a context's gang can take it. -/
def State.gangReady (s : State) (ctx : Nat) : Bool :=
  (s.ctx? ctx).isSome && (s.gang ctx).all fun k => k == ctx || (s.ctx? k).any Ctx.ready

/-- The switch-outs of the active members of a context's gang are requested with its own, and no migration of one of them is
(14 R295, 23 R428). -/
def State.requestGang (s : State) (ctx : Nat) : State :=
  (s.gang ctx).foldl (fun s k =>
    if k = ctx then s else
    match s.ctx? k with
    | none => s
    | some c =>
      let s := s.unmove k c
      match s.ctx? k with
      | some c => if c.place = .active then (s.lapse k c).modCtx k fun x => { x with gangOut := true } else s
      | none => s) s

/-- The active context of a core leaves it for the hot bank. -/
def State.makeHot (s : State) (ctx : Nat) (c : Ctx) (core : Nat) : State :=
  ((s.lapse ctx c).leaveCore ctx core).modCtx ctx fun x => { x with place := .hot, gangOut := false }

/-- The active context of a core is switched out, and the other members of its gang are to follow. -/
def State.switchOut (s : State) (ctx : Nat) (c : Ctx) (core : Nat) : State := (s.requestGang ctx).makeHot ctx c core

/-- A hot context is restored on its core, whose active context is switched out. Two members of one gang that migration has brought to
one core take turns there (log 68). -/
def State.bringIn (s : State) (ctx core : Nat) : State :=
  let s := match s.activeOf core with
    | some (k, x) => if (s.gang ctx).contains k then s.makeHot k x core else s.switchOut k x core
    | none => s
  s.activate ctx core

/-- The other hot members of a context's gang are restored with it, in the same turn (14 R295). -/
def State.restoreGang (s : State) (ctx : Nat) : State :=
  let mates := s.gang ctx
  mates.foldl (fun s k =>
    match s.ctx? k with
    | some c => if c.place = .hot ∧ !((s.activeOf c.core).any fun a => mates.contains a.1) then s.bringIn k c.core else s
    | none => s) s

/-- A context of a PERSIST launch never makes room for a cluster that is pending on its die (19 R362, log 87). -/
def State.persists (s : State) (c : Ctx) : Bool :=
  (s.die (dieOf c.core)).binds.any (fun b => b.2.st == 1) &&
    c.teams.any fun t => (tget s.launches t.2.launch).any fun l => pkPersist l.packet

/-- The context of a core whose move began in this interval, which a switch-out of it ends (23 R428). -/
def State.unmoved (s : State) (core : Nat) : State :=
  match s.ctxs.find? fun e => e.2.core == core && e.2.left == some (s.us, .active) with
  | some (k, c) => s.unmove k c
  | none => s

/-- CONTEXT_SWITCH_OUT: the active context of a core becomes hot and the hot one active, the members of a cluster as a gang: none is
restored before every member's core can take it, and then all are, in one turn (14 R295). -/
def execContextSwitchOut (core : Nat) (s : State) : Host.Outcome State Fault Refusal :=
  let s := s.unmoved core
  .next (match s.inPlace core .hot, s.activeOf core with
    | none, none => s
    | none, some (c, x) => if s.persists x then s else s.switchOut c x core
    | some h, _ => if s.gangReady h then (s.bringIn h core).restoreGang h else s)

/-! ## Streaming (R259, R260) -/

/-- Whether the streaming bank of a core is empty. -/
def State.streamFree (s : State) (core : Nat) : Bool :=
  !(s.ctxs.any fun e => e.2.core == core && (e.2.place == .streamingOut || e.2.place == .streamingIn))

/-- STREAM_OUT_BEGIN: a hot context starts to move to an image, and its subscriptions are parked (16 R321). -/
def execStreamOutBegin (ctx : Nat) (image : BitVec 64) (s : State) : Host.Outcome State Fault Refusal :=
  .next (match s.ctx? ctx with
    | some c =>
      if c.place = .hot ∧ image.toNat % 65536 = 0 ∧ s.streamFree c.core ∧ !(s.persists c) then
        (s.modCtx ctx fun x => { x with place := .streamingOut, image, pages := [] }).parkSubs ctx
      else s
    | none => s)

/-- The pages of an image at supervisor level, or none when one cannot be translated, or lies on a device that is absent (log 67). -/
def State.imagePages (s : State) (c : Ctx) (acc : Acc) : Option (List (Nat × Pair)) × State :=
  (List.range ((c.imageSize + 65535) / 65536)).foldl (fun r k =>
    let va := c.image + BitVec.ofNat 64 (65536 * k)
    match r.1 with
    | none => r
    | some l =>
      if !(canonical va) then (none, r.2) else
      match r.2.engineTr c.core c.asid va acc true with
      | (some pa, s) => (if s.isLocal pa || s.present (devOf pa) then some (l ++ [(va.toNat / 65536, pa)]) else none, s)
      | (none, s) => (none, s)) (some [], s)

/-- A notice of a streaming fault to Wick (R260). -/
def State.streamFault (s : State) (cause ctx : Nat) (c : Ctx) : State :=
  { s with notices := s.notices ++ [⟨.wick, cause, BitVec.ofNat 64 ctx, c.image⟩] }

/-- STREAM_OUT_COMPLETE: the image is complete and the bank is free; on a translation fault the context stays (R260). -/
def execStreamOutComplete (ctx : Nat) (s : State) : Host.Outcome State Fault Refusal :=
  .next (match s.ctx? ctx with
    | some c =>
      if c.place ≠ .streamingOut ∨ c.moving.isSome then s else
      match s.imagePages c .store with
      | (none, s) => s.streamFault 0x100 ctx c
      | (some pages, s) =>
        let c := { c with place := .saved, pages, bases := [] }
        ((s.modCtx ctx fun _ => c).writeImage c none).mapPutters ctx fun p => { p with saved := true }
    | none => s)

/-- The leases of a context end when it leaves its die, and its directory entries move with it (17 R332, 16 R322). -/
def State.changeDie (s : State) (ctx source target : Nat) : State :=
  if source = target then s else
  let s := s.departLanterns source ctx
  let es := (s.die source).directory.filter fun e => e.ctx == ctx
  (s.modDie source fun d => { d with directory := d.directory.filter fun e => e.ctx != ctx }).modDie target fun d =>
    { d with directory := d.directory ++ es }

/-- Whether a core can hold a context's banks: it exists and Wick has not disabled it. -/
def State.coreUsable (s : State) (core : Nat) : Bool :=
  decide (core < 384) && !((s.die (dieOf core)).disabled.contains (core % 96))

/-- An MLOOP in progress of a context stops at a step boundary, to be resumed (11 R248, R249). -/
def State.stopMloop (s : State) (ctx : Nat) : State :=
  match s.matHead ctx with
  | some (id, o, m) => if m.begun ∧ m.kind = .mloop then s.mloopBoundary id o m true else s
  | none => s

/-- Whether a CVTDN of a context is executing, which a hand-over waits for (11 R248). -/
def State.cvtBegun (s : State) (ctx : Nat) : Bool := (s.matHead ctx).any fun h => h.2.2.begun && h.2.2.kind == .cvtdn

/-- The lowest bank of a core that holds no context and is kept for none. -/
def State.emptyBank (s : State) (core : Nat) : Nat :=
  ((List.range 3).find? fun b => !(((s.resident core).map (·.2.bank)).contains b)).getD 0

/-- STREAM_IN_BEGIN: a saved context starts to move into the streaming bank of a core. -/
def execStreamInBegin (ctx core : Nat) (s : State) : Host.Outcome State Fault Refusal :=
  .next (match s.ctx? ctx with
    | some c =>
      if c.place ≠ .saved ∨ !(s.coreUsable core) ∨ !(s.streamFree core) then s else
      if c.core ≠ core ∧ s.cvtBegun ctx then s else
      let s := if c.core = core then s else (s.stopMloop ctx).leaveTyped c.core ctx
      ((s.changeDie ctx (dieOf c.core) (dieOf core)).modCtx ctx fun x => { x with
        place := .streamingIn, core, bank := s.emptyBank core, joined := x.joined && c.core == core }).movePutters ctx core
    | none => s)

/-- The bank that a restored context takes: the active one only when its gang can be restored with it (14 R295). -/
def State.restoreBank (s : State) (ctx core : Nat) : Option Place :=
  match s.freeBank core with
  | some .active => if s.gangReady ctx then some .active else if (s.inPlace core .hot).isNone then some .hot else none
  | p => p

/-- The sectors of an image that lie on other devices. -/
def State.farSectors (s : State) (c : Ctx) (pages : List (Nat × Pair)) : List Nat :=
  pages.flatMap fun p => if s.isLocal p.2 then [] else
    (upTo (sectorOf p.2) (min 512 ((c.image.toNat + c.imageSize - 65536 * p.1 + 127) / 128)))

/-- The streaming bank asks another device for a sector of an image, once nothing that is on its way there may change it. -/
def State.askImage (s : State) (ctx : Nat) (c : Ctx) (sec : Nat) : State :=
  let busy := s.remotes.any fun r => sectorOf r.2.pa == sec && match r.2.kind with
    | .image k _ => k == ctx
    | k => k.changes
  if busy then s else s.send 1 (sectorPa sec) 128 [] ⟨sectorPa sec, c.asid, c.core, .image ctx false, 0⟩

/-- A context takes what its image holds as it comes in, and the image is no longer its own (R259). -/
def State.imageIn (s : State) (ctx : Nat) (c : Ctx) (pages : List (Nat × Pair)) : State :=
  let s := if pages.any fun p => s.isLocal p.2 && !inHbm (localOf p.2) then s.setUnbk else s
  let s : State := (s.takeImage ctx pages c).modCtx ctx fun x => { x with pages := [], bases := [] }
  { s with fetched := tdel s.fetched ctx }

/-- STREAM_IN_COMPLETE: the context, read back from its image, takes the active bank where that is empty, and the other members of its
gang are restored with it, or the hot bank (R256, R259, 14 R295, 16 R322). What its image holds on other devices is asked for
first. -/
def execStreamInComplete (ctx : Nat) (s : State) : Host.Outcome State Fault Refusal :=
  .next (match s.ctx? ctx with
    | some c =>
      if c.place ≠ .streamingIn then s else
      match s.restoreBank ctx c.core with
      | none => s
      | some p =>
        match s.imagePages c .load with
        | (none, s) => s.streamFault 0x101 ctx c
        | (some pages, s) =>
          let far := (s.farSectors c pages).filter fun sec => (((tget s.fetched ctx).bind fun t => tget t sec)).isNone
          if !far.isEmpty then far.foldl (fun s sec => s.askImage ctx c sec) s else
          let s := (s.imageIn ctx c pages).restored ctx c.core p
          if p = .active then s.restoreGang ctx else s
    | none => s)

/-! ## Migration (23 R425 to R427) -/

/-- A migration begins: the context stops issuing, its subscriptions are parked, and it leaves by the streaming bank of its core
(R426 steps 1 to 3, R427). Until it has arrived, what is delivered to it lands in it wherever its bytes are. -/
def State.moveStart (s : State) (ctx : Nat) (c : Ctx) (core : Nat) (p : Place) : State :=
  let s := ((s.leaveCore ctx c.core).stopMloop ctx).parkSubs ctx
  s.modCtx ctx fun x => { x with place := .streamingOut, moving := some (core, p), left := some (s.us, c.place) }

/-- Whether a context holds a place of a core. -/
def State.holdsPlace (s : State) (core : Nat) (p : Place) : Bool := s.ctxs.any fun e => e.2.core == core && e.2.place == p

/-- The place in which a moved context arrives: the one kept for it, or, where a switch on the target has taken that, the other
one. -/
def State.arrivalPlace (s : State) (core : Nat) (p : Place) : Option Place :=
  if !(s.holdsPlace core p) then some p
  else [Place.active, Place.hot].find? fun q => !(s.holdsPlace core q)

/-- A migration ends: the context is on its target (R426 steps 4 and 5, R427). A CVTDN that is executing completes first
(11 R248). -/
def State.moveFinish (s : State) (ctx : Nat) (c : Ctx) (core : Nat) (p : Place) : State :=
  if s.cvtBegun ctx then s else
  match s.arrivalPlace core p with
  | none => s
  | some p =>
    let s := s.leaveTyped c.core ctx
    let s := s.changeDie ctx (dieOf c.core) (dieOf core)
    let bank := s.emptyBank core
    ((s.modCtx ctx fun x => { x with core, bank, moving := none, left := none, joined := false }).movePutters ctx core).restored ctx core p

/-- The reading of an island's sensor. -/
def State.islandTemp (s : State) (core : Nat) : Nat := ((s.die (dieOf core)).power.temps).getD (islandOf core) 0

/-- The cores that Wick may move a context of a die to (R425). -/
def State.targets (s : State) (die : Nat) : List Nat :=
  (upTo (96 * die) 96).filter fun g =>
    s.coreUsable g && (s.freeBank g).isSome && decide (s.islandTemp g < 90)

/-- The core on the coolest island, ties to the lowest LCORE. -/
def State.coolest (s : State) (l : List Nat) : Option Nat :=
  l.foldl (fun m g => match m with
    | none => some g
    | some x => if s.islandTemp g < s.islandTemp x then some g else some x) none

/-- The context that is on its way from an island to a core of the same die. -/
def State.movingFrom (s : State) (die island : Nat) : Option (Nat × Ctx × Nat × Place) :=
  s.ctxs.findSome? fun e =>
    match e.2.moving with
    | some (g, p) => if dieOf e.2.core = die ∧ islandOf e.2.core = island ∧ dieOf g = die then some (e.1, e.2, g, p) else none
    | none => none

/-- MIGRATION: a migration under way from an island ends; or a request of the island is honoured, once the streaming bank of the
source is free, or lapses (R425 to R428). -/
def execMigration (die island : Nat) (s : State) : Host.Outcome State Fault Refusal :=
  .next (if die ≥ 4 then s else
    match s.movingFrom die island with
    | some (ctx, c, g, p) => s.moveFinish ctx c g p
    | none =>
      match (s.die die).power.islands[island]? with
      | none => s
      | some i =>
        if !i.migReq then s else
        if !((s.die die).power.migen) then s.clearRequest die island else
        match s.heaviest die island, s.coolest (s.targets die) with
        | some (ctx, c), some g =>
          if c.gangOut then s.clearRequest die island
          else if s.streamFree c.core then (s.clearRequest die island).moveStart ctx c g ((s.freeBank g).getD .hot) else s
        | _, _ => s.clearRequest die island)

/-- CROSS_DIE_MIGRATION: system software moves a context to a core of another die (R425); the second event ends what the first
began. -/
def execCrossDieMigration (ctx core : Nat) (s : State) : Host.Outcome State Fault Refusal :=
  .next (match s.ctx? ctx with
    | some c =>
      match c.moving with
      | some (g, p) => if g = core then s.moveFinish ctx c g p else s
      | none =>
        if dieOf core = dieOf c.core ∨ !(s.coreUsable core) ∨ !(c.place = .active ∨ c.place = .hot) ∨ c.gangOut ∨ !(s.streamFree c.core) then s else
        match s.freeBank core with
        | some p => s.moveStart ctx c core p
        | none => s
    | none => s)

end Sys2Proof.Machine
end

