-- ==== Sys2Proof/Machine/Control.lean ====
section
/-! DEFINITION. Transfers of control, join barriers, yield, exit and repeat, and the instructions that act on futures (06). -/

namespace Sys2Proof.Machine

/-! ## Transfers (R130 to R135) -/

/-- The return header of the clause in progress, sign-extended from bit 55 (R132). -/
def Site.ret (st : Site) : Pair := va56 (st.h + BitVec.ofNat 56 (4 * (st.count + 1)))

/-- The target of a displacement in words from the header (R131). -/
def Site.disp (st : Site) (d : BitVec 32) : Pair := va56 st.h + 4 * d.signExtend 64

/-- Take a checked transfer, writing a link if there is one; a target that fails writes nothing (R62, R130, R132). -/
def State.transfer (s : State) (k : Key) (t : Pair) (link : List (Nat × Word)) : State × Out :=
  match s.target k s.site.w0 t with
  | (some o, s) => (s, o)
  | (none, s) => (s.modThread k fun th => th.writes link, .jump (t.setWidth 56))

/-- The condition of BR (R131). -/
def brTaken (cond : BitVec 3) (a b : Word) : Bool :=
  match cond.toNat with
  | 0 => a == b
  | 1 => a != b
  | 2 => decide (a.toInt < b.toInt)
  | 3 => decide (b.toInt ≤ a.toInt)
  | 4 => decide (a.toNat < b.toNat)
  | 5 => decide (b.toNat ≤ a.toNat)
  | _ => true

/-- The members of the issue that the word does not trap. -/
def State.doers (s : State) (i : Instr) : List (Nat × Nat) := s.site.members.filter fun m => (s.faultOf i m).isNone

/-- Ask for the target headers that are on their way from another device: whether there are any, and the state with their
fetches. -/
def State.awaitTargets (s : State) (i : Instr) (tgt : Thread → Option Pair) : Bool × State :=
  (s.doers i).foldl (fun acc m =>
    match (acc.2.member? m).bind fun x => tgt x.2 with
    | none => acc
    | some t =>
      if !(codeAddr t) then acc else
      match acc.2.fetch ⟨s.site.ctx, m.1, m.2⟩ t with
      | (.pending, s') => (true, s')
      | _ => acc) (false, s)

/-- Issue a transfer: `tgt` gives the target of a member that transfers, `link` what it writes. The word waits until every target
header has been fetched (R62). -/
def State.issueTransfer (s : State) (i : Instr) (tgt : Thread → Option Pair) (link : Thread → List (Nat × Word)) : State :=
  let (waits, s') := s.awaitTargets i tgt
  if waits && !(s.stalls i) then s'.noteStall else
  s.issueEach i fun s k _ th =>
    match tgt th with
    | some t => s.transfer k t (link th)
    | none => (s, .next)

def execBr (cond : BitVec 3) (a b : Sel) (disp : BitVec 32) (s : State) : Host.Outcome State Fault Refusal :=
  .next (s.issueTransfer (.br cond a b disp)
    (fun th => if brTaken cond (rd32 s.site.rep th .a a) (rd32 s.site.rep th .b b) then some (s.site.disp disp) else none)
    fun _ => [])

def execCall (d : Dst) (disp : BitVec 32) (s : State) : Host.Outcome State Fault Refusal :=
  .next (s.issueTransfer (.call d disp) (fun _ => some (s.site.disp disp)) fun th => dst64 s.site.rep th d s.site.ret)

def execBrx (a : Sel) (s : State) : Host.Outcome State Fault Refusal :=
  .next (s.issueTransfer (.brx a) (fun th => some (rd64 s.site.rep th .a a)) fun _ => [])

def execCallx (d : Dst) (a : Sel) (s : State) : Host.Outcome State Fault Refusal :=
  .next (s.issueTransfer (.callx d a) (fun th => some (rd64 s.site.rep th .a a))
    fun th => dst64 s.site.rep th d s.site.ret)

def execRet (a : Sel) (s : State) : Host.Outcome State Fault Refusal :=
  .next (s.issueTransfer (.ret a) (fun th => some (rd64 s.site.rep th .a a)) fun _ => [])

/-! ## Join barriers (R136 to R139) -/

/-- The release test of a barrier and then the test for a cycle, in every team of some members. -/
def State.releaseTests (s : State) (c b : Nat) (ms : List (Nat × Nat)) : State :=
  (dedup (ms.map (·.1))).foldl (fun s t => (s.modTeam c t (Team.releaseTest · b)).joinCycle c t) s

def execJset (bar : BitVec 8) (s : State) : Host.Outcome State Fault Refusal :=
  .next (s.issueEach (.jset bar) fun s k _ _ => (s.modThread k fun th => th.setBar bar.toNat .expected, .next))

/-- JWAIT: the arrival is a release at team scope, so it waits for the member's loads and atomics (R138). -/
def execJwait (bar : BitVec 8) (s : State) : Host.Outcome State Fault Refusal :=
  let i : Instr := .jwait bar
  .next (s.holdIf i (fun s k _ => s.inFlight k) fun s =>
    let st := s.site
    let after := afterWord st.h st.count st.wi 1
    let ms := s.doers i
    let s := s.issueEach i fun s k _ _ =>
      (s.modThread k fun th => th.setBar bar.toNat .arrived, .wait (.barrier bar.toNat after st.cls.latched))
    s.releaseTests st.ctx bar.toNat ms)

/-- JDROP: a release at team scope as well (R138). -/
def execJdrop (bar : BitVec 8) (s : State) : Host.Outcome State Fault Refusal :=
  let i : Instr := .jdrop bar
  .next (s.holdIf i (fun s k _ => s.inFlight k) fun s =>
    let st := s.site
    let ms := s.doers i
    let s := s.issueEach i fun s k _ _ => (s.modThread k fun th => th.setBar bar.toNat .none, .next)
    s.releaseTests st.ctx bar.toNat ms)

/-! ## Yield, exit and repeat (R140 to R142) -/

/-- Change the group of the issue. -/
def State.modGroup (s : State) (f : Group → Group) : State :=
  s.modCore s.site.core fun c => { c with groups := tmod c.groups s.site.slot f }

/-- YIELD: the deferral mark, and the group dissolves at the end of the clause. -/
def execYield (s : State) : Host.Outcome State Fault Refusal :=
  .next (s.issueEach .yield fun s k _ _ =>
    ((s.modThread k fun th => { th with deferred := true }).modGroup fun g => { g with dissolve := true }, .next))

def execExit (s : State) : Host.Outcome State Fault Refusal := .next (s.issueEach .exit fun s _ _ _ => (s, .ended))

/-- REP: the group repeats its target; each member stays at the REP word with its own REPIDX until its repeats are done. -/
def execRep (cnt : BitVec 6) (st : BitVec 4) (s : State) : Host.Outcome State Fault Refusal :=
  .next ((s.modGroup fun g => { g with rep := some ⟨cnt.toNat + 1, st⟩ }).issueEach (.rep cnt st) fun s _ _ th =>
    (s, .back th.pc))

/-! ## Futures (R147 to R150) -/

/-- WAITF. EINFO of its trap is the completion word (12 R271). -/
def execWaitf (d : Dst) (a : Sel) (chk : Bool) (s : State) : Host.Outcome State Fault Refusal :=
  .next (s.issueLocal (.waitf d a chk) fun th =>
    let w := rd32 s.site.rep th .a a
    if chk && w.extractLsb' 28 4 != 0 then .trap 0x0B1 w else ⟨dst32 s.site.rep th d w, none, 0, 0, .next⟩)

def execTestf (d : Dst) (a : Sel) (s : State) : Host.Outcome State Fault Refusal :=
  .next (s.issueLocal (.testf d a) fun th =>
    let v : Word := if (th.pendingOn a.toNat).isSome then 15#32 else (rd32 s.site.rep th .a a) >>> 28
    ⟨dst32 s.site.rep th d v, none, 0, 0, .next⟩)

/-- CANCELF: a stop request to the engine, or the release of a future slot by its handle. -/
def execCancelf (a : Sel) (rel : Bool) (s : State) : Host.Outcome State Fault Refusal :=
  .next (s.issueEach (.cancelf a rel) fun s k _ th =>
    if rel then
      (match (s.ctx? k.ctx).bind fun c => c.named k.tslot (rd32 s.site.rep th .a a) with
        | some (slot, _) => s.modCtx k.ctx fun c => { c with futures := tmod c.futures slot fun f =>
            if f.st = .done then { f with st := .free, retain := false } else { f with retain := false } }
        | none => s, .next)
    else
      (match th.pendingOn a.toNat with
        | some (.future slot _) =>
          (match s.opIn k.ctx slot with
            | some (id, _) => { s with ops := tmod s.ops id fun o => { o with canceled := true } }
            | none => s)
        | _ => s, .next))

/-- MOVF: the copy of a register that is pending on a future is pending on it too. -/
def execMovf (d : Dst) (a : Sel) (s : State) : Host.Outcome State Fault Refusal :=
  .next (s.issueEach (.movf d a) fun s k _ th =>
    (s.modThread k fun t =>
      let t := t.writes (dst32 s.site.rep th d (rd32 s.site.rep th .a a))
      match th.pendingOn a.toNat with
      | some (.future slot gen) => if d.nw || d.r == 0 then t else { t with pend := tset t.pend d.r.toNat (.future slot gen) }
      | _ => t, .next))

end Sys2Proof.Machine
end

