-- ==== Sys2Proof/Machine/Special.lean ====
section
/-! DEFINITION. The special functions (05 R121, R122): their special and exact arguments, and whether a pattern lies within their
error bound. The value elsewhere is free within the bound (log 5); the exact functions are evaluated in fixed point far below
the bounds. -/

namespace Sys2Proof.Machine

/-- 2^200 × π and 2^200 × ln 2, rounded down. -/
def pi200 : Int := 0x3243F6A8885A308D313198A2E03707344A4093822299F31D008
def ln2200 : Int := 0xB17217F7D1CF79ABC9E3B39803F2F6AF40F343267298B62D8A
/-- The scale of fixed-point numbers. -/
def one200 : Int := 2 ^ 200

/-- A finite F32 value at the scale 2^200. -/
def fix200 (s : Bool) (m : Nat) (e : Int) : Int :=
  let v : Int := ((m : Nat) * 2 ^ (e + 200).toNat : Nat)
  if s then -v else v

/-- A power series: `f k t` is the term after `t` at step `k`; the sum of `n` terms. -/
def series (f : Nat → Int → Int) : Nat → Nat → Int → Int
  | 0, _, _ => 0
  | n + 1, k, t => t + series f n (k + 1) (f k t)

/-- exp of a number at scale 2^200, for arguments of at most 1. -/
def exp200 (x : Int) : Int := series (fun k t => t * x / one200 / (k + 1)) 60 0 one200

/-- 2 × artanh of a number at scale 2^200, for arguments of at most 1/3. -/
def lnSeries (z : Int) : Int :=
  let z2 := z * z / one200
  let rec go : Nat → Nat → Int → Int
    | 0, _, _ => 0
    | n + 1, k, t => t / (2 * k + 1) + go n (k + 1) (t * z2 / one200)
  2 * go 70 0 z

/-- sin and cos of a number at scale 2^200 between −π and π. -/
def sin200 (x : Int) : Int := series (fun k t => -(t * x / one200 * x / one200) / ((2 * k + 2) * (2 * k + 3))) 40 0 x
def cos200 (x : Int) : Int := series (fun k t => -(t * x / one200 * x / one200) / ((2 * k + 1) * (2 * k + 2))) 40 0 one200

/-- An argument reduced to −π .. π. -/
def reduce200 (x : Int) : Int := (x + pi200) % (2 * pi200) - pi200

/-- The exact result of a function at a positive or any finite argument, at scale 2^200 × 2^`k` for a shift `k` that keeps its
leading bits: (value, shift). 0 FRCP, 1 FRSQ, 2 FEX2, 3 FLG2, 4 FSIN, 5 FCOS. Below 2^-1000 the value of FEX2 stands at 2^-1000: a
result lies within the bound of the one where it lies within that of the other. -/
def exactAt (fn : Nat) (s : Bool) (m : Nat) (e : Int) : Int × Int :=
  match fn with
  | 0 => (if s then -(2 ^ 260 / (m : Int)) else 2 ^ 260 / (m : Int), 60 + e)
  | 1 =>
    let odd : Nat := if e % 2 = 0 then 0 else 1
    (((isqrt 300 (2 ^ (520 + odd) / m)) : Nat), 60 + (e + odd) / 2)
  | 2 =>
    let x := fix200 s m e
    (exp200 (x % one200 * ln2200 / one200), -(max (-1000) (x / one200)))
  | 3 =>
    let t : Nat := m.log2
    let z := ((m : Int) - 2 ^ t) * one200 / (m + 2 ^ t)
    ((e + t) * one200 + lnSeries z * one200 / ln2200, 0)
  | 4 => (sin200 (reduce200 (fix200 s m e)), 0)
  | _ => (cos200 (reduce200 (fix200 s m e)), 0)

/-- A value v × 2^-(200 + k) rounded to F32. -/
def nearest (v k : Int) : Nat := (f32.round 0 1 0 (decide (v < 0)) v.natAbs (-200 - k)).bits

/-- The distance of a pattern's value from v × 2^-(200 + k) is at most `n` units of the binade of the exact value, or at most
2^-22 where `abs`. Both sides are compared at scale 2^-(400 + |k|). -/
def near (n : Nat) (abs : Bool) (v k : Int) (c : Nat) : Bool :=
  match f32.value c with
  | .fin s m e =>
    let sc : Int := 400 + k.natAbs
    let x : Int := scaled s m (e + sc) 0
    let y : Int := v * 2 ^ (sc - 200 - k).toNat
    let lim : Nat := if abs then 2 ^ (sc - 22).toNat else
      n * 2 ^ (max (((v.natAbs.log2 : Nat) : Int) - 200 - k) (-126) - 23 + sc).toNat
    decide ((x - y).natAbs ≤ lim)
  | _ => false

/-- The bound of a function at an argument (R121): units in the last place, or the absolute bound. -/
def boundOf (fn a : Nat) : Nat × Bool :=
  match fn with
  | 0 | 1 => (1, false)
  | 2 => (2, false)
  | 3 => (2, decide (0x3F000000 ≤ a ∧ a ≤ 0x40000000))
  | _ => (0, true)

/-- Where R121 has FRCP and FEX2 overflow: |a| < 2^-128, and a ≥ 128. -/
def specialOverflow (fn : Nat) (s : Bool) (m : Nat) (e : Int) : Bool :=
  match fn with
  | 0 => decide ((m.log2 : Int) + e ≤ -129)
  | 2 => !s && decide (fix200 s m e ≥ 128 * one200)
  | _ => false

/-- The exact results of R121, which set no flag. -/
def exactResult (fn a : Nat) (s : Bool) (m : Nat) (e : Int) : Option Nat :=
  let pow2 := decide (m ≠ 0) && decide (2 ^ m.log2 = m)
  let n : Int := e + m.log2
  match fn with
  | 0 => if pow2 && decide (-127 ≤ n) && decide (n ≤ 126) then some (f32.round 0 1 0 s 1 (-n)).bits else none
  | 1 => if pow2 && !s && decide (n % 2 = 0) then some (f32.round 0 1 0 false 1 (-(n / 2))).bits else none
  | 2 =>
    let x := fix200 s m e
    if decide (x % one200 = 0) && decide (-149 ≤ x / one200) && decide (x / one200 ≤ 127) then
      some (f32.round 0 1 0 false 1 (x / one200)).bits else none
  | 3 => if pow2 && !s then some (f32.round 0 1 0 (decide (n < 0)) n.natAbs 0).bits else none
  | 4 => if m = 0 then some a else none
  | _ => if m = 0 then some 0x3F800000 else none

/-- The flags of an inexact delivered result: IX, and UF when it is tiny. A delivered 0 is tiny where it stands for an underflow, as
FEX2's does, and not where FSIN or FCOS may give it within their absolute bound: DESIGN CHOICE (log 76). -/
def inexactFlags (fn c : Nat) : BitVec 6 :=
  let mag := c % 2 ^ 31
  flIX ||| (if mag < 0x00800000 ∧ (mag ≠ 0 ∨ fn = 2) then flUF else 0)

/-- A special function of an F32 argument: the table of special arguments, the exact results, overflow, and elsewhere a result
within the bound, which `free` chooses and the nearest finite value stands in for where that lies outside it: R121 names the
arguments that overflow, and no other does. -/
def specialFn (free : Nat → BitVec 32 → BitVec 32) (fn : Nat) (a : BitVec 32) : FRes :=
  match f32.value a.toNat with
  | .nan => .ok f32.nan
  | .inf s =>
    match fn with
    | 0 => .ok (f32.sign s)
    | 1 => if s then .iv f32.nan else .ok 0
    | 2 => .ok (if s then 0 else f32.inf false)
    | 3 => if s then .iv f32.nan else .ok (f32.inf false)
    | _ => .ok f32.nan
  | .fin s m e =>
    if m = 0 ∧ fn < 2 then ⟨f32.inf s, flDZ, 0, none⟩
    else if m = 0 ∧ fn = 2 then .ok 0x3F800000
    else if m = 0 ∧ fn = 3 then ⟨f32.inf true, flDZ, 0, none⟩
    else if s ∧ (fn = 1 ∨ fn = 3) then .iv f32.nan
    else match exactResult fn a.toNat s m e with
      | some r => .ok r
      | none =>
        if specialOverflow fn s m e then overflow f32 0 1 s 0
        else
          let (v, k) := exactAt fn s m e
          let (n, abs) := boundOf fn a.toNat
          let c := (free fn a).toNat
          let r := if near n abs v k c then c else nearest v k
          let r := if r % 2 ^ 31 = f32.inf false then r - 1 else r
          ⟨r, inexactFlags fn r, 0, none⟩

end Sys2Proof.Machine
end

