-- ==== Sys2Proof/Machine/Sfu.lean ====
section
/-! DEFINITION. Instructions of class SFU (05 R120 to R123): results that land later, or at once while FPCTL holds an enable. -/

namespace Sys2Proof.Machine

/-- A correctly rounded quotient (R120). -/
def Fmt.quotient (f : Fmt) (rm : BitVec 3) (ovf : BitVec 2) (a b : Nat) : FRes :=
  match f.value a, f.value b with
  | .nan, _ => .ok f.nan
  | _, .nan => .ok f.nan
  | .inf _, .inf _ => .iv f.nan
  | .inf s, .fin t _ _ => .ok (f.inf (s != t))
  | .fin s _ _, .inf t => .ok (f.sign (s != t))
  | .fin s m e, .fin t n g =>
    if n = 0 then (if m = 0 then .iv f.nan else ⟨f.inf (s != t), flDZ, 0, none⟩)
    else
      let (q, x) := divExact m n e g
      f.round rm ovf 0x076 (s != t) q x

/-- A correctly rounded square root (R120). -/
def Fmt.root (f : Fmt) (rm : BitVec 3) (ovf : BitVec 2) (a : Nat) : FRes :=
  match f.value a with
  | .nan => .ok f.nan
  | .inf s => if s then .iv f.nan else .ok (f.inf false)
  | .fin s m e =>
    if m = 0 then .ok (f.sign s) else if s then .iv f.nan
    else
      let (q, x) := sqrtExact m e
      f.round rm ovf 0x076 false q x

/-- The latch that a deferred 32-bit result writes. -/
def Site.lateLatch (st : Site) (words : Nat) : Option Nat := if st.cls.latched && words == 1 then some st.latch else Option.none

/-- The register writes of a result of one or two words. -/
def dstW (rep : Option Rep) (th : Thread) (d : Dst) (words : Nat) (v : Nat) : List (Nat × Word) :=
  if words = 2 then dst64 rep th d (BitVec.ofNat 64 v) else dst32 rep th d (BitVec.ofNat 32 v)

/-- Deliver an SFU result: at once, with its traps precise, while FPCTL holds an enable; else when it lands (R123). DESIGN CHOICE
(log 92): the trap of OVF = 11 is taken at the word also while FPCTL holds no enable. -/
def State.sfuOne (s : State) (k : Key) (th : Thread) (d : Dst) (words : Nat) (r : FRes) : State × Out :=
  if th.view.fpctl &&& 0x3F#32 ≠ 0 ∨ r.trap.isSome then
    let e := resCond s.site.rep th s.site.w0 d words r
    let s := s.modThread k fun th => th.apply s.site e
    (s.modCtx k.ctx fun c => { c with satcount := satAdd c.satcount e.sat }, e.out)
  else
    (s.defer { key := k, regs := dstW s.site.rep th d words r.bits, latch := s.site.lateLatch words,
               latchVal := BitVec.ofNat 32 r.bits, kind := some 7, flags := r.flags, sat := r.sat }, .next)

/-- An SFU instruction of one F32 argument. -/
def State.sfu1 (s : State) (i : Instr) (d : Dst) (a : Sel) (fn : Nat) : Host.Outcome State Fault Refusal :=
  .next (s.issueEach i fun s k _ th => s.sfuOne k th d 1 (specialFn Config.special fn (rd32 s.site.rep th .a a)))

def execFrcp (d : Dst) (a : Sel) (s : State) : Host.Outcome State Fault Refusal := s.sfu1 (.frcp d a) d a 0
def execFrsq (d : Dst) (a : Sel) (s : State) : Host.Outcome State Fault Refusal := s.sfu1 (.frsq d a) d a 1
def execFex2 (d : Dst) (a : Sel) (s : State) : Host.Outcome State Fault Refusal := s.sfu1 (.fex2 d a) d a 2
def execFlg2 (d : Dst) (a : Sel) (s : State) : Host.Outcome State Fault Refusal := s.sfu1 (.flg2 d a) d a 3
def execFsin (d : Dst) (a : Sel) (s : State) : Host.Outcome State Fault Refusal := s.sfu1 (.fsin d a) d a 4
def execFcos (d : Dst) (a : Sel) (s : State) : Host.Outcome State Fault Refusal := s.sfu1 (.fcos d a) d a 5

/-- FDIV and FSQRT (R120). -/
def execFdiv (d : Dst) (a b : Sel) (rm : BitVec 3) (w ovf : BitVec 2) (s : State) : Host.Outcome State Fault Refusal :=
  .next (s.issueEach (.fdiv d a b rm w ovf) fun s k _ th =>
    s.sfuOne k th d (wide w) ((if w == 3 then f64 else f32).quotient rm ovf
      (rdW s.site.rep th .a a (wide w)).toNat (rdW s.site.rep th .b b (wide w)).toNat))
def execFsqrt (d : Dst) (a : Sel) (rm : BitVec 3) (w ovf : BitVec 2) (s : State) : Host.Outcome State Fault Refusal :=
  .next (s.issueEach (.fsqrt d a rm w ovf) fun s k _ th =>
    s.sfuOne k th d (wide w) ((if w == 3 then f64 else f32).root rm ovf (rdW s.site.rep th .a a (wide w)).toNat))

end Sys2Proof.Machine
end

