-- ==== Sys2Proof/Machine/CrossLane.lean ====
section
/-! DEFINITION. Cross-lane instructions (09 R206 to R209): they work over the members of the issue, in position order, and their
results land later. -/

namespace Sys2Proof.Machine

/-- What a member brings to a cross-lane instruction: its team slot, its TID, and its own operands. -/
structure Lane where
  team : Nat
  tid : Nat
  a : Word
  b : Word
  deriving DecidableEq, Repr

/-- The lanes of an issue in position order. -/
def State.lanes (s : State) (a b : Sel) : List Lane :=
  s.site.members.filterMap fun m => (s.member? m).map fun x =>
    ⟨m.1, m.2, rd32 s.site.rep x.2 .a a, rd32 s.site.rep x.2 .b b⟩

/-- The position of a member. -/
def State.position (s : State) (k : Key) : Nat := s.site.members.findIdx (· == (k.tslot, k.tid))

/-- A deferred result of class XL with no condition. -/
def State.xlResult (s : State) (k : Key) (th : Thread) (d : Dst) (v : Word) : State × Out :=
  (s.defer { key := k, regs := dst32 s.site.rep th d v, latch := s.site.lateLatch 1, latchVal := v, kind := some 7, flags := 0,
             sat := 0 }, .next)

/-- Issue a cross-lane instruction whose result at a position is a function of the lanes. -/
def State.issueXl (s : State) (i : Instr) (d : Dst) (a b : Sel) (f : List Lane → Nat → Word) : Host.Outcome State Fault Refusal :=
  let ls := s.lanes a b
  .next (s.issueEach i fun s k _ th => s.xlResult k th d (f ls (s.position k)))

/-- Bit q of a ballot is whether position q is true (R207). -/
def ballotOf (ls : List Lane) : Word :=
  BitVec.ofNat 32 (ls.foldr (fun l acc => (if l.a = 0 then 0 else 1) + 2 * acc) 0)

/-- The identity word that MEMBER gives (R207). -/
def identity (ls : List Lane) (p : Nat) : Word :=
  match ls[p]? with
  | none => 0
  | some me =>
    match ls[me.a.toNat]? with
    | none => 0xFFFFFFFF#32
    | some l => BitVec.ofNat 32 ((if l.team = me.team then 0 else 2 ^ 16) + l.tid)

/-- The position that SHFL reads (R208). -/
def shflFrom (mode : BitVec 2) (seg : BitVec 3) (p : Nat) (b : Word) : Nat :=
  let n := 2 ^ seg.toNat
  let base := p - p % n
  let k := b.toNat % n
  match mode.toNat with
  | 0 => base + k
  | 1 => if b.toNat ≤ p - base then p - b.toNat else p
  | 2 => if b.toNat < base + n - p then p + b.toNat else p
  | _ => base + ((p - base) ^^^ k)

/-- The value that SHFL gives the member at a position. -/
def shflOf (mode : BitVec 2) (seg : BitVec 3) (ls : List Lane) (p : Nat) : Word :=
  match ls[p]? with
  | none => 0
  | some me =>
    match ls[shflFrom mode seg p me.b]? with
    | none => me.a
    | some l => l.a

def execBallot (d : Dst) (a : Sel) (s : State) : Host.Outcome State Fault Refusal :=
  s.issueXl (.ballot d a) d a a fun ls _ => ballotOf ls
def execAny (d : Dst) (a : Sel) (s : State) : Host.Outcome State Fault Refusal :=
  s.issueXl (.any d a) d a a fun ls _ => bit (ls.any fun l => l.a != 0)
def execAll (d : Dst) (a : Sel) (s : State) : Host.Outcome State Fault Refusal :=
  s.issueXl (.all d a) d a a fun ls _ => bit (ls.all fun l => l.a != 0)
def execGpos (d : Dst) (s : State) : Host.Outcome State Fault Refusal :=
  s.issueXl (.gpos d) d 0 0 fun _ p => BitVec.ofNat 32 p
def execGsize (d : Dst) (s : State) : Host.Outcome State Fault Refusal :=
  s.issueXl (.gsize d) d 0 0 fun ls _ => BitVec.ofNat 32 ls.length
def execMember (d : Dst) (a : Sel) (s : State) : Host.Outcome State Fault Refusal :=
  s.issueXl (.member d a) d a a identity
def execShfl (d : Dst) (a b : Sel) (mode : BitVec 2) (seg : BitVec 3) (s : State) : Host.Outcome State Fault Refusal :=
  s.issueXl (.shfl d a b mode seg) d a b (shflOf mode seg)

/-! ## REDUX (R209) -/

/-- The integer reductions. -/
def reduxInt (u : Bool) (op : Nat) (x y : Word) : Word :=
  match op with
  | 0 => x + y
  | 1 => if u then (if y.toNat < x.toNat then y else x) else if y.toInt < x.toInt then y else x
  | 2 => if u then (if x.toNat < y.toNat then y else x) else if x.toInt < y.toInt then y else x
  | 3 => x &&& y
  | 4 => x ||| y
  | _ => x ^^^ y

/-- An exact result as a value again. -/
def Ex.fv : Ex → FV
  | .val s m e => .fin s m e
  | .inf s => .inf s
  | _ => .nan

/-- The exact sum of values, rounded once; infinities of both signs are invalid. -/
def reduxSum (rm : BitVec 3) (ovf : BitVec 2) (vs : List FV) : FRes :=
  if vs.contains (.inf false) && vs.contains (.inf true) then .iv f32.nan else
  match vs with
  | [] => .ok 0
  | v :: rest =>
    match rest.foldl (fun acc w => (addV rm acc w).fv) v with
    | .nan => .ok f32.nan
    | .inf s => .ok (f32.inf s)
    | .fin s m e => f32.round rm ovf 0x076 s m e

/-- The reduction of all lanes. -/
def reduxOf (ty : BitVec 2) (op : BitVec 4) (rm : BitVec 3) (ovf : BitVec 2) (ls : List Lane) : FRes :=
  match ls.map (·.a) with
  | [] => .ok 0
  | x :: rest =>
    if ty = 2 then
      (if op = 0 then reduxSum rm ovf ((x :: rest).map fun y => f32.value y.toNat)
       else
        let r := rest.foldl (fun acc y => f32.minMax (op == 2) acc y.toNat) x.toNat
        .ok (if (f32.value r).isNan then f32.nan else r))
    else .ok (rest.foldl (reduxInt (ty == 1) op.toNat) x).toNat

def execRedux (d : Dst) (a : Sel) (ty : BitVec 2) (op : BitVec 4) (rm : BitVec 3) (ovf : BitVec 2) (s : State) :
    Host.Outcome State Fault Refusal :=
  let r := reduxOf ty op rm ovf (s.lanes a a)
  .next (s.issueEach (.redux d a ty op rm ovf) fun s k _ th => s.sfuOne k th d 1 r)

/-! ## Flag words (05 R124, R125) -/

/-- The flag word of a FLAGS scope. -/
def State.flagWord (s : State) (sc : BitVec 8) (t : Team) (th : Thread) : BitVec 6 :=
  match sc.toNat with
  | 0 => th.flags
  | 1 => s.site.all.foldl (fun f m => f ||| ((s.member? m).map (·.2.flags)).getD 0) 0
  | _ => t.threads.foldl (fun f e => f ||| e.2.flags) t.endFlags

/-- FLAGS waits for the SFU and XL results of the group's members. DESIGN CHOICE (log 79): a member that the word itself traps is not
waited for, and its flags count. -/
def execFlags (d : Dst) (sc : BitVec 8) (s : State) : Host.Outcome State Fault Refusal :=
  let i : Instr := .flags d sc
  .next (s.holdIf i (fun _ _ th => th.count 7 != 0) fun s =>
    s.issueEach i fun s k t th =>
      (s.modThread k fun x => x.writes (dst32 s.site.rep th d ((s.flagWord sc t th).setWidth 32)), .next))

def execFlgclr (mask : BitVec 8) (s : State) : Host.Outcome State Fault Refusal :=
  let i : Instr := .flgclr mask
  .next (s.holdIf i (fun _ _ th => th.count 7 != 0) fun s =>
    s.issueEach i fun s k _ _ => (s.modThread k fun x => { x with flags := x.flags &&& ~~~(mask.setWidth 6) }, .next))

end Sys2Proof.Machine
end

