-- ==== Sys2Proof/Machine/Discard.lean ====
section
/-! DEFINITION. The discard of all work (22 R412, 20 R375, 19 R372), which an uncorrectable error and a thermal trip share. -/

namespace Sys2Proof.Machine

/-- Every store that has reached an L1 or a home slice is written back (R412 step 3). -/
def State.writeAllBack (s : State) : State :=
  let s := s.cleanL1s (s.cores.map (·.1)) true fun _ => true
  (s.pkg.l2.map (·.1)).foldl State.cleanHome s

/-- Every enabled queue fails and is no longer served; taking returns to RIDX, and the bins are empty (19 R372, R358). -/
def State.failQueues (s : State) : State :=
  (List.range 2048).foldl (fun s q =>
    if s.qEn q then s.setCtl q ((s.qCtl q ||| 8) - 1) else s)
    { s with queues := tmap s.queues fun _ x => { Queue.reset with ridx := x.ridx, served := x.served, cur := x.cur, taking := x.ridx } }

/-- The record of each running launch receives STATE 3 (19 R372). -/
def State.failLaunches (s : State) : State :=
  let s := s.launches.foldl (fun s e =>
    if e.2.ready ≠ 0 ∧ !e.2.done then
      ({ s with launches := tmod s.launches e.1 fun l => { l with failed := true } } : State).writeRecord e.1
    else s) s
  { s with launches := s.launches.filter (·.2.writing), held := [] }

/-- The slot tables are empty: every bind record is freed. -/
def State.freeBinds (s : State) : State :=
  (List.range 4).foldl (fun s d => ((s.die d).binds.map (·.1)).foldl (fun s k => s.setBind d k none) s) s

/-- A core without work. -/
def Core.discarded (c : Core) : Core :=
  { c with groups := [], ages := [], lastLaneset := none, greedy := [], l1 := [], abuf := [], aexp := [], wbuf := [], wexp := [], cbuf := [],
           aOwner := none, wOwner := none, cOwner := none }

/-- A die without work: its lanterns are dark, its lease queue, directory and pending faults empty, and DROPPED is 0 (20 R375). -/
def Die.discarded (d : Die) : Die :=
  { d with lanterns := [], leaseQ := [], directory := [], pending := [], tcb := { d.tcb with dropped := false } }

/-- The image of a context that was streaming out has no stated contents (R413; log 43). -/
def State.loseImage (s : State) (c : Ctx) : State :=
  (List.range (c.imageSize / 128)).foldl (fun s k =>
    let va := c.image + BitVec.ofNat 64 (128 * k)
    match s.walk (dieOf c.core) c.asid va with
    | .leaf e l =>
      let pa := leafPa e l va
      if s.isLocal pa && inHbm (localOf pa) then
        let (n, s) := s.drawNat
        s.homeWrite (localOf pa) 128 (n % 2 ^ 1024)
      else s
    | _ => s) s

/-- Every image that was being written. -/
def State.loseImages (s : State) : State :=
  s.ctxs.foldl (fun s e => if e.2.place = .streamingOut ∧ e.2.moving.isNone then s.loseImage e.2 else s) s

/-- Whether a request is a write, which stands although work is discarded. -/
def Remote.isWrite (r : Remote) : Bool :=
  match r.kind with
  | .write _ _ => true
  | _ => false

/-- The discard: R412 steps 1, 2, 3 and 5. `failed` stores zero at the failing storage once the kept stores are written back (step
4). The write-backs to other devices are kept with those stores, and wait for their acknowledgements (25 R437). -/
def State.discard (s : State) (failed : State → State) : State :=
  let s := failed s.loseImages.writeAllBack
  let s := { s with ctxs := [], qreqs := [], landings := [], loads := [], atoms := [], feWaits := [], ops := [], fetched := []
                    remotes := s.remotes.filter (·.2.isWrite)
                    cores := tmap s.cores fun _ c => c.discarded
                    dies := s.dies.map Die.discarded }
  ((s.freeBinds.failLaunches).failQueues).modPkg fun p => { p with subs := [], disc := true, discarded := some p.up }

end Sys2Proof.Machine
end

