-- ==== Sys2Proof/Machine/Power.lean ====
section
/-! DEFINITION. Power, clocks and heat (23 R414 to R424): the control interval with the candle ring, its reductions, the throttles of
the islands, notices, migration requests, the trip, and the power control block. -/

namespace Sys2Proof.Machine

/-! ## The candle ring (R416) -/

/-- What a die asks for, capped at its DIEMAX. -/
def State.want (s : State) (e : Env) (d : Nat) : Nat := min (e.demand.getD d 0) (s.die d).power.diemax

/-- The dies in the order of the ring, from the position of interval k. -/
def ringOrder (k : Nat) : List Nat := (List.range 4).map fun i => ([0, 1, 3, 2] : List Nat).getD ((k + i) % 4) 0

/-- Lap 1: the grants, and what is left in the pool. -/
def lapOne (want : Nat → Nat) (order : List Nat) : Tab Nat × Nat :=
  order.foldl (fun (r : Tab Nat × Nat) d =>
    let g := min (want d) (2400 + r.2)
    (tset r.1 d g, 2400 + r.2 - g)) ([], 0)

/-- Lap 2: what is left goes to the dies that are short. -/
def lapTwo (want : Nat → Nat) (order : List Nat) (r : Tab Nat × Nat) : Tab Nat × Nat :=
  order.foldl (fun (r : Tab Nat × Nat) d =>
    let g := (tget r.1 d).getD 0
    let t := min (want d - g) r.2
    (tset r.1 d (g + t), r.2 - t)) r

/-- The grants of an interval. -/
def candles (want : Nat → Nat) (k : Nat) : Tab Nat := (lapTwo want (ringOrder k) (lapOne want (ringOrder k))).1

/-! ## Reductions of a die that is short (R417) -/

/-- How far a die has gone through the steps of R417: boost dropped, pace, ration, HBM4 bandwidth in quarters, lantern cap, and the
voltage that step 6 leaves. -/
structure Cut where
  boost : Bool
  pace : Nat
  ration : Nat
  hbm : Nat
  cap : Nat
  mv : Nat
  deriving DecidableEq, Repr

/-- The reductions after `n` of the 64 places of R417's order, each step exhausted before the next: 1 boost, 2 of pace, 10 of
ration, 3 of bandwidth, 8 of lanterns, 40 of voltage. -/
def cutAt (n lslots : Nat) : Cut :=
  { boost := decide (n ≥ 1), pace := if n ≥ 3 then 4 else if n ≥ 2 then 2 else 1, ration := 12 - min 10 (n - 3)
    hbm := 4 - min 3 (n - 13), cap := lslots - (n - 16), mv := 650 - 5 * min 40 (n - 24) }

/-- The reductions of a die: none where its grant meets its demand; how far they go where it does not is free (log 34). -/
def State.dieCut (s : State) (d grant demand : Nat) : Cut × State :=
  let lslots := (s.die d).power.lslots
  if grant ≥ demand then (cutAt 0 lslots, s) else
  let (n, s) := s.drawNat
  (cutAt (n % 64 + 1) lslots, s)

/-! ## The islands (R418 to R420) -/

/-- Whether an MLOOP runs on a core of an island. -/
def State.mloopOn (s : State) (die island : Nat) : Bool :=
  s.ctxs.any fun e => dieOf e.2.core == die && islandOf e.2.core == island && (s.matHead e.1).any fun h => h.2.2.begun && h.2.2.kind == .mloop

/-- An island in an interval: throttles, target, ration, pace and voltage (R418). -/
def Island.evaluate (i : Island) (p : Power) (c : Cut) (mloop : Bool) (temp amps busy : Nat) : Island :=
  let cur := decide (amps > p.ilimit) || (i.cur && decide (10 * amps > 9 * p.ilimit))
  let therm := decide (temp ≥ 105) || (i.therm && decide (temp ≥ 100))
  let boost := p.boosten && !cur && !therm && decide (busy ≥ 75) && !c.boost
  let target := if boost then 780 else 650
  let target := if cur then min target (i.mv - 20) else target
  let target := if therm then min target 550 else target
  let target := max 450 (min target (if c.mv < 650 then c.mv else target))
  let r := if cur then 2 else c.ration
  let m := if mloop then c.pace else 1
  let m := if cur then 4 else m
  let mig := decide (temp ≥ 95) || (i.mig && decide (temp ≥ 90))
  { i with cur, therm, target, mig
           mv := if i.mv < target then min target (i.mv + 10) else max target (i.mv - 10)
           r := max 2 (if therm then min r 6 else r), m := if therm then max m 2 else m }

/-- The information word of a notice (R423). -/
def powerInfo (trip : Bool) (temp die isl : Nat) (i : Island) : Word :=
  BitVec.ofNat 32 (trip.toNat * 2 ^ 31 + min temp 127 * 2 ^ 24 + die % 4 * 2 ^ 22 + isl % 64 * 2 ^ 16 + i.r % 16 * 2 ^ 12 + i.m % 16 * 2 ^ 8 +
    (i.target - 400) / 5 % 256)

/-- A notice in a context's event record (R422): `thm` is its kind. -/
def EventRec.note (e : EventRec) (thm : Bool) (info : Word) (time : BitVec 64) : EventRec :=
  let e := if (if thm then e.pendThm else e.pendCur) then { e with coal := min 65535 (e.coal + 1) }
    else if thm then { e with pendThm := true } else { e with pendCur := true }
  { e with info, time }

/-- The notices of one kind to the active contexts of an island, copied to Wick, and to the host with HOSTN = 1. -/
def State.islandNotice (s : State) (die island : Nat) (thm : Bool) (info : Word) : State :=
  let cs := (s.ctxs.filter fun e => e.2.place == .active && dieOf e.2.core == die && islandOf e.2.core == island).map (·.1)
  cs.foldl (fun s c =>
    let s := s.modCtx c fun x => { x with event := x.event.note thm info s.ns }
    let cause := if thm then 0x151 else 0x150
    let n : Notice := ⟨.wick, cause, info.setWidth 64, BitVec.ofNat 64 c⟩
    { s with notices := s.notices ++ (if (s.die die).power.hostn then [n, { n with too := .host }] else [n]) }) s

/-- One island of a die: its throttles, its notices in the first interval of a throttle, and its migration request (R420). -/
def State.islandTurn (s : State) (e : Env) (c : Cut) (die k : Nat) : State :=
  let p := (s.die die).power
  let i := p.islands.getD k Island.reset
  let temp := p.temps.getD k 0
  let j := i.evaluate p c (s.mloopOn die k) temp ((e.currents.getD die []).getD k 0) ((e.issue.getD die []).getD k 0)
  let info := powerInfo false temp die k j
  let ask := j.mig && i.lastMig.all fun t => decide (s.pkg.up ≥ t + 100)
  let j := if ask then { j with lastMig := some s.pkg.up, migReq := true } else j
  let s := s.modDie die fun d => { d with power := { d.power with islands := d.power.islands.set k j } }
  let s := if j.cur && !i.cur then s.islandNotice die k false info else s
  let s := if j.therm && !i.therm then s.islandNotice die k true info else s
  if ask then { s with notices := s.notices ++ [⟨.wick, 0x152, info.setWidth 64, 0⟩] } else s

/-! ## The interval -/

/-- A write to the power control block as it takes effect (R424). -/
def Power.applyWrite (p : Power) (w : Nat × Word) : Power :=
  let v := w.2.toNat
  match w.1 with
  | 0x00 =>
    { p with diemax := if 600 ≤ v / 65536 ∧ v / 65536 ≤ 9600 then v / 65536 else p.diemax
             lslots := if field v 15 12 ≤ 8 then field v 15 12 else p.lslots
             ctxn := v.testBit 3, hostn := v.testBit 2, migen := v.testBit 1, boosten := v.testBit 0 }
  | 0x04 => { p with ilimit := if 100 ≤ v % 65536 ∧ v % 65536 ≤ 800 then v % 65536 else p.ilimit }
  | _ => p

/-- The start of an interval on a die: writes take effect, and the sensors are sampled. -/
def Power.begin (p : Power) (temps : List Nat) : Power :=
  { p.writes.foldl Power.applyWrite p with writes := [], temps := (List.range 32).map fun k => min 255 (temps.getD k 0) }

/-- The sensor that trips the package, if any: the hottest, then the lowest die, then the lowest sensor (R421). -/
def State.tripping (s : State) : Option (Nat × Nat × Nat) :=
  ((List.range 4).flatMap fun d => (List.range 32).map fun k => (d, k, (s.die d).power.temps.getD k 0)).foldl
    (fun m x => if x.2.2 < 120 then m else match m with
      | none => some x
      | some y => if x.2.2 > y.2.2 then some x else some y) none

/-- The trip: all work is discarded, the package returns to the safe stage, and Wick and the host are told (R421). -/
def State.trip (s : State) (d k temp : Nat) : State :=
  let isl := if k < 24 then k else 0x3F
  let i := if k < 24 then (s.die d).power.islands.getD k Island.reset else { Island.reset with r := 0, m := 0, target := 400 }
  let s := (s.discard id).modPkg fun p => { p with stage := 1, tripped := true }
  s.notify 0x151 ((powerInfo true temp d isl i).setWidth 64) 0

/-- The interval of one die once the grants are known. -/
def State.dieTurn (s : State) (e : Env) (grants : Tab Nat) (d : Nat) : State :=
  let grant := (tget grants d).getD 0
  let (c, s) := s.dieCut d grant (e.demand.getD d 0)
  let p := (s.die d).power
  let hot := (upTo 24 8).foldl (fun m k => max m (p.temps.getD k 0)) 0
  let uncore := decide (hot ≥ 105) || (p.uncore && decide (hot ≥ 100))
  let s := s.modDie d fun x => { x with power := { x.power with
    grant, uncore, hbmCap := if uncore then min c.hbm 2 else c.hbm, cap := if uncore then min c.cap 4 else c.cap } }
  let s := (List.range 24).foldl (fun s k => s.islandTurn e c d k) s
  let thr := (List.range 24).foldl (fun (w : Nat) k =>
    if ((s.die d).power.islands[k]?).any fun i => i.cur || i.therm then w + 2 ^ k else w) 0
  (s.modDie d fun x => { x with power := { x.power with thr := BitVec.ofNat 24 thr } }).lanternBoundary d

/-- One microsecond later; the management lane answers from 30 ms after power-good on (22 R406). -/
def Pkg.later (p : Pkg) : Pkg :=
  { p with up := p.up + 1, stage := if p.stage = 0 ∧ p.up + 1 ≥ 30000 then 1 else p.stage }

/-- CONTROL_INTERVAL: the next 1 µs interval begins (R416 to R421). The trip is armed from 20 ms on (R406). The intervals are numbered
from power-good (log 34). -/
def execControlInterval (s : State) : Host.Outcome State Fault Refusal :=
  .next (
    let us := if s.pkg.stage = 2 then s.us + 1 else s.us
    let e : Env := s.env.headD { temps := [], currents := [], issue := [], demand := [] }
    let s := { s with us, ns := if s.pkg.stage = 2 then BitVec.ofNat 64 (max s.ns.toNat (1000 * us)) else s.ns, env := if s.env.length > 1 then s.env.drop 1 else s.env }
    let s := s.modPkg Pkg.later
    let s := (List.range 4).foldl (fun s d => s.modDie d fun x => { x with power := x.power.begin (e.temps.getD d []) }) s
    match (if s.pkg.up ≥ 20000 ∧ !s.pkg.tripped then s.tripping else none) with
    | some (d, k, temp) => s.trip d k temp
    | none =>
      let grants := candles (fun d => s.want e d) s.pkg.up
      (List.range 4).foldl (fun s d => s.dieTurn e grants d) s)

/-- POWER_CONTROL_WRITE: a write to the power control block of a die takes effect at the next interval start (R424). -/
def execPowerControlWrite (die off : Nat) (val : BitVec 32) (s : State) : Host.Outcome State Fault Refusal :=
  .next (if die ≥ 4 then s else s.modDie die fun d => { d with power := { d.power with writes := d.power.writes ++ [(off, val)] } })

/-- A word of the power control block as the management lane reads it (R424). -/
def Power.word (p : Power) (off : Nat) : Word :=
  if off = 0x00 then
    BitVec.ofNat 32 (p.diemax * 65536 + p.lslots * 4096 + p.ctxn.toNat * 8 + p.hostn.toNat * 4 + p.migen.toNat * 2 + p.boosten.toNat)
  else if off = 0x04 then BitVec.ofNat 32 p.ilimit
  else if off = 0x08 then BitVec.ofNat 32 (p.grant * 65536 + p.cap * 4096)
  else if off = 0x0C then BitVec.ofNat 32 p.thr.toNat
  else if 0x10 ≤ off ∧ off < 0x30 then
    BitVec.ofNat 32 ((List.range 4).foldl (fun w j => w + p.temps.getD (off / 4 * 4 - 0x10 + j) 0 * 2 ^ (8 * j)) 0)
  else 0

end Sys2Proof.Machine
end

