-- ==== Sys2Proof/Machine/Package.lean ====
section
/-! DEFINITION. The package (22): its start and restart (R406), the firmware image (R408), attestation (R409), errors (R411, R412), and
the requests of the management lane (25 R439). -/

namespace Sys2Proof.Machine

/-! ## Start (R406) -/

/-- Cycle 0: every register at its reset value, nothing trained. The flash, the fuses and what they disable remain, and so do the
model's own fields. -/
def State.powerUp (s : State) : State :=
  { State.reset with
    pkg := { Pkg.reset with stage := 0, verified := false, up := 0, flash := s.pkg.flash, fuses := s.pkg.fuses }
    dies := s.dies.map fun d => { Die.reset with disabled := d.disabled }
    notices := s.notices, sent := s.sent, mgmt := s.mgmt, agenda := s.agenda, turn := s.turn, draws := s.draws, fresh := s.fresh, env := s.env }

def execPowerGood (s : State) : Host.Outcome State Fault Refusal := .next s.powerUp

/-- A byte of a die's LCORE remap table (14 R289). -/
def Die.remapByte (d : Die) (l : Nat) : Byte := if d.disabled.contains l then 0 else BitVec.ofNat 8 (128 + l)

/-- Wick's mirror of the remap tables (14 R289; log 29). -/
def State.mirrorRemap (s : State) : State :=
  (List.range 4).foldl (fun s d =>
    s.homeWriteL (localOf s.pkg.mirror + 0x2000 * d + 0x1000) ((List.range 96).map (s.die d).remapByte)) s

/-- A die at the release of its cores: its TLB holds nothing, and firmware has set ATBASE. -/
def Die.released (d : Die) : Die := { d with tlb := [], tcb := { d.tcb with atbase := Tcb.reset.atbase } }

/-- CORE_RELEASE: once the firmware is verified, memory trained and every store zero, the full stage begins. -/
def execCoreRelease (s : State) : Host.Outcome State Fault Refusal :=
  .next (if s.pkg.stage ≠ 1 ∨ !s.pkg.verified ∨ s.pkg.tripped then s else
    let s := { s with cores := [], us := 0, ns := 0, dies := s.dies.map Die.released }
    (s.modPkg fun p => { p with stage := 2, l2 := [], hbm := [], qtbase := qtbaseReset, mirror := mirrorReset }).mirrorRemap)

/-! ## The firmware image (R408) -/

/-- `n` bytes of the flash. -/
def Pkg.flashBytes (p : Pkg) (a n : Nat) : List Byte := (List.range n).map fun k => mread p.flash (a + k)

/-- Whether an image verifies: format word, length, zero fields, the key by its fused hash, and the signature over the hash of the
signed bytes. -/
def Pkg.imageOk (p : Pkg) : Bool :=
  let len := leNat (p.flashBytes 8 4)
  leNat (p.flashBytes 0 4) == 0x49524659 && decide (len ≤ 67107840) && (p.flashBytes 0x0C 0xF4).all (· == 0) &&
    (p.flashBytes 0x300 0x100).all (· == 0) &&
    sha512 Config.firmwareKey == Config.keyHash p.fuses &&
    Config.signatureOk Config.firmwareKey (sha512 (p.flashBytes 0 0x100 ++ p.flashBytes 0x400 len)) (p.flashBytes 0x100 0x200)

/-- FIRMWARE_VERIFY, in the safe stage: the measurement of a good image, VFAIL for a bad one. -/
def execFirmwareVerify (s : State) : Host.Outcome State Fault Refusal :=
  .next (if s.pkg.stage ≠ 1 ∨ s.pkg.verified ∨ s.pkg.vfail ∨ s.pkg.tripped then s else
    s.modPkg fun p =>
      if p.imageOk then
        { p with verified := true, measurement := sha512 (p.flashBytes 0 (0x400 + leNat (p.flashBytes 8 4))) }
      else { p with vfail := true })

/-! ## The management lane (25 R439) -/

/-- Answer a packet: source and destination change places, the tag and H return (25 R433, R438). -/
def State.reply (s : State) (p : PacketHead) (kind : Nat) (data : List Byte) : State :=
  let head : PacketHead := { reserved := false, kind, aop := 0, bytes := data.length, len := packetLen data.length, host := p.host,
                             src := s.pkg.deviceId, dst := p.src, tag := p.tag, addr := p.addr }
  { s with sent := s.sent ++ [⟨head, data⟩] }

/-- The target that a management request names, and its offset (25 R439). -/
def headTarget (p : PacketHead) : Nat := p.addr.toNat / 2 ^ 56
def headOffset (p : PacketHead) : Nat := p.addr.toNat % 2 ^ 48

/-- Whether LEN of a management request matches BYTES (25 R433): a write carries its bytes, any other request none. -/
def lenOk (p : PacketHead) (write : Bool) : Bool := p.len == if write then packetLen p.bytes else 0

/-- A management request for this device: none is answered before the safe stage, and a malformed one is dropped with a reject
(25 R433). -/
def State.manage (s : State) (p : PacketHead) (good : Bool) (go : State → State) : State :=
  if s.pkg.stage = 0 ∨ p.dst ≠ s.pkg.deviceId then s
  else if p.reserved || p.kind != 0x10 || !good then s.reply p 0x07 []
  else go s

/-- The answer to a management request. -/
def State.answer (s : State) (p : PacketHead) (reject : Bool) (data : List Byte) : State :=
  { s with mgmt := s.mgmt ++ [⟨p, reject, data⟩] }

/-- RESTART: the request that has come is answered, and the package returns to cycle 0 (R406, 25 R439). -/
def execRestart (s : State) : Host.Outcome State Fault Refusal :=
  .next (match s.restartAsk with
    | none => s
    | some p => ({ s with restartAsk := none } : State).manage p (lenOk p false || lenOk p true) fun s => if headTarget p ≠ 5 then s else (s.answer p false []).powerUp)

/-- The bytes of a window's registers (R401). -/
def Window.bytes (w : Window) : List Byte :=
  leBytes 8 w.base.toNat ++ leBytes 8 w.limit.toNat ++ leBytes 8 w.expbase.toNat ++ leBytes 4 (w.fmt.toNat * 2 + w.en.toNat) ++ leBytes 4 0

/-- What the configuration measurement covers: the fuses, the 16 windows and ATBASE of each die (R409; log 6). -/
def State.configBytes (s : State) : List Byte :=
  s.pkg.fuses ++ (List.range 16).flatMap (fun w => (s.window w).bytes) ++
    (List.range 4).flatMap fun d => leBytes 8 (s.die d).tcb.atbase.toNat

/-- The attestation report (R409). -/
def State.attestation (s : State) (nonce : BitVec 256) : List Byte :=
  let body := s.pkg.measurement ++ sha512 s.configBytes ++ leBytes 32 nonce.toNat ++
    leBytes 8 (s.pkg.deviceId.toNat + s.pkg.stage % 4 * 2 ^ 20) ++ leBytes 8 (if s.pkg.stage = 2 then s.ns.toNat else 0) ++ List.replicate 80 0
  body ++ (Config.sign body).toList

/-- ATTESTATION_REQUEST: the report for a nonce, whose 32 bytes the request carries, or, without one, the public certificate of the
identity key (log 36). -/
def execAttestationRequest (p : PacketHead) (nonce : Option (BitVec 256)) (s : State) : Host.Outcome State Fault Refusal :=
  .next (s.manage p (lenOk p nonce.isSome && (nonce.isNone || p.bytes == 32)) fun s => if headTarget p ≠ 4 then s else
    s.answer p false (match nonce with
      | some n => s.attestation n
      | none => Config.identityCert))

/-- A request to control space: a write passes the checks of a thread's store, and a rejected one is answered so (R400). -/
def State.mgmtControl (s : State) (p : PacketHead) (n : Nat) (write : Bool) (v : Pair) : State :=
  if write then
    match s.ctlStore (headOffset p) n v with
    | (some _, s) => s.answer p true []
    | (none, s) => s.answer p false []
  else
    let (v, s) := s.ctlLoad (headOffset p) n
    s.answer p false (leBytes n v)

/-- MGMT_CONTROL_SPACE: a request to control space or, in a die's target, to its power control block (25 R439). A target that has no
meaning is rejected, and so is a request whose BYTES are no access there (log 36); the other targets have events of their own. -/
def execMgmtControlSpace (p : PacketHead) (wide write : Bool) (v : BitVec 64) (s : State) : Host.Outcome State Fault Refusal :=
  .next (s.manage p (lenOk p write) fun s =>
    let die := p.addr.toNat / 2 ^ 48 % 4
    match headTarget p with
    | 0 => if p.bytes ≠ (if wide then 8 else 4) then s.answer p true [] else s.mgmtControl p (if wide then 8 else 4) write v
    | 1 =>
      if p.bytes ≠ 4 then s.answer p true []
      else if write then
        (s.modDie die fun d => { d with power := { d.power with writes := d.power.writes ++ [(headOffset p, loWord v)] } }).answer p false []
      else s.answer p false (leBytes 4 ((s.die die).power.word (headOffset p)).toNat)
    | t => if t ≤ 5 then s else s.answer p true [])

/-- One word of the id and routing registers, at the model's own offsets (R434, R435; log 36): 0 the device id, in the safe stage
before a trip only; 4 the member mask; from 0x1000 the present bits of 32 groups each; from 0x10000 the link of each group. -/
def Pkg.routingWrite (p : Pkg) (off : Nat) (v : Word) : Pkg :=
  if off = 0 then (if p.stage = 1 ∧ !p.tripped then { p with deviceId := v.setWidth 19 } else p)
  else if off = 4 then { p with routing := { p.routing with members := v.setWidth 16 } }
  else if 0x1000 ≤ off ∧ off < 0x2000 then
    let first := 32 * ((off - 0x1000) / 4)
    let on := (upTo first 32).filter fun g => v.getLsbD (g - first)
    { p with routing := { p.routing with groups := (p.routing.groups.filter fun g => !(decide (first ≤ g) && decide (g < first + 32))) ++ on } }
  else if 0x10000 ≤ off ∧ off < 0x30000 then
    { p with routing := { p.routing with links := tset p.routing.links ((off - 0x10000) / 4) (v.toNat % 32) } }
  else p

/-- The same registers as they are read, with the reports of QTBASE at 8 and of the base of the slot-table mirror at 16 (25 R439;
log 36). -/
def Pkg.routingRead (p : Pkg) (off : Nat) : Word :=
  if off = 0 then p.deviceId.setWidth 32
  else if off = 4 then p.routing.members.setWidth 32
  else if off = 8 then loWord p.qtbase
  else if off = 12 then hiWord p.qtbase
  else if off = 16 then loWord p.mirror
  else if off = 20 then hiWord p.mirror
  else if 0x1000 ≤ off ∧ off < 0x2000 then
    BitVec.ofNat 32 ((List.range 32).foldl (fun w i => if p.routing.groups.contains (32 * ((off - 0x1000) / 4) + i) then w + 2 ^ i else w) 0)
  else if 0x10000 ≤ off ∧ off < 0x30000 then BitVec.ofNat 32 ((tget p.routing.links ((off - 0x10000) / 4)).getD 0)
  else 0

def execMgmtRoutingId (p : PacketHead) (write : Bool) (v : BitVec 32) (s : State) : Host.Outcome State Fault Refusal :=
  .next (s.manage p (lenOk p write) fun s => if headTarget p ≠ 2 then s else
    if p.bytes ≠ 4 then s.answer p true []
    else if write then (s.modPkg (Pkg.routingWrite · (headOffset p) v)).answer p false []
    else s.answer p false (leBytes 4 (s.pkg.routingRead (headOffset p)).toNat))

/-- MGMT_BOOT_FLASH: bytes of the flash are read or written; the image in it counts from the next restart on (R408). A request beyond
64 MiB is rejected (log 36). -/
def execMgmtBootFlash (p : PacketHead) (write : Bool) (v : List (BitVec 8)) (s : State) : Host.Outcome State Fault Refusal :=
  .next (s.manage p (lenOk p write && decide (1 ≤ p.bytes) && decide (p.bytes ≤ 256) && (!write || v.length == p.bytes)) fun s =>
    if headTarget p ≠ 3 then s else
    if headOffset p + p.bytes > 2 ^ 26 then s.answer p true [] else
    if write then (s.modPkg fun x => { x with flash := mwriteL x.flash (headOffset p) v }).answer p false []
    else s.answer p false (s.pkg.flashBytes (headOffset p) p.bytes))

/-- A response in pieces of at most 256 bytes, which is what a packet carries (25 R433; log 36). -/
def responseParts (data : List Byte) : List (List Byte) :=
  (data.take 256) :: (upTo 1 ((data.length + 255) / 256 - 1)).map fun i => (data.drop (256 * i)).take 256

/-- MANAGEMENT_RESPONSE: an answer leaves for its requester, in packets or as a reject (25 R438, R439). -/
def execManagementResponse (tag : Nat) (s : State) : Host.Outcome State Fault Refusal :=
  .next (match s.mgmt.find? fun m => m.head.tag.toNat == tag with
    | none => s
    | some m =>
      let s := { s with mgmt := s.mgmt.erase m }
      if m.reject then s.reply m.head 0x07 [] else (responseParts m.data).foldl (fun s d => s.reply m.head 0x11 d) s)

/-! ## Errors (R410 to R412) -/

/-- One more corrected error: a notice each time the count reaches a nonzero multiple of CETHR (R411). -/
def State.countCorrected (s : State) : State :=
  let n := s.pkg.cecnt.toNat
  if n = 0xFFFFFFFF then s else
  let s := s.modPkg fun p => { p with cecnt := BitVec.ofNat 32 (n + 1) }
  if s.pkg.cethr ≠ 0 ∧ (n + 1) % s.pkg.cethr.toNat = 0 then s.notify 0x161 (BitVec.ofNat 64 (n + 1)) 0 else s

def execCorrectedError (s : State) : Host.Outcome State Fault Refusal := .next s.countCorrected

/-- The storage code of an error-log entry. -/
def errorCode : Storage → Nat
  | .hbm => 1
  | .l2 => 2
  | .l1 => 3
  | .regScratch => 4
  | .typedBuffer => 5
  | .tlb | .other => 6

/-- Words 0 and 1 of an error-log entry (R411). -/
def errorWords (e : ErrorSite) : Word × Word :=
  let sec := e.addr.toNat / 128 * 128
  match e.storage with
  | .hbm | .l2 | .l1 => (BitVec.ofNat 32 sec, BitVec.ofNat 32 (sec / 2 ^ 32))
  | .regScratch => (BitVec.ofNat 32 (e.core % 128 + e.bank % 4 * 2 ^ 7 + e.offset * 2 ^ 9), BitVec.ofNat 32 e.isScratch.toNat)
  | .typedBuffer => (BitVec.ofNat 32 (e.core % 128 + e.bank % 4 * 2 ^ 7 + e.offset * 2 ^ 9), 0)
  | .tlb | .other => (BitVec.ofNat 32 (e.core % 128), 0)

/-- Write the error-log entry of an uncorrectable error (R411). -/
def State.logError (s : State) (e : ErrorSite) : State :=
  s.modPkg fun p => { p with
    elog := tset p.elog (p.elput.toNat % 16) ⟨(errorWords e).1, (errorWords e).2, BitVec.ofNat 32 (errorCode e.storage + e.die % 4 * 2 ^ 4), p.elput⟩
    elput := p.elput + 1 }

/-- The failing sector is dropped where it is cached, before dirty data is written back (R412 step 3). -/
def State.dropFailing (s : State) (e : ErrorSite) : State :=
  match e.storage with
  | .l2 => s.modPkg fun p => { p with l2 := tdel p.l2 (localOf e.addr / 128) }
  | .l1 => s.delL1 (96 * e.die + e.core) (sectorOf e.addr)
  | .tlb =>
    if e.core < 96 then s.modCore (96 * e.die + e.core) fun c => { c with tlb := c.tlb.eraseIdx e.offset }
    else s.modDie e.die fun d => { d with tlb := d.tlb.eraseIdx e.offset }
  | _ => s

/-- The failing sector of HBM4 or L2 is written with zero bytes and its sideband cleared (R412 step 4). -/
def State.zeroFailing (e : ErrorSite) (s : State) : State :=
  match e.storage with
  | .hbm | .l2 => (s.mergeHome (localOf e.addr / 128) maskAll 0).sideStore (localOf e.addr / 128 * 128) 0xF 0
  | _ => s

/-- Whether the failing storage is a clean copy, which is dropped and fetched again, and counts as corrected (R410). -/
def State.cleanCopy (s : State) (e : ErrorSite) : Bool :=
  match e.storage with
  | .l2 => (tget s.pkg.l2 (localOf e.addr / 128)).all fun h => h.st == .clean && !h.sideDirty
  | .l1 => (s.l1 (96 * e.die + e.core) (sectorOf e.addr)).all fun x => x.dirty == 0
  | .tlb => true
  | _ => false

/-- UNCORRECTABLE_ERROR: an entry in the error log, the notice, and the discard (R410 to R412). -/
def execUncorrectableError (err : ErrorSite) (s : State) : Host.Outcome State Fault Refusal :=
  .next (if s.cleanCopy err then (s.dropFailing err).countCorrected else
    let s := s.logError err
    let s := (s.dropFailing err).discard (State.zeroFailing err)
    s.notify 0x160 (pairOf (errorWords err).1 (errorWords err).2) (BitVec.ofNat 64 (errorCode err.storage + err.die % 4 * 2 ^ 4)))

end Sys2Proof.Machine
end

