-- ==== Sys2Proof/Machine/Fabric.lean ====
section
/-! DEFINITION. The fabric (25 R432 to R441): packets that arrive from other devices and the host, the responses to the package's own
requests, rejects and timeouts. -/

namespace Sys2Proof.Machine

/-! ## Requests that arrive (R433, R436, R439, R440) -/

/-- Whether a packet is one of a kind with the length that it must have (R433). -/
def headGood (p : PacketHead) (kind len : Nat) : Bool := !p.reserved && p.kind == kind && p.len == len

/-- Whether a request may have been sent before the last discard: one that arrives within 2 ms of it was outstanding or not, freely
(R441, log 88). -/
def State.caught (s : State) : Bool × State :=
  match s.pkg.discarded with
  | some d => if s.pkg.up ≤ d + 2000 then s.drawBool else (false, s)
  | none => (false, s)

/-- A data packet for this device: dropped with a reject when it is malformed, rejected when the package is not in the full stage or
has discarded it (R433, R440, R441; log 35). -/
def State.receive (s : State) (p : PacketHead) (good : Bool) (go : State → State) : State :=
  if p.dst ≠ s.pkg.deviceId then s
  else if !good || s.pkg.stage != 2 then s.reply p 0x07 []
  else
    let (caught, s) := s.caught
    if caught then s.reply p 0x07 [] else go s

/-- FABRIC_READ: the bytes as their homes give them. -/
def execFabricRead (p : PacketHead) (_rest : List (BitVec 8)) (s : State) : Host.Outcome State Fault Refusal :=
  .next (s.receive p (headGood p 0x01 0 && decide (1 ≤ p.bytes) && decide (p.bytes ≤ 256)) fun s =>
    let r := (List.range p.bytes).foldl (fun (r : State × List Byte) k =>
      let (v, s) := r.1.homeLoad (localOf p.addr + k) 1
      (s, r.2 ++ [BitVec.ofNat 8 v])) (s, [])
    r.1.reply p 0x02 r.2)

/-- FABRIC_WRITE: the bytes merge at their homes; a push that they cause is relaxed (16 R319). -/
def execFabricWrite (p : PacketHead) (data : List (BitVec 8)) (s : State) : Host.Outcome State Fault Refusal :=
  .next (s.receive p (headGood p 0x03 (packetLen data.length) && p.bytes == data.length && decide (1 ≤ p.bytes) && decide (p.bytes ≤ 256)) fun s =>
    let r := (pieces p.addr data.length).foldl (fun (r : State × List Byte) x =>
      (r.1.homeWrite (x.1 % 2 ^ 45) x.2 (leNat (r.2.take x.2)), r.2.drop x.2)) (s, data)
    r.1.reply p 0x04 [])

/-- The operand bytes of an atomic packet of a number of turns. -/
def atomicBytes (aop bytes n : Nat) : Nat := n * (if aop = 12 then 2 * bytes else bytes)

/-- FABRIC_ATOMIC: its turns, a B each and for CAS a C each, are performed one after another, indivisibly (R436; log 22). The packet names no ORD, so whether a push
carries a release at sys scope is free (16 R319, log 35). -/
def execFabricAtomic (p : PacketHead) (wide : Bool) (bs cs : List (BitVec 64)) (s : State) :
    Host.Outcome State Fault Refusal :=
  let bytes := if wide then 8 else 4
  let size := atomicBytes p.aop bytes bs.length
  .next (s.receive p (headGood p 0x05 (packetLen size) && decide (p.aop ≤ 12) && !(wide && p.aop == 11) && p.addr.toNat % bytes == 0 &&
      p.bytes == bytes * bs.length && (p.aop != 12 || cs.length == bs.length) && decide (1 ≤ size) && decide (size ≤ 256)) fun s =>
    let (rel, s) := s.drawBool
    let r := bs.zipIdx.foldl (fun (r : State × List Byte) x =>
      let (old, s) := r.1.atomTurn (localOf p.addr) p.aop bytes x.1.toNat (cs.getD x.2 0).toNat (if rel then 5 else 0)
      (s, r.2 ++ leBytes bytes old)) (s, [])
    r.1.reply p 0x06 r.2)

/-! ## Responses (R436) -/

/-- A request is no longer in flight. -/
def State.answered (s : State) (tag : Nat) : State := { s with remotes := tdel s.remotes tag }

/-- A response for this device: dropped with a reject when it is malformed, passed on when it is the host's, discarded when its
request has timed out (R433, R437, R438). -/
def State.response (s : State) (p : PacketHead) (good : Bool) (go : State → Nat → Remote → State) : State :=
  if p.dst ≠ s.pkg.deviceId ∨ p.host then s
  else if !good then s.reply p 0x07 []
  else match s.remotes.find? fun r => r.1 % 2 ^ 16 == p.tag.toNat with
    | none => s
    | some (tag, r) => if s.pkg.up > r.since + 2000 then s else go s tag r

/-- READ_RESPONSE: the sector of a load fills L1; that of an engine is kept for its operation, that of a save image for its context,
bytes of constant data join their load, and a word for Wick for its launch. -/
def execReadResponse (p : PacketHead) (data : List (BitVec 8)) (s : State) : Host.Outcome State Fault Refusal :=
  .next (s.response p (headGood p 0x02 (packetLen data.length) && p.bytes == data.length && decide (p.bytes ≤ 256)) fun s tag r =>
    let sector : SectorData := BitVec.ofNat 1024 (leNat data)
    match r.kind with
    | .fill stale =>
      let s := s.answered tag
      (if stale then s else s.fillAndBind r.core (sectorOf r.pa) r.asid sector).askAgain (sectorOf r.pa)
    | .read op stale => let s := s.answered tag
      if stale then s else { s with ops := tmod s.ops op fun o => { o with buffer := tset o.buffer (sectorOf r.pa) sector } }
    | .konst q =>
      (s.answered tag).askConst r.core r.asid { q with word := q.word ||| BitVec.ofNat 32 (leNat (data.take q.n) % 2 ^ (8 * q.n) * 2 ^ (8 * q.first)) }
    | .image ctx stale => let s := s.answered tag
      if stale then s else { s with fetched := tset s.fetched ctx (tset ((tget s.fetched ctx).getD []) (sectorOf r.pa) sector) }
    | .wait l => let s := s.answered tag
      { s with launches := tmod s.launches l fun x => { x with waited := some (leNat (data.take 4)) } }
    | _ => s)

/-- WRITE_ACKNOWLEDGEMENT: a write has been performed; the records whose other fields it completes receive their STATE (19 R361). -/
def execWriteAcknowledgement (p : PacketHead) (s : State) : Host.Outcome State Fault Refusal :=
  .next (s.response p (headGood p 0x04 0) fun s tag r =>
    match r.kind with
    | .write _ _ => ((s.answered tag).askAgain (sectorOf r.pa)).putStates
    | _ => s)

/-- ATOMIC_RESPONSE: the old values reach the turns of an atomic, which then acquires; a QDONE completes with the new value. -/
def execAtomicResponse (p : PacketHead) (olds : List (BitVec 64)) (s : State) : Host.Outcome State Fault Refusal :=
  .next (s.response p (headGood p 0x06 (packetLen p.bytes) && decide (p.bytes ≤ 256)) fun s tag r =>
    match r.kind with
    | .atom q =>
      if olds.length ≠ q.turns.length then s.reply p 0x07 [] else
      ((((s.answered tag).purge (s.atomCores q) (sectorOf r.pa)).atomAcquire q).atomArrive q (olds.map (·.toNat))).sendAtoms.askAgain (sectorOf r.pa)
    | .qdone op =>
      let inc := match (tget s.ops op).map (·.work) with
        | some (.qdone _ v _) => v
        | _ => 0
      ((s.answered tag).finish op (cword 0 ((olds.headD 0).toNat + inc.toNat))).askAgain (sectorOf r.pa)
    | _ => s)

/-! ## Requests that fail (R437) -/

/-- The report of a failed access to the fault log of its team, or to its launch once the team has ended. -/
def State.reportRemote (s : State) (k : Key) (h : BitVec 56) (wi : Nat) (launch : Nat) : State :=
  let e : FlogEntry := ⟨0, 0x10000171#32, k.tid, wi, va56 h⟩
  match s.team? k.ctx k.tslot with
  | some t => if t.launch = launch then s.report k.ctx k.tslot launch e
    else { s with launches := tmod s.launches launch fun l => l.report e }
  | none => { s with launches := tmod s.launches launch fun l => l.report e }

/-- The launch of a thread's team. -/
def State.launchOf (s : State) (k : Key) : Nat := ((s.team? k.ctx k.tslot).map (·.launch)).getD 0

/-- The loads that wait for a sector end with 0 in every destination, each with a report. -/
def State.failLoads (s : State) (core sec : Nat) : State :=
  s.loads.foldl (fun s e =>
    let l := e.2
    if l.core = core ∧ sectorOf l.pa = sec then
      let s := ({ s with loads := tdel s.loads e.1 } : State).arrive l.landing l.key (loadRegs l.width l.sx l.dst 0) 0
      s.reportRemote l.key l.pc.h l.pc.wi (s.launchOf l.key)
    else s) s

/-- What becomes of a request that receives no response or a reject: loads and atomics give 0, a write-back is discarded, a QDONE
completes FAULT, and the notice names the sector and the ASID. -/
def State.failRemote (s : State) (tag : Nat) (r : Remote) : State :=
  let s := (s.answered tag).notify 0x171 (sectorPa (sectorOf r.pa)) (BitVec.ofNat 64 r.asid)
  let s : State := match r.kind with
  | .fill _ => s.failLoads r.core (sectorOf r.pa)
  | .read op _ => { s with ops := tmod s.ops op fun o => { o with buffer := tset o.buffer (sectorOf r.pa) 0 } }
  | .konst q => (s.arrive q.landing q.key (loadRegs 4 false q.dst 0) 6).reportRemote q.key q.pc.h q.pc.wi (s.launchOf q.key)
  | .image ctx _ => { s with fetched := tset s.fetched ctx (tset ((tget s.fetched ctx).getD []) (sectorOf r.pa) 0) }
  | .atom q => q.turns.foldl (fun s t => s.reportRemote t.key q.pc.h q.pc.wi (s.launchOf t.key)) (s.atomArrive q (q.turns.map fun _ => 0))
  | .wait l => { s with launches := tmod s.launches l fun x => { x with waited := some 0 } }
  | .write last _ =>
    match last with
    | some x => s.reportRemote x.key x.h 0 x.launch
    | none => s
  | .qdone op => s.finish op (cword 1 0)
  (s.sendAtoms.askAgain (sectorOf r.pa)).putStates

def execFabricReject (p : PacketHead) (s : State) : Host.Outcome State Fault Refusal :=
  .next (s.response p (headGood p 0x07 0) fun s tag r => s.failRemote tag r)

/-- REMOTE_TIMEOUT: no response within 2 ms. -/
def execRemoteTimeout (tag : Nat) (s : State) : Host.Outcome State Fault Refusal :=
  .next (match tget s.remotes tag with
    | some r => if s.pkg.up > r.since + 2000 then s.failRemote tag r else s
    | none => s)

end Sys2Proof.Machine
end

