-- ==== Sys2Proof/Machine/Engine.lean ====
section
/-! DEFINITION. The progress of engine operations, ENGINE_DELIVERY (08 R190), and a word whose opcode is reserved (03 R79). -/

namespace Sys2Proof.Machine

/-- The next progress of an operation that has not ended. -/
def State.workTurn (s : State) (id : Nat) (o : EngOp) : State :=
  match o.work with
  | .copy c => s.copyTurn id o c
  | .l2 l => s.l2Turn id o l
  | .stand w => s.standTurn id o w
  | .lease _ _ => s.leaseTurn id o
  | .unlease lantern waits => s.unleaseTurn id o lantern waits
  | .cmd c => s.cmdTurn id o c
  | .mat m => s.matTurn id o m
  | .qdone va inc sent => s.qdoneTurn id o va inc sent
  | .known => s

/-- An engine makes the next progress of an operation. -/
def State.engineTurn (s : State) (id : Nat) : State :=
  match tget s.ops id with
  | none => s
  | some o => if o.result.isSome then s else s.workTurn id o

/-- Whether an operation delivers granules to scratch. -/
def Work.delivers : Work → Bool
  | .copy c => c.dsp == 1
  | .l2 l => l.kind == .gather
  | .cmd c => c.cmd == .nbrpair
  | _ => false

/-- ENGINE_DELIVERY: the next progress of an operation whose destination is scratch: the bytes of a granule, then its F bit. -/
def execEngineDelivery (op : Nat) (s : State) : Host.Outcome State Fault Refusal :=
  .next (if (tget s.ops op).any fun o => o.work.delivers then s.engineTurn op else s)

/-- Whether the next progress of an operation finds a page missing that is not yet pending (20 R384). -/
def State.findsMissing (s : State) (die asid : Nat) (va : Pair) (op : Nat) : Bool :=
  let page := (asid, vpageOf va 0)
  (((s.engineTurn op).die die).pending.contains page) && !((s.die die).pending.contains page)

/-- TLB_WALK_COMPLETE: a walk for an engine of a die, on behalf of a context of the address space, ends: its leaf is installed, or the
operation that it is for finds its page missing, which joins the pending table (20 R380, R384, R385). A missing page that no operation
in flight asks for is nobody's. -/
def execTlbWalkComplete (die asid : Nat) (va : BitVec 64) (s : State) : Host.Outcome State Fault Refusal :=
  .next (if !(s.ctxs.any fun c => c.2.asid == asid && dieOf c.2.core == die) then s else
    match s.walk die asid va with
    | .leaf e l => (s.walked die asid va).tlbInstall none die ⟨asid, vpageOf va l, l, e⟩
    | .missing _ => match s.ops.find? fun o => s.opAsid o.2 == asid && dieOf (s.opCore o.2) == die && s.findsMissing die asid va o.1 with
      | some (id, _) => s.engineTurn id
      | none => s
    | .reserved => s)

/-- RESERVED_OPCODE: a word whose opcode the map reserves raises ILLEGAL 0 for every member that reaches it, before any other check
(R80). -/
def execReservedOpcode (word : BitVec 32) (s : State) : Host.Outcome State Fault Refusal :=
  .next (s.retire (.reservedOpcode word) (s.site.members.map (·, .trap 0x000 word 0)))

end Sys2Proof.Machine
end

