-- ==== Sys2Proof/Machine/FloatArith.lean ====
section
/-! DEFINITION. Floating-point instructions of class ALU (05 R110 to R119). -/

namespace Sys2Proof.Machine

/-- The three operations that FADD, FSUB and FMUL, their FOPR, F64 and packed forms share: 0 add, 1 subtract, 2 multiply. -/
def Fmt.arith (f : Fmt) (op : Nat) (rm : BitVec 3) (ovf : BitVec 2) (a b : Nat) : FRes :=
  let x := f.value a
  let y := f.value b
  f.deliver rm ovf 0x076 (if op = 0 then addV rm x y else if op = 1 then addV rm x y.neg else mulV x y)

/-- A fused multiply-add (R116). -/
def Fmt.fma (f : Fmt) (rm : BitVec 3) (ovf : BitVec 2) (a b c : Nat) : FRes :=
  f.deliver rm ovf 0x076 (fmaV rm (f.value a) (f.value b) (f.value c))

/-- The relations of R113 and R117: 0 less, 1 less or equal, 2 equal, 3 unordered. -/
def Fmt.compare (f : Fmt) (rel a b : Nat) : FRes :=
  let x := f.value a
  let y := f.value b
  let un := x.isNan || y.isNan
  match rel with
  | 0 => if un then .iv 0 else .ok (x.lt y).toNat
  | 1 => if un then .iv 0 else .ok (x.lt y || x.eq y).toNat
  | 2 => .ok (x.eq y).toNat
  | _ => .ok un.toNat

/-- The one-word operations of opcodes 0x30 to 0x38 (R111 to R113), which FALUI names too (R115). -/
def faluOp (op : Nat) (a b : Word) : FRes :=
  match op with
  | 0x30 => f32.arith 0 0 1 a.toNat b.toNat
  | 0x31 => f32.arith 1 0 1 a.toNat b.toNat
  | 0x32 => f32.arith 2 0 1 a.toNat b.toNat
  | 0x33 => .ok (f32.minMax false a.toNat b.toNat)
  | 0x34 => .ok (f32.minMax true a.toNat b.toNat)
  | 0x35 => f32.compare 0 a.toNat b.toNat
  | 0x36 => f32.compare 1 a.toNat b.toNat
  | 0x37 => f32.compare 2 a.toNat b.toNat
  | _ => f32.compare 3 a.toNat b.toNat

/-- FCLASS (R114). -/
def fclassOf (a : Word) : Word :=
  let s := a.getLsbD 31
  let ex := (a.extractLsb' 23 8).toNat
  let fr := (a.extractLsb' 0 23).toNat
  let k :=
    if ex = 255 then (if fr = 0 then (if s then 0 else 7) else if a.getLsbD 22 then 8 else 9)
    else if ex = 0 then (if fr = 0 then (if s then 3 else 4) else if s then 2 else 5)
    else if s then 1 else 6
  BitVec.ofNat 32 (2 ^ k)

/-- Float format codes (R119). -/
def fltCode (c : BitVec 4) : Fmt :=
  match c.toNat with
  | 0 => f16
  | 1 => bf16
  | 2 => f32
  | _ => f64

/-- The source bits of a conversion: a half from the low or the high half of its register. -/
def fltSrc (st : BitVec 4) (hi : Bool) (x : Nat) : Nat :=
  if st.toNat < 2 then (if hi then x / 65536 else x) % 65536 else x

/-- FRND (R119): an integral value in its own format, no flag. -/
def Fmt.integral (f : Fmt) (rm : BitVec 3) (x : Nat) : Nat :=
  match f.value x with
  | .nan => f.nan
  | .inf s => f.inf s
  | .fin s m e => if e ≥ 0 then x else (f.round 0 1 0 s (roundInt rm s m e).1.natAbs 0).bits

/-- FCVT (R119). -/
def convert (src dst : Fmt) (rm : BitVec 3) (ovf : BitVec 2) (x : Nat) : FRes :=
  match src.value x with
  | .nan => .ok dst.nan
  | .inf s => .ok (dst.inf s)
  | .fin s m e => dst.round rm ovf 0x082 s m e

/-- ITOF (R119). -/
def fromInt (dst : Fmt) (rm : BitVec 3) (ovf : BitVec 2) (v : Int) : FRes :=
  dst.round rm ovf 0x076 (decide (v < 0)) v.natAbs 0

/-- A packed format's operation on the two halves (R118). -/
def halves (f : Nat → Nat → FRes) (a b : Word) : FRes :=
  combine 16 [f (elem 16 a 0) (elem 16 b 0), f (elem 16 a 1) (elem 16 b 1)]

/-- IMM12[0] of HFMA2 and HOPR. -/
def halfFmt (fmt : Bool) : Fmt := if fmt then f16 else bf16

/-- HOPR's operation by its code (R118). -/
def hopr (f : Fmt) (op : Nat) (rm : BitVec 3) (ovf : BitVec 2) (a b : Nat) : FRes :=
  if op < 3 then f.arith op rm ovf a b else .ok (f.minMax (decide (op = 4)) a b)

/-! ## Issuing -/

/-- A two-operand F32 instruction. -/
def State.fbin (s : State) (i : Instr) (d : Dst) (a b : Sel) (f : Word → Word → FRes) : Host.Outcome State Fault Refusal :=
  .next (s.issueLocal i fun th =>
    resCond s.site.rep th s.site.w0 d 1 (f (rd32 s.site.rep th .a a) (rd32 s.site.rep th .b b)))
/-- A one-operand instruction that only changes a pattern. -/
def State.fun32 (s : State) (i : Instr) (d : Dst) (a : Sel) (f : Word → Word) : Host.Outcome State Fault Refusal :=
  .next (s.issueLocal i fun th => res32 s.site.rep th d (f (rd32 s.site.rep th .a a)))
/-- A conversion: `ws` and `wd` are the registers of its source and destination. -/
def State.fconv (s : State) (i : Instr) (d : Dst) (a : Sel) (ws wd : Nat) (f : Nat → FRes) : Host.Outcome State Fault Refusal :=
  .next (s.issueLocal i fun th =>
    resCond s.site.rep th s.site.w0 d wd (f (rdW s.site.rep th .a a ws).toNat))

/-! The one-word instructions (R111 to R114). -/

def execFadd (d : Dst) (a b : Sel) (s : State) : Host.Outcome State Fault Refusal := s.fbin (.fadd d a b) d a b (faluOp 0x30)
def execFsub (d : Dst) (a b : Sel) (s : State) : Host.Outcome State Fault Refusal := s.fbin (.fsub d a b) d a b (faluOp 0x31)
def execFmul (d : Dst) (a b : Sel) (s : State) : Host.Outcome State Fault Refusal := s.fbin (.fmul d a b) d a b (faluOp 0x32)
def execFmin (d : Dst) (a b : Sel) (s : State) : Host.Outcome State Fault Refusal := s.fbin (.fmin d a b) d a b (faluOp 0x33)
def execFmax (d : Dst) (a b : Sel) (s : State) : Host.Outcome State Fault Refusal := s.fbin (.fmax d a b) d a b (faluOp 0x34)
def execFslt (d : Dst) (a b : Sel) (s : State) : Host.Outcome State Fault Refusal := s.fbin (.fslt d a b) d a b (faluOp 0x35)
def execFsle (d : Dst) (a b : Sel) (s : State) : Host.Outcome State Fault Refusal := s.fbin (.fsle d a b) d a b (faluOp 0x36)
def execFseq (d : Dst) (a b : Sel) (s : State) : Host.Outcome State Fault Refusal := s.fbin (.fseq d a b) d a b (faluOp 0x37)
def execFsun (d : Dst) (a b : Sel) (s : State) : Host.Outcome State Fault Refusal := s.fbin (.fsun d a b) d a b (faluOp 0x38)
def execFneg (d : Dst) (a : Sel) (s : State) : Host.Outcome State Fault Refusal :=
  s.fun32 (.fneg d a) d a fun x => x ^^^ 0x80000000#32
def execFabs (d : Dst) (a : Sel) (s : State) : Host.Outcome State Fault Refusal :=
  s.fun32 (.fabs d a) d a fun x => x &&& 0x7FFFFFFF#32
def execFclass (d : Dst) (a : Sel) (s : State) : Host.Outcome State Fault Refusal := s.fun32 (.fclass d a) d a fclassOf

/-- FALUI (R115). -/
def execFalui (d : Dst) (a : Sel) (base : BitVec 8) (imm : BitVec 32) (s : State) : Host.Outcome State Fault Refusal :=
  .next (s.issueLocal (.falui d a base imm) fun th =>
    resCond s.site.rep th s.site.w0 d 1 (faluOp base.toNat (rd32 s.site.rep th .a a) imm))

/-- FOPR (R115): C names FADD, FSUB or FMUL. -/
def execFopr (d : Dst) (a b c : Sel) (rm : BitVec 3) (ovf : BitVec 2) (s : State) : Host.Outcome State Fault Refusal :=
  s.fbin (.fopr d a b c rm ovf) d a b fun x y => f32.arith (c.toNat - 0x30) rm ovf x.toNat y.toNat

/-- FFMA (R116). -/
def execFfma (d : Dst) (a b c : Sel) (rm : BitVec 3) (ovf : BitVec 2) (s : State) : Host.Outcome State Fault Refusal :=
  .next (s.issueLocal (.ffma d a b c rm ovf) fun th =>
    resCond s.site.rep th s.site.w0 d 1
      (f32.fma rm ovf (rd32 s.site.rep th .a a).toNat (rd32 s.site.rep th .b b).toNat (rd32 s.site.rep th .c c).toNat))

/-- DADD, DSUB and DMUL (R117). -/
def State.dbin (s : State) (i : Instr) (d : Dst) (a b : Sel) (op : Nat) (rm : BitVec 3) (ovf : BitVec 2) :
    Host.Outcome State Fault Refusal :=
  .next (s.issueLocal i fun th =>
    resCond s.site.rep th s.site.w0 d 2
      (f64.arith op rm ovf (rd64 s.site.rep th .a a).toNat (rd64 s.site.rep th .b b).toNat))
def execDadd (d : Dst) (a b : Sel) (rm : BitVec 3) (ovf : BitVec 2) (s : State) : Host.Outcome State Fault Refusal :=
  s.dbin (.dadd d a b rm ovf) d a b 0 rm ovf
def execDsub (d : Dst) (a b : Sel) (rm : BitVec 3) (ovf : BitVec 2) (s : State) : Host.Outcome State Fault Refusal :=
  s.dbin (.dsub d a b rm ovf) d a b 1 rm ovf
def execDmul (d : Dst) (a b : Sel) (rm : BitVec 3) (ovf : BitVec 2) (s : State) : Host.Outcome State Fault Refusal :=
  s.dbin (.dmul d a b rm ovf) d a b 2 rm ovf
def execDfma (d : Dst) (a b c : Sel) (rm : BitVec 3) (ovf : BitVec 2) (s : State) : Host.Outcome State Fault Refusal :=
  .next (s.issueLocal (.dfma d a b c rm ovf) fun th =>
    resCond s.site.rep th s.site.w0 d 2
      (f64.fma rm ovf (rd64 s.site.rep th .a a).toNat (rd64 s.site.rep th .b b).toNat (rd64 s.site.rep th .c c).toNat))
def execDcmp (d : Dst) (a b c : Sel) (s : State) : Host.Outcome State Fault Refusal :=
  .next (s.issueLocal (.dcmp d a b c) fun th =>
    resCond s.site.rep th s.site.w0 d 1
      (f64.compare c.toNat (rd64 s.site.rep th .a a).toNat (rd64 s.site.rep th .b b).toNat))

/-- Packed halves (R118). -/
def execHadd2 (d : Dst) (a b : Sel) (s : State) : Host.Outcome State Fault Refusal :=
  s.fbin (.hadd2 d a b) d a b (halves (bf16.arith 0 0 1))
def execHmul2 (d : Dst) (a b : Sel) (s : State) : Host.Outcome State Fault Refusal :=
  s.fbin (.hmul2 d a b) d a b (halves (bf16.arith 2 0 1))
def execHopr (d : Dst) (a b c : Sel) (rm : BitVec 3) (ovf : BitVec 2) (fmt : Bool) (s : State) :
    Host.Outcome State Fault Refusal :=
  s.fbin (.hopr d a b c rm ovf fmt) d a b (halves (hopr (halfFmt fmt) c.toNat rm ovf))
def execHfma2 (d : Dst) (a b c : Sel) (rm : BitVec 3) (ovf : BitVec 2) (fmt : Bool) (s : State) :
    Host.Outcome State Fault Refusal :=
  .next (s.issueLocal (.hfma2 d a b c rm ovf fmt) fun th =>
    let z := rd32 s.site.rep th .c c
    let x := rd32 s.site.rep th .a a
    let y := rd32 s.site.rep th .b b
    let one := fun k => (halfFmt fmt).fma rm ovf (elem 16 x k) (elem 16 y k) (elem 16 z k)
    resCond s.site.rep th s.site.w0 d 1 (combine 16 [one 0, one 1]))

/-- FRND (R119). -/
def execFrnd (d : Dst) (a : Sel) (rm : BitVec 3) (w : BitVec 2) (s : State) : Host.Outcome State Fault Refusal :=
  s.fconv (.frnd d a rm w) d a (wide w) (wide w) fun x => .ok ((if w == 3 then f64 else f32).integral rm x)

/-- FCVT, FTOI and ITOF (R119, 02 R39). -/
def execFcvt (d : Dst) (a : Sel) (dt st : BitVec 4) (rm : BitVec 3) (ovf : BitVec 2) (hi : Bool) (s : State) :
    Host.Outcome State Fault Refusal :=
  s.fconv (.fcvt d a dt st rm ovf hi) d a (fltWords st) (fltWords dt) fun x =>
    convert (fltCode st) (fltCode dt) rm ovf (fltSrc st hi x)
def execFtoi (d : Dst) (a : Sel) (dt st : BitVec 4) (rm : BitVec 3) (ovf : BitVec 2) (hi : Bool) (s : State) :
    Host.Outcome State Fault Refusal :=
  s.fconv (.ftoi d a dt st rm ovf hi) d a (fltWords st) (intWords dt) fun x =>
    toInt rm ovf (intCode dt).2 (intCode dt).1 (intOut dt) ((fltCode st).value (fltSrc st hi x))
def execItof (d : Dst) (a : Sel) (dt st : BitVec 4) (rm : BitVec 3) (ovf : BitVec 2) (s : State) :
    Host.Outcome State Fault Refusal :=
  s.fconv (.itof d a dt st rm ovf) d a (intWords st) (fltWords dt) fun x => fromInt (fltCode dt) rm ovf (cvtiSrc st x)

end Sys2Proof.Machine
end

