-- ==== Sys2Proof/Machine/Integer.lean ====
section
/-! DEFINITION. Integer, bit, address and residue instructions (04). -/

namespace Sys2Proof.Machine

/-! ## Values -/

/-- SHL, SHR, SAR and ROL by a register amount (R90). -/
def shl (a b : Word) : Word := if b.toNat < 32 then a <<< b.toNat else 0
def shr (a b : Word) : Word := if b.toNat < 32 then a >>> b.toNat else 0
def sar (a b : Word) : Word := a.sshiftRight (min b.toNat 31)
def rol (a b : Word) : Word := a.rotateLeft (b.toNat % 32)

/-- The high word of a product. -/
def mulHigh (x y : Int) : Word := BitVec.ofInt 32 (x * y / 2 ^ 32)

/-- CLZ, FFS and POPC of an element of width `w` (R95). -/
def clzOf (w x : Nat) : Nat := if x = 0 then w else w - 1 - x.log2
def ffsOf (w x : Nat) : Nat := if x = 0 then 0 else lowestBit x w + 1
def popcOf (w x : Nat) : Nat := popCount x w

/-- The one-word operations that IALUI names by their opcode (R89, R93). -/
def aluOp (op : Nat) (a b : Word) : Word :=
  match op with
  | 0x02 => a + b
  | 0x03 => a - b
  | 0x04 => a * b
  | 0x05 => mulHigh a.toInt b.toInt
  | 0x06 => mulHigh a.toNat b.toNat
  | 0x07 => a &&& b
  | 0x08 => a ||| b
  | 0x09 => a ^^^ b
  | 0x0A => a &&& ~~~b
  | 0x0B => shl a b
  | 0x0C => shr a b
  | 0x0D => sar a b
  | 0x0E => rol a b
  | 0x0F => if a.toInt < b.toInt then a else b
  | 0x10 => if a.toInt < b.toInt then b else a
  | 0x11 => if a.toNat < b.toNat then a else b
  | 0x12 => if a.toNat < b.toNat then b else a
  | 0x13 => bit (decide (a.toInt < b.toInt))
  | 0x14 => bit (decide (a.toNat < b.toNat))
  | 0x15 => bit (a == b)
  | 0x16 => BitVec.ofNat 32 (a.toInt - b.toInt).natAbs
  | _ => 0

/-- Bit reversal. -/
def brevOf (a : Word) : Word := BitVec.ofNat 32 ((List.range 32).foldl (fun acc i => 2 * acc + (a.toNat / 2 ^ i % 2)) 0)

/-- BFE and BFI with POS and len (R96). -/
def bfeOf (sx : Bool) (pos len : Nat) (a : Word) : Word :=
  let f := a.toNat / 2 ^ pos % 2 ^ len
  if sx then BitVec.ofInt 32 (sint len f) else BitVec.ofNat 32 f
def bfiOf (pos len : Nat) (a b : Word) : Word :=
  let m := BitVec.ofNat 32 ((2 ^ len - 1) * 2 ^ pos)
  (b &&& ~~~m) ||| ((a <<< pos) &&& m)

/-- MAD at 64 bits (R98). -/
def mad64 (u : Bool) (a b : Word) (c : Pair) : Pair :=
  if u then a.setWidth 64 * b.setWidth 64 + c else a.signExtend 64 * b.signExtend 64 + c

/-- The index of LEAX (R100). -/
def leaxIndex (ix : BitVec 2) (b : Word) (pb : Pair) : Pair :=
  if ix == 0 then b.signExtend 64 else if ix == 1 then b.setWidth 64 else pb

/-- Element operations on packed registers. -/
def packed2 (w : Nat) (f : Int → Int → Int) (u : Bool) (a b : Word) : Word :=
  packed w fun i => wrap w (f (elemInt u w a i) (elemInt u w b i))

/-- PADDS and PSUBS: every element narrowed (R102). -/
def packedSat (w : Nat) (f : Int → Int → Int) (u : Bool) (ovf : BitVec 2) (a b : Word) : FRes :=
  combine w ((List.range (32 / w)).map fun i =>
    narrow (intLo u w) (intHi u w) w ovf 0x080 (f (elemInt u w a i) (elemInt u w b i)))

/-- PDOT4 (R103). -/
def pdot4Of (ua ub : Bool) (a b c : Word) : Word :=
  BitVec.ofInt 32 ((List.range 4).foldl (fun acc i => acc + elemInt ua 8 a i * elemInt ub 8 b i) (c.toNat : Int))

/-! ## Residue words (02 R41 to R44) -/

/-- The residues of an RQ word modulo 256, 255 and 257. -/
def rqParts (x : Word) : Nat × Nat × Nat :=
  (x.toNat % 256, x.toNat / 256 % 256 % 255, x.toNat / 65536 % 512 % 257)

/-- An RQ word from its residues. -/
def rqWord (a b c : Nat) : Word := BitVec.ofNat 32 (c % 257 * 65536 + b % 255 * 256 + a % 256)

/-- A channel-by-channel operation. -/
def rqMap (f : Nat → Nat → Nat → Nat) (x y : Word) : Word :=
  let (x0, x1, x2) := rqParts x
  let (y0, y1, y2) := rqParts y
  rqWord (f 256 x0 y0) (f 255 x1 y1) (f 257 x2 y2)

/-- The RQ word of an integer in range (R42). -/
def rqOf (v : Int) : Word := rqWord (v % 256).toNat (v % 255).toNat (v % 257).toNat

/-- RQENC (R42): the clamp or the trap, then the residues. -/
def rqEnc (ovf : BitVec 2) (v : Int) : FRes :=
  let r := narrow (-8388480) 8388479 32 ovf 0x083 v
  { r with bits := (rqOf (sint 32 r.bits)).toNat }

/-- RQDEC (R43). -/
def rqDec (x : Word) : Word :=
  let (a, b, c) := rqParts x
  let v := (a * 16711425 + b * 8421376 + c * 8421120) % 16776960
  BitVec.ofInt 32 (if v ≥ 8388480 then (v : Int) - 16776960 else v)

/-! ## Issuing -/

/-- A one-operand and a two-operand instruction with a 32-bit result. -/
def State.un32 (s : State) (i : Instr) (d : Dst) (a : Sel) (f : Word → Word) : Host.Outcome State Fault Refusal :=
  .next (s.issueLocal i fun th => res32 s.site.rep th d (f (rd32 s.site.rep th .a a)))
def State.bin32 (s : State) (i : Instr) (d : Dst) (a b : Sel) (f : Word → Word → Word) : Host.Outcome State Fault Refusal :=
  .next (s.issueLocal i fun th => res32 s.site.rep th d (f (rd32 s.site.rep th .a a) (rd32 s.site.rep th .b b)))
/-- A two-operand instruction whose 32-bit result may meet conditions. -/
def State.cond32 (s : State) (i : Instr) (d : Dst) (a b : Sel) (f : Word → Word → FRes) : Host.Outcome State Fault Refusal :=
  .next (s.issueLocal i fun th =>
    resCond s.site.rep th s.site.w0 d 1 (f (rd32 s.site.rep th .a a) (rd32 s.site.rep th .b b)))

/-- NOP (R91). -/
def execNop (s : State) : Host.Outcome State Fault Refusal := .next (s.issueLocal .nop fun _ => Eff.none)

def execMov (d : Dst) (a : Sel) (s : State) : Host.Outcome State Fault Refusal := s.un32 (.mov d a) d a id

/-! The two-operand instructions of R89 and R90. -/

def execAdd (d : Dst) (a b : Sel) (s : State) : Host.Outcome State Fault Refusal :=
  s.bin32 (.add d a b) d a b (aluOp 0x02)
def execSub (d : Dst) (a b : Sel) (s : State) : Host.Outcome State Fault Refusal :=
  s.bin32 (.sub d a b) d a b (aluOp 0x03)
def execMullo (d : Dst) (a b : Sel) (s : State) : Host.Outcome State Fault Refusal :=
  s.bin32 (.mullo d a b) d a b (aluOp 0x04)
def execMulhi (d : Dst) (a b : Sel) (s : State) : Host.Outcome State Fault Refusal :=
  s.bin32 (.mulhi d a b) d a b (aluOp 0x05)
def execMulhiu (d : Dst) (a b : Sel) (s : State) : Host.Outcome State Fault Refusal :=
  s.bin32 (.mulhiu d a b) d a b (aluOp 0x06)
def execAnd (d : Dst) (a b : Sel) (s : State) : Host.Outcome State Fault Refusal :=
  s.bin32 (.and d a b) d a b (aluOp 0x07)
def execOr (d : Dst) (a b : Sel) (s : State) : Host.Outcome State Fault Refusal :=
  s.bin32 (.or d a b) d a b (aluOp 0x08)
def execXor (d : Dst) (a b : Sel) (s : State) : Host.Outcome State Fault Refusal :=
  s.bin32 (.xor d a b) d a b (aluOp 0x09)
def execAndn (d : Dst) (a b : Sel) (s : State) : Host.Outcome State Fault Refusal :=
  s.bin32 (.andn d a b) d a b (aluOp 0x0A)
def execShl (d : Dst) (a b : Sel) (s : State) : Host.Outcome State Fault Refusal :=
  s.bin32 (.shl d a b) d a b (aluOp 0x0B)
def execShr (d : Dst) (a b : Sel) (s : State) : Host.Outcome State Fault Refusal :=
  s.bin32 (.shr d a b) d a b (aluOp 0x0C)
def execSar (d : Dst) (a b : Sel) (s : State) : Host.Outcome State Fault Refusal :=
  s.bin32 (.sar d a b) d a b (aluOp 0x0D)
def execRol (d : Dst) (a b : Sel) (s : State) : Host.Outcome State Fault Refusal :=
  s.bin32 (.rol d a b) d a b (aluOp 0x0E)
def execMin (d : Dst) (a b : Sel) (s : State) : Host.Outcome State Fault Refusal :=
  s.bin32 (.min d a b) d a b (aluOp 0x0F)
def execMax (d : Dst) (a b : Sel) (s : State) : Host.Outcome State Fault Refusal :=
  s.bin32 (.max d a b) d a b (aluOp 0x10)
def execMinu (d : Dst) (a b : Sel) (s : State) : Host.Outcome State Fault Refusal :=
  s.bin32 (.minu d a b) d a b (aluOp 0x11)
def execMaxu (d : Dst) (a b : Sel) (s : State) : Host.Outcome State Fault Refusal :=
  s.bin32 (.maxu d a b) d a b (aluOp 0x12)
def execSlt (d : Dst) (a b : Sel) (s : State) : Host.Outcome State Fault Refusal :=
  s.bin32 (.slt d a b) d a b (aluOp 0x13)
def execSltu (d : Dst) (a b : Sel) (s : State) : Host.Outcome State Fault Refusal :=
  s.bin32 (.sltu d a b) d a b (aluOp 0x14)
def execSeq (d : Dst) (a b : Sel) (s : State) : Host.Outcome State Fault Refusal :=
  s.bin32 (.seq d a b) d a b (aluOp 0x15)
def execAbsd (d : Dst) (a b : Sel) (s : State) : Host.Outcome State Fault Refusal :=
  s.bin32 (.absd d a b) d a b (aluOp 0x16)

/-- CLZ, FFS and POPC (R95). -/
def execClz (d : Dst) (a : Sel) (s : State) : Host.Outcome State Fault Refusal :=
  s.un32 (.clz d a) d a fun x => BitVec.ofNat 32 (clzOf 32 x.toNat)
def execFfs (d : Dst) (a : Sel) (s : State) : Host.Outcome State Fault Refusal :=
  s.un32 (.ffs d a) d a fun x => BitVec.ofNat 32 (ffsOf 32 x.toNat)
def execPopc (d : Dst) (a : Sel) (s : State) : Host.Outcome State Fault Refusal :=
  s.un32 (.popc d a) d a fun x => BitVec.ofNat 32 (popcOf 32 x.toNat)
def execBrev (d : Dst) (a : Sel) (s : State) : Host.Outcome State Fault Refusal := s.un32 (.brev d a) d a brevOf

/-- The imm8 forms (R89). -/
def execAddi (d : Dst) (a : Sel) (imm : BitVec 8) (s : State) : Host.Outcome State Fault Refusal :=
  s.un32 (.addi d a imm) d a fun x => x + imm.signExtend 32
def execShli (d : Dst) (a : Sel) (imm : BitVec 8) (s : State) : Host.Outcome State Fault Refusal :=
  s.un32 (.shli d a imm) d a fun x => shl x (imm.setWidth 32)
def execShri (d : Dst) (a : Sel) (imm : BitVec 8) (s : State) : Host.Outcome State Fault Refusal :=
  s.un32 (.shri d a imm) d a fun x => shr x (imm.setWidth 32)
def execSari (d : Dst) (a : Sel) (imm : BitVec 8) (s : State) : Host.Outcome State Fault Refusal :=
  s.un32 (.sari d a imm) d a fun x => sar x (imm.setWidth 32)
def execAndi (d : Dst) (a : Sel) (imm : BitVec 8) (s : State) : Host.Outcome State Fault Refusal :=
  s.un32 (.andi d a imm) d a fun x => x &&& imm.setWidth 32

/-- LEA (R99). -/
def execLea (d : Dst) (a b : Sel) (s : State) : Host.Outcome State Fault Refusal :=
  .next (s.issueLocal (.lea d a b) fun th =>
    res64 s.site.rep th d (rd64 s.site.rep th .a a + sx64 (rd32 s.site.rep th .b b)))

/-- Residue instructions (R105 to R107). -/
def execRqadd (d : Dst) (a b : Sel) (s : State) : Host.Outcome State Fault Refusal :=
  s.bin32 (.rqadd d a b) d a b (rqMap fun _ x y => x + y)
def execRqsub (d : Dst) (a b : Sel) (s : State) : Host.Outcome State Fault Refusal :=
  s.bin32 (.rqsub d a b) d a b (rqMap fun m x y => x + m - y)
def execRqmul (d : Dst) (a b : Sel) (s : State) : Host.Outcome State Fault Refusal :=
  s.bin32 (.rqmul d a b) d a b (rqMap fun _ x y => x * y)
def execRqmad (d : Dst) (a b c : Sel) (s : State) : Host.Outcome State Fault Refusal :=
  .next (s.issueLocal (.rqmad d a b c) fun th =>
    let p := rqMap (fun _ x y => x * y) (rd32 s.site.rep th .a a) (rd32 s.site.rep th .b b)
    res32 s.site.rep th d (rqMap (fun _ x y => x + y) p (rd32 s.site.rep th .c c)))
def execRqdec (d : Dst) (a : Sel) (s : State) : Host.Outcome State Fault Refusal := s.un32 (.rqdec d a) d a rqDec
def execRqenc (d : Dst) (a : Sel) (ovf : BitVec 2) (s : State) : Host.Outcome State Fault Refusal :=
  .next (s.issueLocal (.rqenc d a ovf) fun th =>
    resCond s.site.rep th s.site.w0 d 1 (rqEnc ovf (rd32 s.site.rep th .a a).toInt))

/-- MOVI (R92). -/
def execMovi (d : Dst) (imm : BitVec 32) (s : State) : Host.Outcome State Fault Refusal :=
  .next (s.issueLocal (.movi d imm) fun th => res32 s.site.rep th d imm)

/-- IALUI (R93). -/
def execIalui (d : Dst) (a : Sel) (base : BitVec 8) (imm : BitVec 32) (s : State) : Host.Outcome State Fault Refusal :=
  s.un32 (.ialui d a base imm) d a fun x => aluOp base.toNat x imm

/-- MAD (R98). -/
def execMad (d : Dst) (a b c : Sel) (w : BitVec 2) (u : Bool) (s : State) : Host.Outcome State Fault Refusal :=
  .next (s.issueLocal (.mad d a b c w u) fun th =>
    let x := rd32 s.site.rep th .a a
    let y := rd32 s.site.rep th .b b
    if w == 3 then res64 s.site.rep th d (mad64 u x y (rd64 s.site.rep th .c c))
    else res32 s.site.rep th d (x * y + rd32 s.site.rep th .c c))

/-- SEL (R97). -/
def execSel (d : Dst) (a b c : Sel) (s : State) : Host.Outcome State Fault Refusal :=
  .next (s.issueLocal (.sel d a b c) fun th =>
    res32 s.site.rep th d
      (if rd32 s.site.rep th .c c = 0 then rd32 s.site.rep th .b b else rd32 s.site.rep th .a a))

/-- BFE and BFI (R96). -/
def execBfe (d : Dst) (a : Sel) (sx : Bool) (lenm1 pos : BitVec 5) (s : State) : Host.Outcome State Fault Refusal :=
  s.un32 (.bfe d a sx lenm1 pos) d a (bfeOf sx pos.toNat (lenm1.toNat + 1))
def execBfi (d : Dst) (a b : Sel) (lenm1 pos : BitVec 5) (s : State) : Host.Outcome State Fault Refusal :=
  s.bin32 (.bfi d a b lenm1 pos) d a b (bfiOf pos.toNat (lenm1.toNat + 1))

/-- LEAX (R100). -/
def execLeax (d : Dst) (a b : Sel) (ix : BitVec 2) (sh : BitVec 4) (imm : BitVec 12) (s : State) :
    Host.Outcome State Fault Refusal :=
  .next (s.issueLocal (.leax d a b ix sh imm) fun th =>
    let i := leaxIndex ix (rd32 s.site.rep th .b b) (rd64 s.site.rep th .b b)
    res64 s.site.rep th d (rd64 s.site.rep th .a a + (i <<< sh.toNat) + sx64 imm))

/-- CLZW, FFSW and POPCW (R94, R95). -/
def execClzw (d : Dst) (a : Sel) (w : BitVec 2) (s : State) : Host.Outcome State Fault Refusal :=
  s.un32 (.clzw d a w) d a fun x => packed (elemWidth w) fun i => clzOf (elemWidth w) (elem (elemWidth w) x i)
def execFfsw (d : Dst) (a : Sel) (w : BitVec 2) (s : State) : Host.Outcome State Fault Refusal :=
  s.un32 (.ffsw d a w) d a fun x => packed (elemWidth w) fun i => ffsOf (elemWidth w) (elem (elemWidth w) x i)
def execPopcw (d : Dst) (a : Sel) (w : BitVec 2) (s : State) : Host.Outcome State Fault Refusal :=
  s.un32 (.popcw d a w) d a fun x => packed (elemWidth w) fun i => popcOf (elemWidth w) (elem (elemWidth w) x i)

/-- Packed arithmetic (R101, R102). -/
def execPadd (d : Dst) (a b : Sel) (w : BitVec 2) (s : State) : Host.Outcome State Fault Refusal :=
  s.bin32 (.padd d a b w) d a b (packed2 (elemWidth w) (· + ·) false)
def execPsub (d : Dst) (a b : Sel) (w : BitVec 2) (s : State) : Host.Outcome State Fault Refusal :=
  s.bin32 (.psub d a b w) d a b (packed2 (elemWidth w) (· - ·) false)
def execPadds (d : Dst) (a b : Sel) (w ovf : BitVec 2) (u : Bool) (s : State) : Host.Outcome State Fault Refusal :=
  s.cond32 (.padds d a b w ovf u) d a b (packedSat (elemWidth w) (· + ·) u ovf)
def execPsubs (d : Dst) (a b : Sel) (w ovf : BitVec 2) (u : Bool) (s : State) : Host.Outcome State Fault Refusal :=
  s.cond32 (.psubs d a b w ovf u) d a b (packedSat (elemWidth w) (· - ·) u ovf)
def execPmin (d : Dst) (a b : Sel) (w : BitVec 2) (u : Bool) (s : State) : Host.Outcome State Fault Refusal :=
  s.bin32 (.pmin d a b w u) d a b (packed2 (elemWidth w) min u)
def execPmax (d : Dst) (a b : Sel) (w : BitVec 2) (u : Bool) (s : State) : Host.Outcome State Fault Refusal :=
  s.bin32 (.pmax d a b w u) d a b (packed2 (elemWidth w) max u)
def execPmul (d : Dst) (a b : Sel) (w : BitVec 2) (hi u : Bool) (s : State) : Host.Outcome State Fault Refusal :=
  s.bin32 (.pmul d a b w hi u) d a b
    (packed2 (elemWidth w) (fun x y => if hi then x * y / 2 ^ elemWidth w else x * y) u)

/-- PDOT4 (R103). -/
def execPdot4 (d : Dst) (a b c : Sel) (w : BitVec 2) (ub ua : Bool) (s : State) : Host.Outcome State Fault Refusal :=
  .next (s.issueLocal (.pdot4 d a b c w ub ua) fun th =>
    res32 s.site.rep th d
      (pdot4Of ua ub (rd32 s.site.rep th .a a) (rd32 s.site.rep th .b b) (rd32 s.site.rep th .c c)))

/-- CVTI (R104). -/
def execCvti (d : Dst) (a : Sel) (dt st : BitVec 4) (ovf : BitVec 2) (s : State) : Host.Outcome State Fault Refusal :=
  .next (s.issueLocal (.cvti d a dt st ovf) fun th =>
    let (w, u) := intCode dt
    let v := cvtiSrc st (rdW s.site.rep th .a a (intWords st)).toNat
    resCond s.site.rep th s.site.w0 d (intWords dt) (narrow (intLo u w) (intHi u w) (intOut dt) ovf 0x080 v))

end Sys2Proof.Machine
end

