-- ==== Sys2Proof/Machine/System.lean ====
section
/-! DEFINITION. Instructions of class SYS (12 R265 to R279): user traps, breakpoints, the return from a handler, the system
registers, the team fault log, aborts and the clocks. -/

namespace Sys2Proof.Machine

/-- TRAP (R275): a USER trap that resumes after the word. -/
def execTrap (a : Sel) (code : BitVec 8) (s : State) : Host.Outcome State Fault Refusal :=
  .next (s.issueLocal (.trap a code) fun th => .trap (0x120 + code.toNat) (rd32 s.site.rep th .a a))

/-- BKPT (R276). -/
def execBkpt (code : BitVec 8) (s : State) : Host.Outcome State Fault Refusal :=
  .next (s.issueLocal (.bkpt code) fun th => if th.view.dbgctl.getLsbD 0 then .trap 0x110 (code.setWidth 32) else .none)

/-- The thread after TRET: its level is PPRV's, and INH is 0; a return from a single-step trap lets one clause start pass
(R274, R276). -/
def Thread.tret (th : Thread) : Thread :=
  { th with priv := th.estat.getLsbD 9, estat := th.estat &&& ~~~(0x40000#32)
            ssSkip := th.ssSkip || th.estat.extractLsb' 0 9 == 0x111#9 }

/-- TRET (R274): R130 applies to EPC, and no JT check is made. -/
def execTret (s : State) : Host.Outcome State Fault Refusal :=
  .next (s.issueEach .tret fun s k _ th =>
    if !th.inh then (s, .trap 0x103 0 0)
    else if !(codeAddr th.epc) then (s, .trap 0x02C 0 th.epc)
    else (s.modThread k Thread.tret, .resume ⟨th.epc.setWidth 56, (th.estat.extractLsb' 14 4).toNat⟩))

/-! ## System registers (R266 to R269) -/

/-- Registers that only supervisor level reaches (R267). -/
def srnRs (n : Nat) : Bool := n == 7 || n == 0x16 || n == 0x17 || (0x100 ≤ n && n ≤ 0x102)

/-- The registers whose reading waits for SFU and XL results (R266). -/
def srnFlags (n : Nat) : Bool := n == 0x10 || n == 0x11 || n == 0x13

/-- A word of a fault-log entry (R279). -/
def FlogEntry.w (e : FlogEntry) (k : Nat) : Word :=
  match k with
  | 0 => e.handle
  | 1 => e.word
  | 2 => BitVec.ofNat 32 (e.tid % 1024 + e.wi % 16 * 1024)
  | 3 => loWord e.h
  | 4 => hiWord e.h
  | _ => 0

/-- SATCOUNT as a thread sees it: another thread's write counts from the thread's next clause start (R268), every clamp at once. -/
def Thread.satSeen (th : Thread) (c : Ctx) : Word :=
  match th.satOld with
  | none => c.satcount
  | some (old, new) => satAdd old (c.satcount - new).toNat

/-- MATNANPOS as a thread sees it (R268). -/
def Thread.nanSeen (th : Thread) (c : Ctx) : Word := if th.nanOld then c.matnanpos ||| 0x80000000#32 else c.matnanpos

/-- The value of a system register for a thread (R267, R269). -/
def State.sysRead (s : State) (n : Nat) (k : Key) (t : Team) (th : Thread) (c : Ctx) : Word :=
  match n with
  | 0x00 => BitVec.ofNat 32 k.tid
  | 0x01 => BitVec.ofNat 32 t.index
  | 0x02 => BitVec.ofNat 32 t.rank
  | 0x03 => BitVec.ofNat 32 c.core
  | 0x04 => BitVec.ofNat 32 k.tslot
  | 0x05 => BitVec.ofNat 32 c.asid
  | 0x06 => s.pkg.deviceId.setWidth 32
  | 0x07 => BitVec.ofNat 32 (dieOf c.core * 256 + c.core % 96)
  | 0x10 => th.view.fpctl
  | 0x11 => th.satSeen c
  | 0x12 => th.view.matctl
  | 0x13 => th.nanSeen c
  | 0x14 => loWord th.view.trapvec
  | 0x15 => hiWord th.view.trapvec
  | 0x16 => th.view.trapdlg
  | 0x17 => th.view.dbgctl
  | 0x20 => th.estat
  | 0x21 => th.einfo
  | 0x22 => loWord th.epc
  | 0x23 => hiWord th.epc
  | 0x24 => loWord th.eaddr
  | 0x25 => hiWord th.eaddr
  | 0x26 => th.esave0
  | 0x27 => th.esave1
  | 0x30 => t.flogstat
  | 0x100 => loWord (s.die (dieOf c.core)).sysvec
  | 0x101 => hiWord (s.die (dieOf c.core)).sysvec
  | n => if 0x31 ≤ n ∧ n ≤ 0x38 then ((t.flog.head?).map fun e => e.w (n - 0x31)).getD 0 else 0

/-- A write to one of the context registers that every thread of the context obeys from its next clause start, and the writer
from its next instruction (R268). -/
def State.ctxWrite (s : State) (k : Key) (f : CtxRegs → CtxRegs) : State :=
  (s.modCtx k.ctx fun c => { c with regs := f c.regs }).modThread k fun th => { th with view := f th.view }

/-- The low or the high word of a pair replaced. -/
def withLo (p : Pair) (w : Word) : Pair := pairOf w (hiWord p)
def withHi (p : Pair) (w : Word) : Pair := pairOf (loWord p) w

/-- The oldest fault-log entry removed (R279). -/
def State.flogPop (s : State) (k : Key) : State := s.modTeam k.ctx k.tslot fun t => { t with flog := t.flog.drop 1 }

/-- A write to ABORT (R273). -/
def State.abortBy (s : State) (k : Key) (th : Thread) (v : Word) : State :=
  s.abortTeam k (estatOf th.inh 0 s.site.wi (th.estat.getLsbD 9) 0x104) v (va56 s.site.h) 0

/-- A write to SATCOUNT, which the other threads of the context see from their next clause start (R268). -/
def State.satWrite (s : State) (k : Key) (v : Word) : State :=
  s.modCtx k.ctx fun c => { c with
    satcount := v
    teams := tmap c.teams fun ts t => { t with threads := tmap t.threads fun tid th =>
      { th with satOld := if ts = k.tslot ∧ tid = k.tid then none else some (th.satSeen c, v) } } }

/-- A write of 1 to MATNANPOS.VALID, which the other threads of the context see from their next clause start (R268). -/
def State.nanClear (s : State) (k : Key) : State :=
  s.modCtx k.ctx fun c => { c with
    matnanpos := c.matnanpos &&& 0x7FFFFFFF#32
    teams := tmap c.teams fun ts t => { t with threads := tmap t.threads fun tid th =>
      { th with nanOld := !(ts == k.tslot && tid == k.tid) && (th.nanSeen c).getLsbD 31 } } }

/-- A handler that moves the resumption point takes its thread out of the REP clause that it interrupted, so that REPIDX is 0
(01 R16). DEDUCED: log 83. -/
def Thread.resumption (old new : Thread) : Thread :=
  if new.epc = old.epc ∧ new.estat = old.estat then new else { new with repidx := 0 }

/-- A write to a system register: read-only and reserved fields keep their values (R7, R267). -/
def State.sysWrite (s : State) (n : Nat) (k : Key) (th : Thread) (core : Nat) (v : Word) : State :=
  match n with
  | 0x10 => s.ctxWrite k fun r => { r with fpctl := v &&& fpctlMask }
  | 0x11 => s.satWrite k v
  | 0x12 => s.ctxWrite k fun r => { r with matctl := v &&& matctlMask }
  | 0x13 => if v.getLsbD 31 then s.nanClear k else s
  | 0x14 => s.ctxWrite k fun r => { r with trapvec := withLo r.trapvec v }
  | 0x15 => s.ctxWrite k fun r => { r with trapvec := withHi r.trapvec v }
  | 0x16 => s.ctxWrite k fun r => { r with trapdlg := v &&& trapdlgMask }
  | 0x17 => s.ctxWrite k fun r => { r with dbgctl := v &&& dbgctlMask }
  | 0x20 => s.modThread k fun t => t.resumption { t with estat := (t.estat &&& ~~~(0x3C000#32)) ||| (v &&& 0x3C000#32) }
  | 0x21 => s.modThread k fun t => { t with einfo := v }
  | 0x22 => s.modThread k fun t => t.resumption { t with epc := withLo t.epc v }
  | 0x23 => s.modThread k fun t => t.resumption { t with epc := withHi t.epc v }
  | 0x26 => s.modThread k fun t => { t with esave0 := v }
  | 0x27 => s.modThread k fun t => { t with esave1 := v }
  | 0x30 => s.modTeam k.ctx k.tslot fun t => { t with ovfcnt := v.toNat / 65536 }
  | 0x39 => s.flogPop k
  | 0x100 => s.modDie (dieOf core) fun d => { d with sysvec := withLo d.sysvec v }
  | 0x101 => s.modDie (dieOf core) fun d => { d with sysvec := withHi d.sysvec v }
  | 0x102 => s.abortBy k th v
  | _ => s

def execSysrd (d : Dst) (srn : BitVec 16) (s : State) : Host.Outcome State Fault Refusal :=
  let i : Instr := .sysrd d srn
  .next (s.holdIf i (fun _ _ th => srnFlags srn.toNat && th.count 7 != 0) fun s =>
    s.issueEach i fun s k t th =>
      match s.ctx? k.ctx with
      | none => (s, .next)
      | some c =>
        if srnRs srn.toNat && !th.priv then (s, .trap 0x044 0 0)
        else (s.modThread k fun x => x.writes (dst32 s.site.rep th d (s.sysRead srn.toNat k t th c)), .next))

/-- Write a system register by every member in ascending position (R268). -/
def State.issueSyswr (s : State) (i : Instr) (rs : BitVec 7) (n : Nat) : State :=
  s.issueEach i fun s k _ th =>
    if srnRs n && !th.priv then (s, .trap 0x044 0 0)
    else (s.sysWrite n k th (((s.ctx? k.ctx).map (·.core)).getD 0) (th.get rs.toNat), .next)

def execSyswr (rs : BitVec 7) (srn : BitVec 16) (s : State) : Host.Outcome State Fault Refusal :=
  .next (s.issueSyswr (.syswr rs srn) rs srn.toNat)

/-- A write to FLOGPOP (R279). -/
def execFlogpop (rs : BitVec 7) (s : State) : Host.Outcome State Fault Refusal := .next (s.issueSyswr (.flogpop rs) rs 0x39)

/-- A write to ABORT (R273). -/
def execAbort (rs : BitVec 7) (s : State) : Host.Outcome State Fault Refusal := .next (s.issueSyswr (.abort rs) rs 0x102)

/-! ## Clocks (R277) -/

/-- A core's cycle counter moves on freely (log 24). -/
def State.readClock (s : State) (core : Nat) : Pair × State :=
  let (n, s) := s.drawNat
  let v := (s.core core).clock + BitVec.ofNat 64 (n % 2 ^ 32)
  (v, s.modCore core fun c => { c with clock := v })

def execClock (d : Dst) (ctr : BitVec 8) (s : State) : Host.Outcome State Fault Refusal :=
  .next (s.issueEach (.clock d ctr) fun s k _ th =>
    let (v, s) := if ctr = 0 then s.readClock (((s.ctx? k.ctx).map (·.core)).getD 0) else s.readTime
    (s.modThread k fun x => x.writes (dst64 s.site.rep th d v), .next))

end Sys2Proof.Machine
end

