-- ==== Sys2Proof/Machine/Dispatch.lean ====
section
/-! DEFINITION. The dispatch of an instruction to its meaning, one arm per constructor of Instr. -/

namespace Sys2Proof.Machine

def exec (i : Instr) (s : State) : Host.Outcome State Fault Refusal :=
  match i with
  | .nop => Sys2Proof.Machine.execNop s
  | .mov d a => Sys2Proof.Machine.execMov d a s
  | .add d a b => Sys2Proof.Machine.execAdd d a b s
  | .sub d a b => Sys2Proof.Machine.execSub d a b s
  | .mullo d a b => Sys2Proof.Machine.execMullo d a b s
  | .mulhi d a b => Sys2Proof.Machine.execMulhi d a b s
  | .mulhiu d a b => Sys2Proof.Machine.execMulhiu d a b s
  | .and d a b => Sys2Proof.Machine.execAnd d a b s
  | .or d a b => Sys2Proof.Machine.execOr d a b s
  | .xor d a b => Sys2Proof.Machine.execXor d a b s
  | .andn d a b => Sys2Proof.Machine.execAndn d a b s
  | .shl d a b => Sys2Proof.Machine.execShl d a b s
  | .shr d a b => Sys2Proof.Machine.execShr d a b s
  | .sar d a b => Sys2Proof.Machine.execSar d a b s
  | .rol d a b => Sys2Proof.Machine.execRol d a b s
  | .min d a b => Sys2Proof.Machine.execMin d a b s
  | .max d a b => Sys2Proof.Machine.execMax d a b s
  | .minu d a b => Sys2Proof.Machine.execMinu d a b s
  | .maxu d a b => Sys2Proof.Machine.execMaxu d a b s
  | .slt d a b => Sys2Proof.Machine.execSlt d a b s
  | .sltu d a b => Sys2Proof.Machine.execSltu d a b s
  | .seq d a b => Sys2Proof.Machine.execSeq d a b s
  | .absd d a b => Sys2Proof.Machine.execAbsd d a b s
  | .clz d a => Sys2Proof.Machine.execClz d a s
  | .ffs d a => Sys2Proof.Machine.execFfs d a s
  | .popc d a => Sys2Proof.Machine.execPopc d a s
  | .brev d a => Sys2Proof.Machine.execBrev d a s
  | .addi d a imm => Sys2Proof.Machine.execAddi d a imm s
  | .shli d a imm => Sys2Proof.Machine.execShli d a imm s
  | .shri d a imm => Sys2Proof.Machine.execShri d a imm s
  | .sari d a imm => Sys2Proof.Machine.execSari d a imm s
  | .andi d a imm => Sys2Proof.Machine.execAndi d a imm s
  | .lea d a b => Sys2Proof.Machine.execLea d a b s
  | .rqadd d a b => Sys2Proof.Machine.execRqadd d a b s
  | .rqsub d a b => Sys2Proof.Machine.execRqsub d a b s
  | .rqmul d a b => Sys2Proof.Machine.execRqmul d a b s
  | .rqdec d a => Sys2Proof.Machine.execRqdec d a s
  | .fadd d a b => Sys2Proof.Machine.execFadd d a b s
  | .fsub d a b => Sys2Proof.Machine.execFsub d a b s
  | .fmul d a b => Sys2Proof.Machine.execFmul d a b s
  | .fmin d a b => Sys2Proof.Machine.execFmin d a b s
  | .fmax d a b => Sys2Proof.Machine.execFmax d a b s
  | .fslt d a b => Sys2Proof.Machine.execFslt d a b s
  | .fsle d a b => Sys2Proof.Machine.execFsle d a b s
  | .fseq d a b => Sys2Proof.Machine.execFseq d a b s
  | .fsun d a b => Sys2Proof.Machine.execFsun d a b s
  | .fneg d a => Sys2Proof.Machine.execFneg d a s
  | .fabs d a => Sys2Proof.Machine.execFabs d a s
  | .fclass d a => Sys2Proof.Machine.execFclass d a s
  | .frcp d a => Sys2Proof.Machine.execFrcp d a s
  | .frsq d a => Sys2Proof.Machine.execFrsq d a s
  | .fex2 d a => Sys2Proof.Machine.execFex2 d a s
  | .flg2 d a => Sys2Proof.Machine.execFlg2 d a s
  | .fsin d a => Sys2Proof.Machine.execFsin d a s
  | .fcos d a => Sys2Proof.Machine.execFcos d a s
  | .hadd2 d a b => Sys2Proof.Machine.execHadd2 d a b s
  | .hmul2 d a b => Sys2Proof.Machine.execHmul2 d a b s
  | .flags d sc => Sys2Proof.Machine.execFlags d sc s
  | .flgclr mask => Sys2Proof.Machine.execFlgclr mask s
  | .movi d imm => Sys2Proof.Machine.execMovi d imm s
  | .mad d a b c w u => Sys2Proof.Machine.execMad d a b c w u s
  | .sel d a b c => Sys2Proof.Machine.execSel d a b c s
  | .bfe d a sx lenm1 pos => Sys2Proof.Machine.execBfe d a sx lenm1 pos s
  | .bfi d a b lenm1 pos => Sys2Proof.Machine.execBfi d a b lenm1 pos s
  | .leax d a b ix sh imm => Sys2Proof.Machine.execLeax d a b ix sh imm s
  | .clzw d a w => Sys2Proof.Machine.execClzw d a w s
  | .ffsw d a w => Sys2Proof.Machine.execFfsw d a w s
  | .popcw d a w => Sys2Proof.Machine.execPopcw d a w s
  | .padd d a b w => Sys2Proof.Machine.execPadd d a b w s
  | .psub d a b w => Sys2Proof.Machine.execPsub d a b w s
  | .padds d a b w ovf u => Sys2Proof.Machine.execPadds d a b w ovf u s
  | .psubs d a b w ovf u => Sys2Proof.Machine.execPsubs d a b w ovf u s
  | .pmin d a b w u => Sys2Proof.Machine.execPmin d a b w u s
  | .pmax d a b w u => Sys2Proof.Machine.execPmax d a b w u s
  | .pmul d a b w hi u => Sys2Proof.Machine.execPmul d a b w hi u s
  | .pdot4 d a b c w ub ua => Sys2Proof.Machine.execPdot4 d a b c w ub ua s
  | .rqmad d a b c => Sys2Proof.Machine.execRqmad d a b c s
  | .rqenc d a ovf => Sys2Proof.Machine.execRqenc d a ovf s
  | .cvti d a dt st ovf => Sys2Proof.Machine.execCvti d a dt st ovf s
  | .ialui d a base imm => Sys2Proof.Machine.execIalui d a base imm s
  | .falui d a base imm => Sys2Proof.Machine.execFalui d a base imm s
  | .fopr d a b c rm ovf => Sys2Proof.Machine.execFopr d a b c rm ovf s
  | .ffma d a b c rm ovf => Sys2Proof.Machine.execFfma d a b c rm ovf s
  | .frnd d a rm w => Sys2Proof.Machine.execFrnd d a rm w s
  | .fcvt d a dt st rm ovf hi => Sys2Proof.Machine.execFcvt d a dt st rm ovf hi s
  | .ftoi d a dt st rm ovf hi => Sys2Proof.Machine.execFtoi d a dt st rm ovf hi s
  | .itof d a dt st rm ovf => Sys2Proof.Machine.execItof d a dt st rm ovf s
  | .fdiv d a b rm w ovf => Sys2Proof.Machine.execFdiv d a b rm w ovf s
  | .fsqrt d a rm w ovf => Sys2Proof.Machine.execFsqrt d a rm w ovf s
  | .dadd d a b rm ovf => Sys2Proof.Machine.execDadd d a b rm ovf s
  | .dsub d a b rm ovf => Sys2Proof.Machine.execDsub d a b rm ovf s
  | .dmul d a b rm ovf => Sys2Proof.Machine.execDmul d a b rm ovf s
  | .dfma d a b c rm ovf => Sys2Proof.Machine.execDfma d a b c rm ovf s
  | .dcmp d a b c => Sys2Proof.Machine.execDcmp d a b c s
  | .hfma2 d a b c rm ovf fmt => Sys2Proof.Machine.execHfma2 d a b c rm ovf fmt s
  | .hopr d a b c rm ovf fmt => Sys2Proof.Machine.execHopr d a b c rm ovf fmt s
  | .brx a => Sys2Proof.Machine.execBrx a s
  | .callx d a => Sys2Proof.Machine.execCallx d a s
  | .ret a => Sys2Proof.Machine.execRet a s
  | .jset bar => Sys2Proof.Machine.execJset bar s
  | .jwait bar => Sys2Proof.Machine.execJwait bar s
  | .jdrop bar => Sys2Proof.Machine.execJdrop bar s
  | .yield => Sys2Proof.Machine.execYield s
  | .exit => Sys2Proof.Machine.execExit s
  | .rep cnt st => Sys2Proof.Machine.execRep cnt st s
  | .waitf d a chk => Sys2Proof.Machine.execWaitf d a chk s
  | .testf d a => Sys2Proof.Machine.execTestf d a s
  | .cancelf a rel => Sys2Proof.Machine.execCancelf a rel s
  | .movf d a => Sys2Proof.Machine.execMovf d a s
  | .br cond a b disp => Sys2Proof.Machine.execBr cond a b disp s
  | .call d disp => Sys2Proof.Machine.execCall d disp s
  | .ballot d a => Sys2Proof.Machine.execBallot d a s
  | .any d a => Sys2Proof.Machine.execAny d a s
  | .all d a => Sys2Proof.Machine.execAll d a s
  | .gpos d => Sys2Proof.Machine.execGpos d s
  | .gsize d => Sys2Proof.Machine.execGsize d s
  | .member d a => Sys2Proof.Machine.execMember d a s
  | .shfl d a b mode seg => Sys2Proof.Machine.execShfl d a b mode seg s
  | .redux d a ty op rm ovf => Sys2Proof.Machine.execRedux d a ty op rm ovf s
  | .ldg d a off => Sys2Proof.Machine.execLdg d a off s
  | .stg rs a off => Sys2Proof.Machine.execStg rs a off s
  | .ldk d a off => Sys2Proof.Machine.execLdk d a off s
  | .fence ord scope => Sys2Proof.Machine.execFence ord scope s
  | .flush a scope => Sys2Proof.Machine.execFlush a scope s
  | .inval a scope => Sys2Proof.Machine.execInval a scope s
  | .pref a lv => Sys2Proof.Machine.execPref a lv s
  | .ldgx d a b scl na xs sx w imm => Sys2Proof.Machine.execLdgx d a b scl na xs sx w imm s
  | .stgx rs a b scl na xs w imm => Sys2Proof.Machine.execStgx rs a b scl na xs w imm s
  | .atom d a b op w scope ord imm => Sys2Proof.Machine.execAtom d a b op w scope ord imm s
  | .cas d a b c w scope ord imm => Sys2Proof.Machine.execCas d a b c w scope ord imm s
  | .lds d a mode off => Sys2Proof.Machine.execLds d a mode off s
  | .sts rs fill a off => Sys2Proof.Machine.execSts rs fill a off s
  | .feset clr a b => Sys2Proof.Machine.execFeset clr a b s
  | .fetest d a => Sys2Proof.Machine.execFetest d a s
  | .stf rs a off => Sys2Proof.Machine.execStf rs a off s
  | .ldf d a off => Sys2Proof.Machine.execLdf d a off s
  | .ldt d a buf xs off => Sys2Proof.Machine.execLdt d a buf xs off s
  | .stt rs a buf xs off => Sys2Proof.Machine.execStt rs a buf xs off s
  | .qpop d => Sys2Proof.Machine.execQpop d s
  | .trap a code => Sys2Proof.Machine.execTrap a code s
  | .tret => Sys2Proof.Machine.execTret s
  | .sysrd d srn => Sys2Proof.Machine.execSysrd d srn s
  | .syswr rs srn => Sys2Proof.Machine.execSyswr rs srn s
  | .flogpop rs => Sys2Proof.Machine.execFlogpop rs s
  | .abort rs => Sys2Proof.Machine.execAbort rs s
  | .clock d ctr => Sys2Proof.Machine.execClock d ctr s
  | .bkpt code => Sys2Proof.Machine.execBkpt code s
  | .ldsx d a b peer rank mode sx w qw imm => Sys2Proof.Machine.execLdsx d a b peer rank mode sx w qw imm s
  | .stsx rs a b peer rank mode w qw imm => Sys2Proof.Machine.execStsx rs a b peer rank mode w qw imm s
  | .atoms d a b c w scope ord op peer rank => Sys2Proof.Machine.execAtoms d a b c w scope ord op peer rank s
  | .copy d a b c rm w ovf scope mode dsp ssp pfmt => Sys2Proof.Machine.execCopy d a b c rm w ovf scope mode dsp ssp pfmt s
  | .mloop d a b ct ainc winc fmt fin zero steps => Sys2Proof.Machine.execMloop d a b ct ainc winc fmt fin zero steps s
  | .mfold d t => Sys2Proof.Machine.execMfold d t s
  | .cvtdn d a t rm ovf dsp pfmt => Sys2Proof.Machine.execCvtdn d a t rm ovf dsp pfmt s
  | .mzero d t km1 => Sys2Proof.Machine.execMzero d t km1 s
  | .gather d a b c w scope sx base => Sys2Proof.Machine.execGather d a b c w scope sx base s
  | .scatter d a b c w scope sx base => Sys2Proof.Machine.execScatter d a b c w scope sx base s
  | .scadd d a b c w scope ops ft sx base => Sys2Proof.Machine.execScadd d a b c w scope ops ft sx base s
  | .stand d a b imm => Sys2Proof.Machine.execStand d a b imm s
  | .unstand d b imm => Sys2Proof.Machine.execUnstand d b imm s
  | .substat d b clr imm => Sys2Proof.Machine.execSubstat d b clr imm s
  | .lease d kind pri => Sys2Proof.Machine.execLease d kind pri s
  | .unlease d a => Sys2Proof.Machine.execUnlease d a s
  | .mrg d a b op w scope imm => Sys2Proof.Machine.execMrg d a b op w scope imm s
  | .lstat d a => Sys2Proof.Machine.execLstat d a s
  | .nbrgrid d a b scope imm => Sys2Proof.Machine.execNbrgrid d a b scope imm s
  | .nbrbin d a b scope imm => Sys2Proof.Machine.execNbrbin d a b scope imm s
  | .nbrpair d a b scope imm => Sys2Proof.Machine.execNbrpair d a b scope imm s
  | .nbrchk d a b scope imm => Sys2Proof.Machine.execNbrchk d a b scope imm s
  | .qput d a b scope imm => Sys2Proof.Machine.execQput d a b scope imm s
  | .qdone d a b scope => Sys2Proof.Machine.execQdone d a b scope s
  | .tail a retain => Sys2Proof.Machine.execTail a retain s
  | .clauseStart core slot => Sys2Proof.Machine.execClauseStart core slot s
  | .groupFormation core laneset => Sys2Proof.Machine.execGroupFormation core laneset s
  | .stallDissolution core slot => Sys2Proof.Machine.execStallDissolution core slot s
  | .registerResultLands id => Sys2Proof.Machine.execRegisterResultLands id s
  | .futureCompletion op => Sys2Proof.Machine.execFutureCompletion op s
  | .l1Fill core sector => Sys2Proof.Machine.execL1Fill core sector s
  | .homeWriteBack core sector evict => Sys2Proof.Machine.execHomeWriteBack core sector evict s
  | .atomicAtHome id => Sys2Proof.Machine.execAtomicAtHome id s
  | .hbmFill sector victim => Sys2Proof.Machine.execHbmFill sector victim s
  | .scaddUpdate op pos => Sys2Proof.Machine.execScaddUpdate op pos s
  | .pushDelivery sub => Sys2Proof.Machine.execPushDelivery sub s
  | .typedBufferHandover core ctx buf => Sys2Proof.Machine.execTypedBufferHandover core ctx buf s
  | .matrixOpBegin ctx => Sys2Proof.Machine.execMatrixOpBegin ctx s
  | .mloopStepBoundary ctx handover => Sys2Proof.Machine.execMloopStepBoundary ctx handover s
  | .tlbWalkComplete die asid va => Sys2Proof.Machine.execTlbWalkComplete die asid va s
  | .replayAll die => Sys2Proof.Machine.execReplayAll die s
  | .refuse die => Sys2Proof.Machine.execRefuse die s
  | .invPage die => Sys2Proof.Machine.execInvPage die s
  | .invAsid die => Sys2Proof.Machine.execInvAsid die s
  | .invAll die => Sys2Proof.Machine.execInvAll die s
  | .registerWrite off wide val => Sys2Proof.Machine.execRegisterWrite off wide val s
  | .windowFieldWrite win field val => Sys2Proof.Machine.execWindowFieldWrite win field val s
  | .windowEnable win val => Sys2Proof.Machine.execWindowEnable win val s
  | .queueEnable q => Sys2Proof.Machine.execQueueEnable q s
  | .queueSlotTaken q => Sys2Proof.Machine.execQueueSlotTaken q s
  | .launchBind die => Sys2Proof.Machine.execLaunchBind die s
  | .clusterBind launch => Sys2Proof.Machine.execClusterBind launch s
  | .taskDelivery q => Sys2Proof.Machine.execTaskDelivery q s
  | .teamEnd ctx tslot => Sys2Proof.Machine.execTeamEnd ctx tslot s
  | .contextSwitchOut core => Sys2Proof.Machine.execContextSwitchOut core s
  | .streamOutComplete ctx => Sys2Proof.Machine.execStreamOutComplete ctx s
  | .streamInComplete ctx => Sys2Proof.Machine.execStreamInComplete ctx s
  | .migration die island => Sys2Proof.Machine.execMigration die island s
  | .crossDieMigration ctx core => Sys2Proof.Machine.execCrossDieMigration ctx core s
  | .controlInterval => Sys2Proof.Machine.execControlInterval s
  | .powerControlWrite die off val => Sys2Proof.Machine.execPowerControlWrite die off val s
  | .lanternLit die id => Sys2Proof.Machine.execLanternLit die id s
  | .snuffEnd die id => Sys2Proof.Machine.execSnuffEnd die id s
  | .lanternDark die id => Sys2Proof.Machine.execLanternDark die id s
  | .powerGood => Sys2Proof.Machine.execPowerGood s
  | .firmwareVerify => Sys2Proof.Machine.execFirmwareVerify s
  | .coreRelease => Sys2Proof.Machine.execCoreRelease s
  | .restart => Sys2Proof.Machine.execRestart s
  | .correctedError => Sys2Proof.Machine.execCorrectedError s
  | .uncorrectableError err => Sys2Proof.Machine.execUncorrectableError err s
  | .mgmtControlSpace p wide write v => Sys2Proof.Machine.execMgmtControlSpace p wide write v s
  | .mgmtRoutingId p write v => Sys2Proof.Machine.execMgmtRoutingId p write v s
  | .mgmtBootFlash p write v => Sys2Proof.Machine.execMgmtBootFlash p write v s
  | .attestationRequest p nonce => Sys2Proof.Machine.execAttestationRequest p nonce s
  | .fabricRead p rest => Sys2Proof.Machine.execFabricRead p rest s
  | .readResponse p data => Sys2Proof.Machine.execReadResponse p data s
  | .fabricWrite p data => Sys2Proof.Machine.execFabricWrite p data s
  | .writeAcknowledgement p => Sys2Proof.Machine.execWriteAcknowledgement p s
  | .fabricAtomic p wide bs cs => Sys2Proof.Machine.execFabricAtomic p wide bs cs s
  | .atomicResponse p olds => Sys2Proof.Machine.execAtomicResponse p olds s
  | .fabricReject p => Sys2Proof.Machine.execFabricReject p s
  | .managementResponse tag => Sys2Proof.Machine.execManagementResponse tag s
  | .remoteTimeout tag => Sys2Proof.Machine.execRemoteTimeout tag s
  | .reservedOpcode word => Sys2Proof.Machine.execReservedOpcode word s
  | .engineDelivery op => Sys2Proof.Machine.execEngineDelivery op s
  | .elementRequest op pos => Sys2Proof.Machine.execElementRequest op pos s
  | .streamOutBegin ctx image => Sys2Proof.Machine.execStreamOutBegin ctx image s
  | .streamInBegin ctx core => Sys2Proof.Machine.execStreamInBegin ctx core s

end Sys2Proof.Machine
end

