-- ==== Sys2Proof/Machine/Probe.lean ====
section
/-! DEFINITION. A program of one clause placed where the next step fetches it, and the turn that the model takes when its agenda
names none (log 1, log 7). -/

namespace Sys2Proof.Machine

/-- The clause header address, page tables and ASID of a placed program. -/
def probeH : BitVec 56 := 0x1000#56

/-- The class bits of a header. -/
def clsBits : Cls → Nat
  | .alu | .any => 0
  | .sfu => 1
  | .xl => 2
  | .mem => 3
  | .eng => 4
  | .ctrl => 5
  | .sys => 6

/-- The class of the clause that an instruction word may stand in alone. -/
def probeCls (w0 : Word) : Cls :=
  match (opClass (w0.extractLsb' 24 8).toNat).getD .alu with
  | .any => .alu
  | c => c

/-- COUNT of the placed clause: a REP word needs its target after it. -/
def probeCount (w0 : Word) : Nat := if (w0.extractLsb' 24 8).toNat = 0x58 then 2 else wordCount w0

/-- The header of the placed clause: JT and WAIT 0. -/
def probeHeader (w0 : Word) : Word := BitVec.ofNat 32 (2 ^ 16 + clsBits (probeCls w0) * 16 + probeCount w0)

/-- The leaf that maps the code: a 64 GiB page at physical address 0 of this device, readable, writable and executable. -/
def State.probeLeaf (s : State) : Pair := BitVec.ofNat 64 (s.pkg.deviceId.toNat * 2 ^ 45 + 0x1F)

/-- A thread that is about to execute the first word of the placed clause. -/
def probeThread (view : CtxRegs) : Thread :=
  { regs := Vector.replicate 128 0, pend := [], counts := Vector.replicate 8 0, flags := 0, repidx := 0, pc := ⟨probeH, 1⟩,
    run := .issuing, deferred := false, priv := false, estat := 0, einfo := 0, epc := 0, eaddr := 0, esave0 := 0, esave1 := 0,
    ssSkip := false, atStart := false, bars := Vector.replicate 16 .none, latches := Vector.replicate 4 .unwritten, view,
    satOld := none, nanOld := false }

/-- Its team, alone in its cluster, of a launch whose packet is not modelled. -/
def probeTeam (view : CtxRegs) : Team :=
  { index := 0, rank := 0, launch := 0, cluster := 0, shape := 0, n := 128, scrSize := 1024, scratch := [], fbits := [],
    threads := [(0, probeThread view)], endFlags := 0, flog := [], ovfcnt := 0, leases := [], tail := none, queue := none,
    konst := ConstSpace.none, aborted := false }

/-- Its context, declared for typed buffers. -/
def probeCtx : Ctx :=
  { asid := 1, typed := true, place := .active, core := 0, bank := 0, image := 0, regs := CtxRegs.reset, satcount := 0,
    matnanpos := 0, teams := [(0, probeTeam CtxRegs.reset)], futures := [], matq := [],
    event := { coal := 0, pendCur := false, pendThm := false, info := 0, time := 0 },
    subCount := 0, abuf := none, wbuf := none, cbuf := none, sync := none, joined := true, moving := none, left := none, gangOut := false, pages := [], bases := [] }

/-- Its group. -/
def probeGroup (w0 : Word) : Group :=
  { ctx := 0, members := [(0, 0)], cols := [0], origin := ⟨probeH, 1⟩, h := probeH, wi := 1, began := 0,
    entered := true, passed := true, started := true, count := probeCount w0, cls := probeCls w0, yh := false, dissolve := false, stalled := 0, rep := none, order := 0 }

/-- The memory of the placed program: the ASID table's entry 1, the two tables it names, and the clause. -/
def State.probeMem (s : State) (w0 w1 : Word) : Mem :=
  let dev := s.pkg.deviceId.toNat * 2 ^ 45
  let m := hwriteN s.pkg.hbm (localOf (s.die 0).tcb.atbase + 8) 8 (dev + 0x100000 + 1)
  let m := hwriteN m 0x100000 8 (dev + 0x102000 + 1)
  let m := hwriteN m 0x102000 8 s.probeLeaf.toNat
  hwriteN (hwriteN (hwriteN m 0x1000 4 (probeHeader w0).toNat) 0x1004 4 w0.toNat) 0x1008 4 w1.toNat

/-- The words a core has fetched of the placed program. -/
def State.probeCode (s : State) (w0 w1 : Word) : Tab Word :=
  let at_ := fun (k : Nat) => (s.pkg.deviceId.toNat * 2 ^ 45 + 0x1000 + 4 * k) / 4
  tset (tset (tset (s.core 0).icache (at_ 0) (probeHeader w0)) (at_ 1) w0) (at_ 2) w1

/-- The instruction of two words placed in a clause of its own, its thread about to execute it on core 0. -/
def State.placeWords (s : State) (w0 w1 : Word) : State :=
  let tlb : List TlbEntry := [⟨1, 0, 2, s.probeLeaf⟩]
  let l2 := ([(localOf (s.die 0).tcb.atbase + 8) / 128, 0x100000 / 128, 0x102000 / 128, 0x1000 / 128] : List Nat).foldl tdel s.pkg.l2
  let hbm := s.probeMem w0 w1
  let icache := s.probeCode w0 w1
  let g := probeGroup w0
  let s := s.modPkg fun p => { p with hbm, l2 }
  let s := s.modDie 0 fun d => { d with tlb }
  let s := s.modCore 0 fun c => { c with groups := [(0, g)], tlb, icache }
  { s with ctxs := tset s.ctxs 0 probeCtx, agenda := [.issue 0 0], site := g.site 0 0 [(0, 0)] w0 }

/-! ## The turn taken when the agenda is empty (log 1) -/

/-- The groups that can try their next word. -/
def State.freshGroups (s : State) : List Turn :=
  s.cores.flatMap fun c => (c.2.groups.filter fun g => g.2.started && g.2.stalled == 0).map fun g => .issue c.1 g.1

/-- The events of the queues and of the launches that Wick and the dispatchers work on. -/
def State.queueTurns (s : State) : List Turn :=
  ((List.range 2048).filter fun q => s.qEn q != (s.queue q).on).map (fun q => .event (.queueEnable q))
  ++ ((s.queues.map (·.1)).filter fun q => s.served q && (s.queue q).taking != s.qWidx q).map (fun q => .event (.queueSlotTaken q))
  ++ (List.range 4).map (fun d => .event (.launchBind d))
  ++ s.launches.map (fun l => .event (.clusterBind l.1))
  ++ (dedup (s.qreqs.map (·.queue))).map (fun q => .event (.taskDelivery q))
  ++ s.ctxs.flatMap (fun c => c.2.teams.map fun t => .event (.teamEnd c.1 t.1))

/-- The events of a die: commands of its translation control block, its lanterns, and migration requests. -/
def State.dieTurns (s : State) (d : Nat) : List Turn :=
  ([.replayAll d, .refuse d, .invPage d, .invAsid d, .invAll d] : List Instr).map Turn.event
  ++ (s.die d).lanterns.flatMap (fun l => ([.lanternLit d l.1, .snuffEnd d l.1, .lanternDark d l.1] : List Instr).map Turn.event)
  ++ (List.range 24).map fun k => .event (.migration d k)

/-- The switches of contexts: of a hot one whose core has no active one, and of an active one whose cluster is switched out (14 R295);
and the migrations to another die under way. -/
def State.contextTurns (s : State) : List Turn :=
  (s.ctxs.filter fun c => (c.2.place == .hot && (s.inPlace c.2.core .active).isNone) || c.2.gangOut).map
    (fun c => .event (.contextSwitchOut c.2.core))
  ++ s.ctxs.filterMap fun c => c.2.moving.map fun m => .event (.crossDieMigration c.1 m.1)

/-- The kinds of turn, each with those of its kind that might move the machine. -/
def turnKinds : List (State → List Turn) :=
  [State.freshGroups,
   (fun s => (s.landings.take 1).map fun l => .event (.registerResultLands l.1)),
   (fun s => s.loads.map fun l => .event (.l1Fill l.2.core (l.2.pa.toNat / 128))),
   (fun s => s.atoms.map fun a => .event (.atomicAtHome a.1)),
   (fun s => s.ops.map fun o => .event (.futureCompletion o.1)),
   (fun s => s.ops.map fun o => .engine o.1),
   (fun s => s.pkg.subs.flatMap fun e => e.2.map fun b => .event (.pushDelivery b.id)),
   (fun s => s.cores.flatMap fun c => c.2.groups.map fun g => .event (.clauseStart c.1 g.1)),
   (fun s => (dedup (s.ctxs.map fun c => c.2.core)).flatMap fun g =>
      ((s.core g).nextSlot.toList).map fun l => .event (.groupFormation g l.1)),
   (fun s => s.cores.flatMap fun c => c.2.groups.map fun g => .event (.stallDissolution c.1 g.1)),
   (fun s => s.cores.flatMap fun c => c.2.groups.map fun g => .issue c.1 g.1),
   (fun s => (List.range 4).flatMap s.dieTurns),
   State.queueTurns,
   State.contextTurns,
   (fun s => (s.remotes.filter fun r => decide (s.pkg.up > r.2.since + 2000)).map fun r => .event (.remoteTimeout r.1)),
   (fun s => s.mgmt.map fun m => .event (.managementResponse m.head.tag.toNat))]

/-- A list from its place `n` on, then what stands before that place. -/
def rotated {α : Type} (l : List α) (n : Nat) : List α := l.drop (n % l.length) ++ l.take (n % l.length)

end Sys2Proof.Machine
end

