-- ==== Sys2Proof/Machine/Turns.lean ====
section
/-! DEFINITION. Turns: an event, the issue of one word by a group, or the progress of an engine operation; and which turn comes next
(log 1). -/

namespace Sys2Proof.Machine

/-- What an outcome leaves, or the state before where the turn ends in a fault or a refusal. -/
def moved (s : State) : Host.Outcome State Fault Refusal → State
  | .next s' => s'
  | _ => s

/-- Whether a group counts one stalled cycle more than before. -/
def State.heldAgain (t s : State) (core slot : Nat) : Bool :=
  match tget (s.core core).groups slot, tget (t.core core).groups slot with
  | some g, some g' => g'.stalled == g.stalled + 1
  | _, _ => false

/-- A state in which a group that stands before a clause has begun it, if its WAIT bits are met and nothing keeps it out (03 R60). -/
def State.atWord (s : State) (core slot : Nat) : State :=
  match tget (s.core core).groups slot with
  | some g => if g.started then s else s.clauseStart core slot
  | none => s

/-- Whether a group is ready: its next word can start, after the start of its clause where it stands before one (09 R203). -/
def State.canIssue (s : State) (core slot : Nat) : Bool :=
  match (s.atWord core slot).prepare core slot with
  | .run i s' => !(s'.stalls i) && !((moved s' (exec i s')).heldAgain s' core slot)
  | .done _ => false

/-- The groups that a laneset takes before one of its groups where they are ready: the one that it issued from last, then those
formed earlier (09 R203). -/
def Core.before (c : Core) (slot : Nat) (g : Group) : List Nat :=
  let last := tget c.greedy (slot / 4)
  if last == some g.order then [] else
  (c.groups.filter fun e => e.1 / 4 == slot / 4 && (last == some e.2.order || decide (e.2.order < g.order))).map (·.1)

/-- Whether a laneset takes a group: no group before it is ready (09 R203). An instruction occupies its laneset as a whole (05 R127),
so that what it occupies decides when a group issues, not which. -/
def State.laneTakes (s : State) (core slot : Nat) : Bool :=
  match tget (s.core core).groups slot with
  | none => false
  | some g => ((s.core core).before slot g).all fun b => !(s.canIssue core b)

/-- A core after a word of a group has issued: its laneset goes on with that group, unless it has gone or has ended a clause with
YH = 1 (09 R203, 03 R61). -/
def Core.keepIssuing (c : Core) (slot : Nat) (g : Group) : Core :=
  if (tget c.groups slot).any fun x => x.order == g.order && (x.started || !g.yh) then { c with greedy := tset c.greedy (slot / 4) g.order }
  else { c with greedy := tdel c.greedy (slot / 4) }

/-- After a word of a group has issued, its laneset goes on with that group. -/
def State.keepIssuing (s : State) (core slot : Nat) : Option Group → State
  | none => s
  | some g => s.modCore core fun c => c.keepIssuing slot g

/-- After a word has issued, deferral marks at other runs are cleared (06 R140) and its laneset goes on with its group (09 R203);
a word that stalled has not issued. -/
def issued (s : State) (core slot : Nat) : Host.Outcome State Fault Refusal → Host.Outcome State Fault Refusal
  | .next t => .next (if t.heldAgain s core slot then t else
      let g := tget (s.core core).groups slot
      (t.undefer g).keepIssuing core slot g)
  | o => o

/-- Issue a prepared word of a group: a word that must wait counts a stalled cycle, and one that could start does so where its
laneset takes the group. -/
def State.issueWord (s s' : State) (core slot : Nat) (i : Instr) : Host.Outcome State Fault Refusal :=
  if s'.stalls i || s'.laneTakes core slot then issued s' core slot (exec i s') else .next s

/-- Take one turn. -/
def run (t : Turn) (s : State) : Host.Outcome State Fault Refusal :=
  match t with
  | .event i => if i.isTurn then exec i s else .next s
  | .issue core slot =>
    match s.prepare core slot with
    | .run i s' => s.issueWord s' core slot i
    | .done s' => .next s'
  | .engine op => .next (s.engineTurn op)

/-- Whether a turn changes the state. -/
def State.moves (s : State) (t : Turn) : Bool := decide (moved s (run t s) ≠ s)

/-- The turn that the model takes when its agenda names none: the first that changes the state, the kinds and the turns of each
kind taken round in order, so that none is passed over for good; an interval of time where none does, and in one turn of 1,024. -/
def State.defaultTurn (s : State) : Turn :=
  if s.turn % 1024 = 1023 then .event .controlInterval
  else ((rotated turnKinds s.turn).findSome? fun k => (rotated (k s) (s.turn / 16)).find? s.moves).getD (.event .controlInterval)

/-- The next turn and the state with it taken off the agenda, or counted. -/
def State.nextTurn (s : State) : Turn × State :=
  match s.agenda with
  | t :: rest => (t, { s with agenda := rest })
  | [] => (s.defaultTurn, { s with turn := s.turn + 1 })

/-- After a turn, what has reached a saved context is in its image, and what has reached an image in its context (12 R259), and a queue
whose EN reads 0 is no longer served (19 R358). -/
def mirrored (s : State) : Host.Outcome State Fault Refusal → Host.Outcome State Fault Refusal
  | .next t => .next (s.syncImages t).watchQueues
  | o => o

/-- One step: the next turn is taken. -/
def State.takeStep (s : State) : Host.Outcome State Fault Refusal := mirrored s.nextTurn.2 (run s.nextTurn.1 s.nextTurn.2)

end Sys2Proof.Machine
end

