-- ==== Sys2Proof/Machine/Step.lean ====
section
/-! DEFINITION. One step of the machine, and a program placed where the next step fetches it. -/

namespace Sys2Proof.Machine

/-- One step of the machine (log 1). -/
def step (s : State) : Host.Outcome State Fault Refusal := s.takeStep

/-- The state with an instruction placed where the next step fetches it (log 7). -/
def State.withFetchWord (s : State) (nbits w : Nat) : State :=
  s.placeWords (tableWords nbits w).1 (tableWords nbits w).2

end Sys2Proof.Machine
end

