-- ==== Sys2Proof/Safety.lean ====
section
/-! DEFINITION. What counts as a safe state and a safe step: every sparse memory is in its canonical form, and a step answers a
next state. Also the terms in which statements speak of the issue of a word: when a word is ready to execute, what it does to the
members that execute it, and what the issue of a word leaves as it was. -/

namespace Sys2Proof.Machine

/-! ## Safe states -/

/-- The canonical form of the memories a context holds. -/
def Ctx.memWf (c : Ctx) : Bool :=
  c.teams.all (fun t => Mem.wf t.2.scratch) && ([c.abuf, c.wbuf, c.cbuf]).all fun i => i.all fun x => Mem.wf x.data && Mem.wf x.exps

/-- The canonical form of the memories a core holds. -/
def Core.memWf (c : Core) : Bool :=
  Mem.wf c.abuf && Mem.wf c.aexp && Mem.wf c.wbuf && Mem.wf c.wexp && Mem.wf c.cbuf

/-- The canonical form of every sparse memory of the package (log 2). -/
def State.memWf (s : State) : Bool :=
  Mem.hbmWf s.pkg.hbm && Mem.wf s.pkg.flash && s.cores.all (fun c => c.2.memWf) && s.ctxs.all (fun c => c.2.memWf)

/-- A step that answers a next state. -/
def safeStep (s : State) : Prop := ∃ t, step s = .next t

/-! ## The issue of a word -/

/-- The issue in progress is that of a group of the core: its site is the group's. -/
def State.sited (s : State) : Bool :=
  (tget (s.core s.site.core).groups s.site.slot).any fun g =>
    s.site == g.site s.site.core s.site.slot s.site.members s.site.w0 && s.site.members.all g.members.contains

/-- A member that executes the word, and to which the word raises none of the traps of 03 R79. -/
def State.executes (s : State) (i : Instr) (m : Nat × Nat) : Bool :=
  (s.member? m).any fun x => x.2.run == .issuing && (wordFault i s.site x.2 x.1.n).isNone

/-- The word can execute: no member has to wait for an operand or a count (01 R17, 03 R70), and none takes a trap of 03 R79. -/
def State.ready (s : State) (i : Instr) : Bool :=
  s.sited && decide s.site.members.Nodup && !(s.stalls i) && s.site.members.all (s.executes i)

/-- The word can execute, and one member executes it. -/
def State.readyOne (s : State) (i : Instr) (m : Nat × Nat) (t : Team) (th : Thread) : Prop :=
  s.ready i = true ∧ s.site.members = [m] ∧ s.member? m = some (t, th)

/-- The key of a member of the issuing group. -/
def State.key (s : State) (m : Nat × Nat) : Key := ⟨s.site.ctx, m.1, m.2⟩

/-- The state with the threads that execute the word changed. -/
def State.onMembers (s : State) (f : Thread → Thread) : State := s.site.members.foldl (fun u m => u.modThread (s.key m) f) s

/-- The state with the issuing context's SATCOUNT raised (02 R40). -/
def State.clamped (s : State) (n : Nat) : State :=
  s.modCtx s.site.ctx fun c => { c with satcount := satAdd c.satcount n }

/-- A thread but for where it stands: its PC, its repeat index, its latches, and whether it is in a group. -/
def Thread.still (th : Thread) : Thread :=
  { th.noLatches with pc := ⟨0, 0⟩, repidx := 0, run := if th.run = .issuing then .runnable else th.run }

/-- The contexts, but for where the threads of the issuing group stand. -/
def State.stood (s : State) : Tab Ctx := (s.mapMembers s.site.ctx s.site.all fun _ _ _ th => th.still).ctxs

/-- `t` is `s` but for where the threads of the issuing group stand and what has become of that group: everything else in the
package is the same. -/
def State.alike (s t : State) : Prop :=
  (∀ g, { t.core g with groups := [] } = { s.core g with groups := [] }) ∧
  (∀ g k, (g, k) ≠ (s.site.core, s.site.slot) → tget (t.core g).groups k = tget (s.core g).groups k) ∧
  t.stood = s.stood ∧ { t with cores := [], ctxs := [] } = { s with cores := [], ctxs := [] }

/-! ## What a word leaves in a thread -/

/-- A 32-bit result: its register, none with NW = 1, and the latch at its position in a clause that has latches (03 R64, R70). -/
def Thread.gotWord (th : Thread) (st : Site) (d : Dst) (v : Word) : Thread :=
  let t := if d.nw then th else th.set (dstReg st.rep th d.r 1) v
  if st.cls.latched then { t with latches := t.latches.setIfInBounds st.latch (.value v) } else t

/-- A 32-bit result that no latch takes. -/
def Thread.gotReg (th : Thread) (st : Site) (d : Dst) (v : Word) : Thread :=
  if d.nw then th else th.set (dstReg st.rep th d.r 1) v

/-- A 64-bit result: the two registers of its pair, none with NW = 1 or for the pair named g0; no latch (01 R13, 03 R64). -/
def Thread.gotPair (th : Thread) (st : Site) (d : Dst) (v : Pair) : Thread :=
  let r := dstReg st.rep th d.r 2
  if d.nw || r == 0 then th else (th.set r (loWord v)).set (r + 1) (hiWord v)

/-- A result of one or two registers with the conditions it met (02 R34, R37). -/
def Thread.gotResult (th : Thread) (st : Site) (d : Dst) (words : Nat) (r : FRes) : Thread :=
  let t := if words = 2 then th.gotPair st d (BitVec.ofNat 64 r.bits) else th.gotWord st d (BitVec.ofNat 32 r.bits)
  { t with flags := t.flags ||| r.flags }

/-- Whether a result is delivered: OVF = 11 turns none of its conditions into a trap, and FPCTL enables none of them (02 R37). -/
def FRes.delivered (r : FRes) (fpctl : Word) : Bool := r.trap.isNone && (fpctl.setWidth 6 &&& r.flags == 0)

/-- Whether the result of every member is delivered. -/
def State.allDelivered (s : State) (f : Thread → FRes) : Bool :=
  s.site.members.all fun m => (s.member? m).all fun x => (f x.2).delivered x.2.view.fpctl

/-- The clamped elements of an issue whose results are all delivered (02 R40). -/
def State.clamps (s : State) (f : Thread → FRes) : Nat :=
  (s.site.members.filterMap fun m => (s.member? m).map fun x => (f x.2).sat).sum

/-! ## Traps -/

/-- The handler that a trap of a thread on a core enters, and whether at supervisor level (12 R270, R272). -/
def State.vector (s : State) (core : Nat) (th : Thread) (cause : Nat) : Pair × Bool :=
  if delegated th.view.trapdlg cause && th.view.trapvec != 0 then (th.view.trapvec, false) else ((s.die (dieOf core)).sysvec, true)

/-- A trap is taken by its handler: the thread runs no handler, and there is one to enter, at an address that meets R130. -/
def State.takes (s : State) (core : Nat) (th : Thread) (cause : Nat) : Bool :=
  !th.inh && (s.vector core th cause).1 != 0 && codeAddr (s.vector core th cause).1

/-- A thread that has entered a handler: its trap registers are written, and its level and its PC are the handler's (12 R270). -/
def Thread.trapped (th : Thread) (cause fwi : Nat) (resume : PC) (einfo : Word) (eaddr : Pair) (vec : Pair × Bool) : Thread :=
  (th.trapRegs cause fwi resume einfo eaddr).enter vec.1 vec.2

/-- Where a trapping word resumes (12 R270): after it for TRAP and BKPT, else where 03 R72 restarts the clause. -/
def State.resumePC (s : State) (i : Instr) (cause : Nat) : PC :=
  if resumesAfter cause then afterWord s.site.h s.site.count s.site.wi (insWords i)
  else resumeAt s.site.cls s.site.h s.site.wi s.site.rep.isSome

/-- `t` is `s` after the trap of one member, as a thread with `th`'s registers and flags, and nothing else. -/
def State.trapsTo (s t : State) (i : Instr) (m : Nat × Nat) (th : Thread) (core cause : Nat) (einfo : Word) (eaddr : Pair) : Prop :=
  let x := th.trapped cause s.site.wi (s.resumePC i cause) einfo eaddr (s.vector core th cause)
  (s.modThread (s.key m) fun _ => x).alike t ∧ t.thread? (s.key m) = some x

end Sys2Proof.Machine
end

