-- ==== Sys2Proof/Certificates/Slice0/Obligations.lean ====
section
/-! DEFINITION. The statements for the provers. The definitions before them say what the spec gives, in its own terms; the statements hold
the model to it. `State.alike` is the frame of the words: everything in the package but where the issuing group stands. -/

namespace Sys2Proof.Machine

/-! ## Values of the integer instructions, as 04 gives them -/

/-- The value of a one-operand and of a two-operand instruction. -/
def val1 (a : Sel) (f : Word → Word) (rep : Option Rep) (th : Thread) : Word := f (rd32 rep th .a a)
def val2 (a b : Sel) (f : Word → Word → Word) (rep : Option Rep) (th : Thread) : Word := f (rd32 rep th .a a) (rd32 rep th .b b)

/-- The one-word operations with two operands (R89, R90), by the opcodes under which IALUI names them (R93). -/
def wordOp (op : Nat) (x y : Word) : Word :=
  match op with
  | 0x02 => x + y
  | 0x03 => x - y
  | 0x04 => (x.setWidth 64 * y.setWidth 64).setWidth 32
  | 0x05 => (x.signExtend 64 * y.signExtend 64).extractLsb' 32 32
  | 0x06 => (x.setWidth 64 * y.setWidth 64).extractLsb' 32 32
  | 0x07 => x &&& y
  | 0x08 => x ||| y
  | 0x09 => x ^^^ y
  | 0x0A => x &&& ~~~y
  | 0x0B => if y.toNat < 32 then x <<< y.toNat else 0
  | 0x0C => if y.toNat < 32 then x >>> y.toNat else 0
  | 0x0D => if y.toNat < 32 then x.sshiftRight y.toNat else if x.msb then 0xFFFFFFFF#32 else 0
  | 0x0E => (x <<< (y.toNat % 32)) ||| (x >>> (32 - y.toNat % 32))
  | 0x0F => if x.slt y then x else y
  | 0x10 => if x.slt y then y else x
  | 0x11 => if x.ult y then x else y
  | 0x12 => if x.ult y then y else x
  | 0x13 => if x.slt y then 1 else 0
  | 0x14 => if x.ult y then 1 else 0
  | 0x15 => if x = y then 1 else 0
  | 0x16 => if x.slt y then y - x else x - y
  | _ => 0

/-- Leading zeros, 1 + the index of the lowest set bit, and set bits of an element of width `w` (R95). -/
def leadingZeros (w e : Nat) : Nat := (((List.range w).reverse.map fun i => e.testBit i).takeWhile (!·)).length
def lowestSet (w e : Nat) : Nat := (((List.range w).find? fun i => e.testBit i).map (· + 1)).getD 0
def setBits (w e : Nat) : Nat := ((List.range w).filter fun i => e.testBit i).length

/-- The mask of BFE and BFI (R96). -/
def fieldMask (pos len : Nat) : Word := BitVec.ofNat 32 ((2 ^ len - 1) * 2 ^ pos)

/-- The instructions of 04 with a 32-bit result and no condition: the destination and the value. -/
def wordValue : Instr → Option (Dst × (Option Rep → Thread → Word))
  | .mov d a => some (d, val1 a id)
  | .add d a b => some (d, val2 a b (wordOp 0x02))
  | .sub d a b => some (d, val2 a b (wordOp 0x03))
  | .mullo d a b => some (d, val2 a b (wordOp 0x04))
  | .mulhi d a b => some (d, val2 a b (wordOp 0x05))
  | .mulhiu d a b => some (d, val2 a b (wordOp 0x06))
  | .and d a b => some (d, val2 a b (wordOp 0x07))
  | .or d a b => some (d, val2 a b (wordOp 0x08))
  | .xor d a b => some (d, val2 a b (wordOp 0x09))
  | .andn d a b => some (d, val2 a b (wordOp 0x0A))
  | .shl d a b => some (d, val2 a b (wordOp 0x0B))
  | .shr d a b => some (d, val2 a b (wordOp 0x0C))
  | .sar d a b => some (d, val2 a b (wordOp 0x0D))
  | .rol d a b => some (d, val2 a b (wordOp 0x0E))
  | .min d a b => some (d, val2 a b (wordOp 0x0F))
  | .max d a b => some (d, val2 a b (wordOp 0x10))
  | .minu d a b => some (d, val2 a b (wordOp 0x11))
  | .maxu d a b => some (d, val2 a b (wordOp 0x12))
  | .slt d a b => some (d, val2 a b (wordOp 0x13))
  | .sltu d a b => some (d, val2 a b (wordOp 0x14))
  | .seq d a b => some (d, val2 a b (wordOp 0x15))
  | .absd d a b => some (d, val2 a b (wordOp 0x16))
  | .clz d a => some (d, val1 a fun x => BitVec.ofNat 32 (leadingZeros 32 x.toNat))
  | .ffs d a => some (d, val1 a fun x => BitVec.ofNat 32 (lowestSet 32 x.toNat))
  | .popc d a => some (d, val1 a fun x => BitVec.ofNat 32 (setBits 32 x.toNat))
  | .brev d a => some (d, val1 a BitVec.reverse)
  | .addi d a imm => some (d, val1 a fun x => x + imm.signExtend 32)
  | .shli d a imm => some (d, val1 a fun x => wordOp 0x0B x (imm.setWidth 32))
  | .shri d a imm => some (d, val1 a fun x => wordOp 0x0C x (imm.setWidth 32))
  | .sari d a imm => some (d, val1 a fun x => wordOp 0x0D x (imm.setWidth 32))
  | .andi d a imm => some (d, val1 a fun x => x &&& imm.setWidth 32)
  | .movi d imm => some (d, fun _ _ => imm)
  | .ialui d a base imm => some (d, val1 a fun x => wordOp base.toNat x imm)
  | .sel d a b c => some (d, fun rep th => if rd32 rep th .c c = 0 then rd32 rep th .b b else rd32 rep th .a a)
  | .bfe d a sx lenm1 pos => some (d, val1 a fun x =>
      let f := (x &&& fieldMask pos.toNat (lenm1.toNat + 1)) >>> pos.toNat
      if sx then (f.setWidth (lenm1.toNat + 1)).signExtend 32 else f)
  | .bfi d a b lenm1 pos => some (d, val2 a b fun x y =>
      let m := fieldMask pos.toNat (lenm1.toNat + 1)
      (y &&& ~~~m) ||| ((x <<< pos.toNat) &&& m))
  | _ => none

/-- The instructions of 04 with a 64-bit result: the destination and the value (R98 to R100). -/
def pairValue : Instr → Option (Dst × (Option Rep → Thread → Pair))
  | .lea d a b => some (d, fun rep th => rd64 rep th .a a + (rd32 rep th .b b).signExtend 64)
  | .leax d a b ix sh imm => some (d, fun rep th =>
      let i := if ix = 0#2 then (rd32 rep th .b b).signExtend 64 else if ix = 1#2 then (rd32 rep th .b b).setWidth 64 else rd64 rep th .b b
      rd64 rep th .a a + (i <<< sh.toNat) + imm.signExtend 64)
  | .mad d a b c w u => if w = 3#2 then some (d, fun rep th =>
      let x := rd32 rep th .a a
      let y := rd32 rep th .b b
      if u then x.setWidth 64 * y.setWidth 64 + rd64 rep th .c c else x.signExtend 64 * y.signExtend 64 + rd64 rep th .c c) else none
  | _ => none

/-! ## Packed and residue instructions, sign operations -/

/-- Element `i` of width `w`, read signed or unsigned (02 R28). -/
def element (u : Bool) (w : Nat) (x : Word) (i : Nat) : Int :=
  let e := x.toNat / 2 ^ (w * i) % 2 ^ w
  if u || decide (e < 2 ^ (w - 1)) then e else (e : Int) - 2 ^ w

/-- A register of elements, each reduced modulo 2^w (02 R28). -/
def ofElements (w : Nat) (f : Nat → Int) : Word :=
  (List.range (32 / w)).foldl (fun acc i => acc ||| BitVec.ofInt 32 (f i % 2 ^ w * 2 ^ (w * i))) 0

/-- The element widths of W (R94, R101). -/
def packWidth (w : BitVec 2) : Nat := if w = 1#2 then 16 else if w = 2#2 then 8 else 32

/-- An element-by-element operation. -/
def elementwise (w : BitVec 2) (u : Bool) (f : Int → Int → Int) (x y : Word) : Word :=
  ofElements (packWidth w) fun i => f (element u (packWidth w) x i) (element u (packWidth w) y i)

/-- A field of an RQ word as it is used: reduced modulo its own modulus (02 R41). -/
def residue (m : Nat) (x : Word) : Nat :=
  (if m = 256 then x.toNat % 256 else if m = 255 then x.toNat / 2 ^ 8 % 256 else x.toNat / 2 ^ 16 % 512) % m

/-- An RQ word from its three channels, bits 31 to 25 zero (R105). -/
def ofResidues (f : Nat → Nat) : Word := BitVec.ofNat 32 (f 257 * 2 ^ 16 + f 255 * 2 ^ 8 + f 256)

/-- The instructions of 04 and 05 with a 32-bit result of parts, and no condition. -/
def partsValue : Instr → Option (Dst × (Option Rep → Thread → Word))
  | .clzw d a w => some (d, val1 a fun x => ofElements (packWidth w) fun i => leadingZeros (packWidth w) (element true (packWidth w) x i).toNat)
  | .ffsw d a w => some (d, val1 a fun x => ofElements (packWidth w) fun i => lowestSet (packWidth w) (element true (packWidth w) x i).toNat)
  | .popcw d a w => some (d, val1 a fun x => ofElements (packWidth w) fun i => setBits (packWidth w) (element true (packWidth w) x i).toNat)
  | .padd d a b w => some (d, val2 a b (elementwise w false fun x y => x + y))
  | .psub d a b w => some (d, val2 a b (elementwise w false fun x y => x - y))
  | .pmin d a b w u => some (d, val2 a b (elementwise w u min))
  | .pmax d a b w u => some (d, val2 a b (elementwise w u max))
  | .pmul d a b w hi u => some (d, val2 a b (elementwise w u fun x y => if hi then x * y / 2 ^ packWidth w else x * y))
  | .pdot4 d a b c _ ub ua => some (d, fun rep th =>
      let p := fun i => element ua 8 (rd32 rep th .a a) i * element ub 8 (rd32 rep th .b b) i
      rd32 rep th .c c + BitVec.ofInt 32 (p 0 + p 1 + p 2 + p 3))
  | .rqadd d a b => some (d, val2 a b fun x y => ofResidues fun m => (residue m x + residue m y) % m)
  | .rqsub d a b => some (d, val2 a b fun x y => ofResidues fun m => (residue m x + (m - residue m y)) % m)
  | .rqmul d a b => some (d, val2 a b fun x y => ofResidues fun m => residue m x * residue m y % m)
  | .rqmad d a b c => some (d, fun rep th => ofResidues fun m =>
      (residue m (rd32 rep th .a a) * residue m (rd32 rep th .b b) + residue m (rd32 rep th .c c)) % m)
  | .rqdec d a => some (d, val1 a fun x =>
      let v := (residue 256 x * 16711425 + residue 255 x * 8421376 + residue 257 x * 8421120) % 16776960
      BitVec.ofInt 32 (if v ≥ 8388480 then (v : Int) - 16776960 else v))
  | .mad d a b c w _ => if w = 3#2 then none else some (d, fun rep th => rd32 rep th .a a * rd32 rep th .b b + rd32 rep th .c c)
  | .fneg d a => some (d, val1 a fun x => x ^^^ 0x80000000#32)
  | .fabs d a => some (d, val1 a fun x => x &&& 0x7FFFFFFF#32)
  | .fclass d a => some (d, val1 a fun x =>
      let e := x.extractLsb' 23 8
      let f := x.extractLsb' 0 23
      let n := x.msb
      1#32 <<< (if e = 255 then (if f = 0 then (if n then 0 else 7) else if x.getLsbD 22 then 8 else 9)
        else if e = 0 then (if f = 0 then (if n then 3 else 4) else if n then 2 else 5) else if n then 1 else 6))
  | _ => none

/-! ## Results that may meet conditions -/

/-- The exact sum, difference or product, rounded once (R110, R111, R115, R117). -/
def addOf (f : Fmt) (rm : BitVec 3) (ovf : BitVec 2) (x y : Nat) : FRes := f.deliver rm ovf 0x076 (addV rm (f.value x) (f.value y))
def subOf (f : Fmt) (rm : BitVec 3) (ovf : BitVec 2) (x y : Nat) : FRes := f.deliver rm ovf 0x076 (addV rm (f.value x) (f.value y).neg)
def mulOf (f : Fmt) (rm : BitVec 3) (ovf : BitVec 2) (x y : Nat) : FRes := f.deliver rm ovf 0x076 (mulV (f.value x) (f.value y))
/-- The exact a × b + c, rounded once (R116). -/
def fmaOf (f : Fmt) (rm : BitVec 3) (ovf : BitVec 2) (x y z : Nat) : FRes :=
  f.deliver rm ovf 0x076 (fmaV rm (f.value x) (f.value y) (f.value z))

/-- The compares (R113): less, less or equal, equal, unordered. -/
def lessOf (f : Fmt) (x y : Nat) : FRes :=
  if (f.value x).isNan || (f.value y).isNan then .iv 0 else .ok ((f.value x).lt (f.value y)).toNat
def lessEqOf (f : Fmt) (x y : Nat) : FRes :=
  if (f.value x).isNan || (f.value y).isNan then .iv 0 else .ok ((f.value x).lt (f.value y) || (f.value x).eq (f.value y)).toNat
def equalOf (f : Fmt) (x y : Nat) : FRes := .ok ((f.value x).eq (f.value y)).toNat
def unorderedOf (f : Fmt) (x y : Nat) : FRes := .ok ((f.value x).isNan || (f.value y).isNan).toNat

/-- The one-word F32 operations by their opcodes (R111 to R113), rounded with RNE and OVF = 01 (02 R33). -/
def floatOp (op : Nat) (x y : Word) : FRes :=
  match op with
  | 0x30 => addOf f32 0 1 x.toNat y.toNat
  | 0x31 => subOf f32 0 1 x.toNat y.toNat
  | 0x32 => mulOf f32 0 1 x.toNat y.toNat
  | 0x33 => .ok (f32.minMax false x.toNat y.toNat)
  | 0x34 => .ok (f32.minMax true x.toNat y.toNat)
  | 0x35 => lessOf f32 x.toNat y.toNat
  | 0x36 => lessEqOf f32 x.toNat y.toNat
  | 0x37 => equalOf f32 x.toNat y.toNat
  | _ => unorderedOf f32 x.toNat y.toNat

/-- FOPR's and HOPR's operations of the arithmetic kind, by number. -/
def arithOf (f : Fmt) (op : Nat) (rm : BitVec 3) (ovf : BitVec 2) (x y : Nat) : FRes :=
  match op with
  | 0 => addOf f rm ovf x y
  | 1 => subOf f rm ovf x y
  | _ => mulOf f rm ovf x y

/-- An operation on both halves of packed registers: values at their places, flags by OR, clamps by sum, any trap (R118). -/
def bothHalves (one : Nat → FRes) : FRes :=
  { bits := (one 0).bits % 2 ^ 16 + 2 ^ 16 * ((one 1).bits % 2 ^ 16), flags := (one 0).flags ||| (one 1).flags
    sat := (one 0).sat + (one 1).sat, trap := (one 0).trap.or (one 1).trap }

/-- A result for two operands of one register, and for two of a width in registers. -/
def cond2 (a b : Sel) (f : Word → Word → FRes) (rep : Option Rep) (th : Thread) : FRes := f (rd32 rep th .a a) (rd32 rep th .b b)
def condW (a : Sel) (words : Nat) (f : Nat → FRes) (rep : Option Rep) (th : Thread) : FRes := f (rdW rep th .a a words).toNat
def cond64 (a b : Sel) (f : Nat → Nat → FRes) (rep : Option Rep) (th : Thread) : FRes :=
  f (rd64 rep th .a a).toNat (rd64 rep th .b b).toNat

/-- Registers of a float and of an integer type code (R104, R119). -/
def floatRegs (c : BitVec 4) : Nat := if c = 3#4 then 2 else 1
def intRegs (c : BitVec 4) : Nat := if c = 3#4 ∨ c = 7#4 then 2 else 1

/-- The instructions of classes ALU whose results may meet conditions: destination, its registers, and the result. -/
def condValue : Instr → Option (Dst × Nat × (Option Rep → Thread → FRes))
  | .fadd d a b => some (d, 1, cond2 a b (floatOp 0x30))
  | .fsub d a b => some (d, 1, cond2 a b (floatOp 0x31))
  | .fmul d a b => some (d, 1, cond2 a b (floatOp 0x32))
  | .fmin d a b => some (d, 1, cond2 a b (floatOp 0x33))
  | .fmax d a b => some (d, 1, cond2 a b (floatOp 0x34))
  | .fslt d a b => some (d, 1, cond2 a b (floatOp 0x35))
  | .fsle d a b => some (d, 1, cond2 a b (floatOp 0x36))
  | .fseq d a b => some (d, 1, cond2 a b (floatOp 0x37))
  | .fsun d a b => some (d, 1, cond2 a b (floatOp 0x38))
  | .falui d a base imm => some (d, 1, fun rep th => floatOp base.toNat (rd32 rep th .a a) imm)
  | .fopr d a b c rm ovf => some (d, 1, cond2 a b fun x y => arithOf f32 (c.toNat - 0x30) rm ovf x.toNat y.toNat)
  | .ffma d a b c rm ovf => some (d, 1, fun rep th =>
      fmaOf f32 rm ovf (rd32 rep th .a a).toNat (rd32 rep th .b b).toNat (rd32 rep th .c c).toNat)
  | .dadd d a b rm ovf => some (d, 2, cond64 a b (addOf f64 rm ovf))
  | .dsub d a b rm ovf => some (d, 2, cond64 a b (subOf f64 rm ovf))
  | .dmul d a b rm ovf => some (d, 2, cond64 a b (mulOf f64 rm ovf))
  | .dfma d a b c rm ovf => some (d, 2, fun rep th =>
      fmaOf f64 rm ovf (rd64 rep th .a a).toNat (rd64 rep th .b b).toNat (rd64 rep th .c c).toNat)
  | .dcmp d a b c => some (d, 1, cond64 a b (if c = 0 then lessOf f64 else if c = 1 then lessEqOf f64 else if c = 2 then equalOf f64
      else unorderedOf f64))
  | .hadd2 d a b => some (d, 1, cond2 a b fun x y => bothHalves fun i => addOf bf16 0 1 (elem 16 x i) (elem 16 y i))
  | .hmul2 d a b => some (d, 1, cond2 a b fun x y => bothHalves fun i => mulOf bf16 0 1 (elem 16 x i) (elem 16 y i))
  | .hopr d a b c rm ovf f => some (d, 1, cond2 a b fun x y => bothHalves fun i =>
      if c.toNat < 3 then arithOf (if f then f16 else bf16) c.toNat rm ovf (elem 16 x i) (elem 16 y i)
      else .ok ((if f then f16 else bf16).minMax (c == 4) (elem 16 x i) (elem 16 y i)))
  | .hfma2 d a b c rm ovf f => some (d, 1, fun rep th => bothHalves fun i => fmaOf (if f then f16 else bf16) rm ovf
      (elem 16 (rd32 rep th .a a) i) (elem 16 (rd32 rep th .b b) i) (elem 16 (rd32 rep th .c c) i))
  | .frnd d a rm w => some (d, if w = 3#2 then 2 else 1, condW a (if w = 3#2 then 2 else 1) fun x =>
      .ok ((if w = 3#2 then f64 else f32).integral rm x))
  | .fcvt d a dt st rm ovf hi => some (d, floatRegs dt, condW a (floatRegs st) fun x =>
      convert (fltCode st) (fltCode dt) rm ovf (fltSrc st hi x))
  | .ftoi d a dt st rm ovf hi => some (d, intRegs dt, condW a (floatRegs st) fun x =>
      toInt rm ovf (intCode dt).2 (intCode dt).1 (intOut dt) ((fltCode st).value (fltSrc st hi x)))
  | .itof d a dt st rm ovf => some (d, floatRegs dt, condW a (intRegs st) fun x => fromInt (fltCode dt) rm ovf (cvtiSrc st x))
  | .padds d a b w ovf u => some (d, 1, cond2 a b (packedSat (packWidth w) (fun x y => x + y) u ovf))
  | .psubs d a b w ovf u => some (d, 1, cond2 a b (packedSat (packWidth w) (fun x y => x - y) u ovf))
  | .rqenc d a ovf => some (d, 1, fun rep th => rqEnc ovf (rd32 rep th .a a).toInt)
  | .cvti d a dt st ovf => some (d, intRegs dt, condW a (intRegs st) fun x =>
      narrow (intLo (intCode dt).2 (intCode dt).1) (intHi (intCode dt).2 (intCode dt).1) (intOut dt) ovf 0x080 (cvtiSrc st x))
  | _ => none

/-! ## Transfers, barriers, yield, exit, repeat and futures, as 06 gives them -/

/-- The condition of BR (R131). -/
def branchTaken (cond : BitVec 3) (x y : Word) : Bool :=
  if cond = 0 then x == y else if cond = 1 then x != y else if cond = 2 then x.slt y else if cond = 3 then !(x.slt y)
  else if cond = 4 then x.ult y else if cond = 5 then !(x.ult y) else true

/-- The address that a transfer goes to, none where it falls through (R131 to R135). -/
def transferTo (st : Site) (th : Thread) : Instr → Option Pair
  | .br cond a b disp => if branchTaken cond (rd32 st.rep th .a a) (rd32 st.rep th .b b) then some (va56 st.h + 4 * disp.signExtend 64) else none
  | .call _ disp => some (va56 st.h + 4 * disp.signExtend 64)
  | .brx a => some (rd64 st.rep th .a a)
  | .callx _ a => some (rd64 st.rep th .a a)
  | .ret a => some (rd64 st.rep th .a a)
  | _ => none

/-- The header after the clause in progress. -/
def Site.following (st : Site) : BitVec 56 := st.h + BitVec.ofNat 56 (4 * (st.count + 1))

/-- The thread with the return address of a call in its link (R132). -/
def Thread.linked (th : Thread) (st : Site) : Instr → Thread
  | .call d _ => th.gotPair st d (va56 st.following)
  | .callx d _ => th.gotPair st d (va56 st.following)
  | _ => th

/-- Another live thread of the team is EXPECTED on a barrier (R137). -/
def Team.expectsOther (t : Team) (tid b : Nat) : Bool :=
  t.threads.any fun e => e.1 != tid && e.2.run != .ended && e.2.bar b == .expected

/-- Every thread of a team that waits at a barrier is released: NONE, and at the word after its JWAIT (R137). -/
def State.opened (s : State) (c k b : Nat) : State := s.modTeam c k fun t => { t with threads := tmap t.threads fun _ th =>
  match th.run with
  | .waiting (.barrier b' after _) => if b' = b ∧ th.bar b = .arrived then { th.setBar b .none with pc := after, run := .runnable } else th
  | _ => th }

/-- A thread's QPOP requests withdrawn, but for those to which an entry has been assigned (19 R366). -/
def State.dropRequests (s : State) (k : Key) : State := { s with qreqs := s.qreqs.filter fun r => r.key != k || r.got.isSome }

/-- The barriers on which some live thread of a team has a state, as a mask (06 R139). -/
def barriersIn (ts : Tab Thread) (b : Bar) : Nat :=
  ((List.range 16).map fun k => if ts.any fun e => e.2.run != .ended && e.2.bar k == b then 2 ^ k else 0).sum

/-- The barrier after its release test. -/
def State.tested (s : State) (c : Nat) (m : Nat × Nat) (t : Team) (b : Nat) : State :=
  if t.expectsOther m.2 b then s else s.opened c m.1 b

/-- A thread of `t` stands at a PC. -/
def State.stands (t : State) (k : Key) (pc : PC) : Prop := ∃ x, t.thread? k = some x ∧ x.pc = pc

/-- Where a word without a transfer leaves a member that goes on (R129): at the next word of its clause, or past the last one at the
header that follows, with word index 0. -/
def Site.past (st : Site) (i : Instr) : PC :=
  if st.count < st.wi + (encode i).length then ⟨st.following, 0⟩ else ⟨st.h, st.wi + (encode i).length⟩

/-- The members of the issuing group that do not execute the word stand past it, or do not stand in the group's way. -/
def State.inLine (s : State) (i : Instr) : Prop :=
  ∃ g, tget (s.core s.site.core).groups s.site.slot = some g ∧
    ∀ n ∈ g.members, n ∉ s.site.members → ∀ th, s.thread? (s.key n) = some th → th.pc = s.site.past i

/-- `v` is `u` but for where the issuing group stands; and each member that executed the word stands past it, with the latches that `u`
has while the clause goes on (R70, R129), or, in a REP of which it has repeats left to do, at the REP word with REPIDX one more, and
after its last repeat past the target with REPIDX 0 (R16, R142). -/
def State.leads (u : State) (i : Instr) (v : State) : Prop :=
  u.alike v ∧ (u.inLine i → ∀ m ∈ u.site.members, ∀ th, u.thread? (u.key m) = some th →
    ∃ x, v.thread? (u.key m) = some x ∧ match u.site.rep with
      | none => x.pc = u.site.past i ∧ (u.site.wi + (encode i).length ≤ u.site.count → x.latches = th.latches)
      | some r => if th.repidx.toNat + 1 < r.n then x.pc = ⟨u.site.h, 1⟩ ∧ x.repidx = th.repidx + 1
          else x.pc = u.site.past i ∧ x.repidx = 0)

/-- The group of the issue, as `t` has it. -/
def State.groupOf (s t : State) : Option Group := tget (t.core s.site.core).groups s.site.slot

/-! ## System registers, flags, special functions and cross-lane words -/

/-- Word `k` of a fault-log entry, 0 where the log is empty (R267, R279). -/
def flogWord (l : List FlogEntry) (k : Nat) : Word :=
  match l with
  | [] => 0
  | e :: _ => ([e.handle, e.word, BitVec.ofNat 32 (e.tid % 1024 + e.wi % 16 * 1024), loWord e.h, hiWord e.h] : List Word).getD k 0

/-- SATCOUNT as a thread reads it: one that another thread has written counts on, until its next clause start, from the value before
(R268). -/
def countSeen (th : Thread) (c : Ctx) : Word :=
  match th.satOld with
  | none => c.satcount
  | some (old, new) => BitVec.ofNat 32 (min (old.toNat + (c.satcount - new).toNat) 0xFFFFFFFF)

/-- What a thread reads from each system register (R267, R269, R278, R279): of SATCOUNT and MATNANPOS.VALID what it sees until its next
clause start where another thread has written them (R268). -/
def sysValues (s : State) (m : Nat × Nat) (t : Team) (th : Thread) (c : Ctx) : List (Nat × Word) :=
  [(0x00, BitVec.ofNat 32 m.2), (0x01, BitVec.ofNat 32 t.index), (0x02, BitVec.ofNat 32 t.rank), (0x03, BitVec.ofNat 32 c.core),
   (0x04, BitVec.ofNat 32 m.1), (0x05, BitVec.ofNat 32 c.asid), (0x06, s.pkg.deviceId.setWidth 32),
   (0x07, BitVec.ofNat 32 (c.core / 96 * 256 + c.core % 96)),
   (0x10, th.view.fpctl), (0x11, countSeen th c), (0x12, th.view.matctl), (0x13, if th.nanOld then c.matnanpos ||| 0x80000000 else c.matnanpos),
   (0x14, loWord th.view.trapvec), (0x15, hiWord th.view.trapvec), (0x16, th.view.trapdlg), (0x17, th.view.dbgctl),
   (0x20, th.estat), (0x21, th.einfo), (0x22, loWord th.epc), (0x23, hiWord th.epc), (0x24, loWord th.eaddr), (0x25, hiWord th.eaddr),
   (0x26, th.esave0), (0x27, th.esave1), (0x30, BitVec.ofNat 32 (t.ovfcnt * 65536 + t.flog.length)),
   (0x100, loWord (s.die (c.core / 96)).sysvec), (0x101, hiWord (s.die (c.core / 96)).sysvec)] ++
  (List.range 8).map fun k => (0x31 + k, flogWord t.flog k)

/-- The registers that only supervisor level reaches (R267). -/
def supervisorOnly (n : Nat) : Bool := [0x07, 0x16, 0x17, 0x100, 0x101, 0x102].contains n

/-- A write to a context register: the context holds it, and the writer obeys it from its next word (R268). -/
def State.toCtx (s : State) (k : Key) (f : CtxRegs → CtxRegs) : State :=
  (s.modCtx k.ctx fun c => { c with regs := f c.regs }).modThread k fun th => { th with view := f th.view }

/-- Every thread of the writer's context changed, each told whether it is the writer. -/
def State.toEach (s : State) (k : Key) (f : Ctx → Bool → Thread → Thread) : State := s.modCtx k.ctx fun c => { c with
  teams := tmap c.teams fun ts t => { t with threads := tmap t.threads fun tid th => f c (ts == k.tslot && tid == k.tid) th } }

/-- What a write of `v` does to each system register that takes writes (R7, R267, R268, R269, R278, and R37, R40, R245, R247, R272,
R276 for the registers they give); a write to any other register does nothing. -/
def sysEffect (s : State) (n : Nat) (k : Key) (core : Nat) (v : Word) : State :=
  if n = 0x10 then s.toCtx k fun r => { r with fpctl := v &&& 0x3F }
  else if n = 0x11 then
    (s.toEach k fun c me th => { th with satOld := if me then none else some (countSeen th c, v) }).modCtx k.ctx fun c => { c with satcount := v }
  else if n = 0x12 then s.toCtx k fun r => { r with matctl := v &&& 1 }
  else if n = 0x13 then (if v.msb = false then s else
    (s.toEach k fun c me th => { th with nanOld := !me && (th.nanOld || c.matnanpos.msb) }).modCtx k.ctx
      fun c => { c with matnanpos := c.matnanpos &&& 0x7FFFFFFF })
  else if n = 0x14 then s.toCtx k fun r => { r with trapvec := pairOf v (hiWord r.trapvec) }
  else if n = 0x15 then s.toCtx k fun r => { r with trapvec := pairOf (loWord r.trapvec) v }
  else if n = 0x16 then s.toCtx k fun r => { r with trapdlg := v &&& 0x000EFFF7 }
  else if n = 0x17 then s.toCtx k fun r => { r with dbgctl := v &&& 3 }
  else if n = 0x20 then s.modThread k fun t => { t with estat := (t.estat &&& 0xFFFC3FFF) ||| (v &&& 0x0003C000) }
  else if n = 0x21 then s.modThread k fun t => { t with einfo := v }
  else if n = 0x22 then s.modThread k fun t => { t with epc := pairOf v (hiWord t.epc) }
  else if n = 0x23 then s.modThread k fun t => { t with epc := pairOf (loWord t.epc) v }
  else if n = 0x26 then s.modThread k fun t => { t with esave0 := v }
  else if n = 0x27 then s.modThread k fun t => { t with esave1 := v }
  else if n = 0x30 then s.modTeam k.ctx k.tslot fun t => { t with ovfcnt := v.toNat / 65536 }
  else if n = 0x100 then s.modDie (core / 96) fun d => { d with sysvec := pairOf v (hiWord d.sysvec) }
  else if n = 0x101 then s.modDie (core / 96) fun d => { d with sysvec := pairOf (loWord d.sysvec) v }
  else s

/-- The flag word that FLAGS reads at a scope (R124). -/
def flagsAt (s : State) (sc : Nat) (t : Team) (th : Thread) : BitVec 6 :=
  if sc = 0 then th.flags
  else if sc = 1 then s.site.all.foldl (fun f m => f ||| ((s.member? m).elim 0 fun x => x.2.flags)) 0
  else t.threads.foldl (fun f e => f ||| e.2.flags) t.endFlags

/-- The SFU instructions: destination, registers and result (R120, R121); `Config.special` holds what R121 leaves open (log 5). -/
def sfuValue : Instr → Option (Dst × Nat × (Option Rep → Thread → FRes))
  | .frcp d a => some (d, 1, fun rep th => specialFn Config.special 0 (rd32 rep th .a a))
  | .frsq d a => some (d, 1, fun rep th => specialFn Config.special 1 (rd32 rep th .a a))
  | .fex2 d a => some (d, 1, fun rep th => specialFn Config.special 2 (rd32 rep th .a a))
  | .flg2 d a => some (d, 1, fun rep th => specialFn Config.special 3 (rd32 rep th .a a))
  | .fsin d a => some (d, 1, fun rep th => specialFn Config.special 4 (rd32 rep th .a a))
  | .fcos d a => some (d, 1, fun rep th => specialFn Config.special 5 (rd32 rep th .a a))
  | .fdiv d a b rm w ovf => some (d, if w = 3#2 then 2 else 1, fun rep th => (if w = 3#2 then f64 else f32).quotient rm ovf
      (rdW rep th .a a (if w = 3#2 then 2 else 1)).toNat (rdW rep th .b b (if w = 3#2 then 2 else 1)).toNat)
  | .fsqrt d a rm w ovf => some (d, if w = 3#2 then 2 else 1, fun rep th => (if w = 3#2 then f64 else f32).root rm ovf
      (rdW rep th .a a (if w = 3#2 then 2 else 1)).toNat)
  | _ => none

/-- A result that is on its way: registers, latch, kind of count, conditions and clamps. -/
def State.onItsWay (s : State) (m : Nat × Nat) (d : Dst) (words v : Nat) (flags : BitVec 6) (sat : Nat) : State :=
  match s.member? m with
  | none => s
  | some x =>
    let r := dstReg s.site.rep x.2 d.r words
    s.defer
      { key := s.key m
        regs := if d.nw then [] else if words = 2 then (if r = 0 then [] else [(r, BitVec.ofNat 32 v), (r + 1, BitVec.ofNat 32 (v / 2 ^ 32))])
          else [(r, BitVec.ofNat 32 v)]
        latch := if s.site.cls.latched && words == 1 then some ((s.site.wi - 1) % 4) else none
        latchVal := BitVec.ofNat 32 v, kind := some 7, flags, sat }

/-- The operands of the members, in position order: team slot, TID, a and b. -/
def State.votes (s : State) (a b : Sel) : List (Nat × Nat × Word × Word) :=
  s.site.members.filterMap fun m => (s.member? m).map fun x => (m.1, m.2, rd32 s.site.rep x.2 .a a, rd32 s.site.rep x.2 .b b)

/-- The cross-lane instructions with no condition: destination, operands, and the result at a position (R207, R208). -/
def laneValue : Instr → Option (Dst × Sel × Sel × (List (Nat × Nat × Word × Word) → Nat → Word))
  | .ballot d a => some (d, a, a, fun l _ => BitVec.ofNat 32 (((List.range l.length).map fun q =>
      if (l[q]?).any fun x => x.2.2.1 != 0 then 2 ^ q else 0).sum))
  | .any d a => some (d, a, a, fun l _ => if l.any fun x => x.2.2.1 != 0 then 1 else 0)
  | .all d a => some (d, a, a, fun l _ => if l.all fun x => x.2.2.1 != 0 then 1 else 0)
  | .gpos d => some (d, 0, 0, fun _ p => BitVec.ofNat 32 p)
  | .gsize d => some (d, 0, 0, fun l _ => BitVec.ofNat 32 l.length)
  | .member d a => some (d, a, a, fun l p => (l[p]?).elim 0 fun me => (l[me.2.2.1.toNat]?).elim 0xFFFFFFFF fun x =>
      BitVec.ofNat 32 (x.2.1 + if x.1 = me.1 then 0 else 65536))
  | .shfl d a b mode seg => some (d, a, b, fun l p => (l[p]?).elim 0 fun me =>
      let n := 2 ^ seg.toNat
      let base := p - p % n
      let u := me.2.2.2.toNat
      let j := if mode = 0 then base + u % n else if mode = 1 then (if u ≤ p - base then p - u else p)
        else if mode = 2 then (if u < base + n - p then p + u else p) else base + ((p - base) ^^^ (u % n))
      (l[j]?).elim me.2.2.1 fun x => x.2.2.1)
  | _ => none

/-! ## Memory and scratch words -/

/-- The register writes of a value of one, two or four words; none without a destination (R157, R158, R218). -/
def valueRegs (r : Option Nat) (words : Nat) (v : Nat) : List (Nat × Word) :=
  match r with
  | none => []
  | some r => if words = 2 ∧ r = 0 then [] else (List.range words).map fun j => (r + j, BitVec.ofNat 32 (v / 2 ^ (32 * j)))

/-- A loaded value of `n` bytes as its registers receive it: narrow ones zero- or sign-extended to 32 bits (R158, R218). -/
def extended (n : Nat) (sx : Bool) (v : Nat) : Nat :=
  if n < 4 ∧ sx = true ∧ 2 ^ (8 * n - 1) ≤ v then v + 2 ^ 32 - 2 ^ (8 * n) else v

/-- Registers of a width in bytes. -/
def bytesWords (n : Nat) : Nat := if n = 16 then 4 else if n = 8 then 2 else 1

/-- The register that a destination names, none with NW = 1. -/
def dstOf (st : Site) (th : Thread) (d : Dst) (words : Nat) : Option Nat := if d.nw then none else some (dstReg st.rep th d.r words)

/-- A value of `n` bytes on its way to a member's destination, counted in a kind (01 R17). -/
def State.delivering (s : State) (m : Nat × Nat) (th : Thread) (d : Dst) (n v kind : Nat) : State :=
  s.defer { key := s.key m, regs := valueRegs (dstOf s.site th d (bytesWords n)) (bytesWords n) v
            latch := none, latchVal := 0, kind := some kind, flags := 0, sat := 0 }

/-- An operation in flight but for the contents of the buffers that a matrix operation may still use or show (11 R255). -/
def EngOp.unnoted (o : EngOp) : EngOp :=
  match o.work with
  | .mat m => { o with work := .mat { m with was := [], wrote := [], before := [] } }
  | _ => o

/-- Whether a matrix operation of a context is in flight. -/
def State.matUnder (s : State) (ctx : Nat) : Prop := ∃ e ∈ s.ops, e.2.key.ctx = ctx ∧ ∃ m, e.2.work = .mat m

/-- Widths of W. -/
def widthOf (w : BitVec 2) : Nat := if w = 0 then 4 else if w = 1 then 2 else if w = 2 then 1 else 8

/-- Global loads: destination, effective address, width, sign extension, sideband (R157, R158). -/
def loadForm : Instr → Option (Dst × (Option Rep → Thread → Pair) × Nat × Bool × Bool)
  | .ldg d a off => some (d, fun rep th => rd64 rep th .a a + 4 * off.signExtend 64, 4, false, false)
  | .ldgx d a b scl _ xs sx w imm =>
    some (d, fun rep th => rd64 rep th .a a + ((rd32 rep th .b b).signExtend 64 <<< scl.toNat) + imm.signExtend 64, widthOf w, sx, xs)
  | _ => none

/-- Global stores: data register, effective address, width, sideband. -/
def storeForm : Instr → Option (BitVec 7 × (Option Rep → Thread → Pair) × Nat × Bool)
  | .stg rs a off => some (rs, fun rep th => rd64 rep th .a a + 4 * off.signExtend 64, 4, false)
  | .stgx rs a b scl _ xs w imm =>
    some (rs, fun rep th => rd64 rep th .a a + ((rd32 rep th .b b).signExtend 64 <<< scl.toNat) + imm.signExtend 64, widthOf w, xs)
  | _ => none

/-- The data of a store. -/
def storeData (st : Site) (th : Thread) (rs : BitVec 7) (words : Nat) : Nat :=
  let r := dstReg st.rep th rs words
  ((List.range words).map fun j => if words = 2 ∧ r = 0 then 0 else (th.get (r + j)).toNat * 2 ^ (32 * j)).sum

/-- A thread's access to `n` bytes at a global address may begin, and reaches an address (R152, R166, R176). -/
def State.reaches (s : State) (m : Nat × Nat) (ea : Pair) (n : Nat) (acc : Acc) (pa : Pair) (u : State) : Prop :=
  s.mustHold (s.key m) ea = false ∧ canonical ea = true ∧ ea.toNat % n = 0 ∧ s.threadTr (s.key m) ea acc = (.inl pa, u)

/-- An address of this package that memory backs. -/
def State.backed (s : State) (pa : Pair) : Bool := s.isLocal pa && inHbm (localOf pa)

/-- The old value's place and the new value of an atomic (R162 to R164): operation 0 to 11 of ATOM, else CAS. -/
def atomResult (op n : Nat) (old b c : Nat) : Nat :=
  let w := 2 ^ (8 * n)
  let neg := fun x : Nat => decide (w / 2 ≤ x)
  let less := fun x y : Nat => if neg x = neg y then decide (x < y) else neg x
  if op = 0 then old else if op = 1 ∨ op = 2 then b else if op = 3 then (old + b) % w else if op = 4 then old &&& b
  else if op = 5 then old ||| b else if op = 6 then old ^^^ b else if op = 7 then (if less b old then b else old)
  else if op = 8 then (if less old b then b else old) else if op = 9 then min old b else if op = 10 then max old b
  else if op = 11 then addF32 old b % w else if old = b then c else old

/-- Atomics: destination if it has one, address, operation, width, scope, order, and the operands b and c. -/
def atomForm : Instr → Option (Option Dst × (Option Rep → Thread → Pair) × Nat × Nat × BitVec 3 × BitVec 2 × (Option Rep → Thread → Pair × Pair))
  | .atom d a b op w scope ord imm => some (if op = 1 then none else some d, fun rep th => rd64 rep th .a a + imm.signExtend 64, op.toNat,
      widthOf w, scope, ord, fun rep th => (rdW rep th .b b (bytesWords (widthOf w)), 0))
  | .cas d a b c w scope ord imm => some (some d, fun rep th => rd64 rep th .a a + imm.signExtend 64, 12, widthOf w, scope, ord,
      fun rep th => (rdW rep th .b b (bytesWords (widthOf w)), rdW rep th .c c (bytesWords (widthOf w))))
  | _ => none

/-- Scratch loads of their own team's scratch and of a peer's: destination, offset, width, sign extension, mode, peer (R217, R218). -/
def scrLoadForm : Instr → Option (Dst × (Option Rep → Thread → Word) × Nat × Bool × BitVec 2 × Option Nat)
  | .lds d a mode off => some (d, fun rep th => rd32 rep th .a a + 4 * off.signExtend 32, 4, false, mode, none)
  | .ldsx d a b p rank mode sx w qw imm => some (d, fun rep th => rd32 rep th .a a + rd32 rep th .b b + imm.signExtend 32,
      if qw = 1 then 16 else widthOf w, sx, mode, if p then some rank.toNat else none)
  | _ => none

/-- Scratch stores: data register, offset, width, whether they fill, peer. -/
def scrStoreForm : Instr → Option (BitVec 7 × (Option Rep → Thread → Word) × Nat × Bool × Option Nat)
  | .sts rs fill a off => some (rs, fun rep th => rd32 rep th .a a + 4 * off.signExtend 32, 4, fill, none)
  | .stsx rs a b p rank mode w qw imm => some (rs, fun rep th => rd32 rep th .a a + rd32 rep th .b b + imm.signExtend 32,
      if qw = 1 then 16 else widthOf w, mode == 1, if p then some rank.toNat else none)
  | _ => none

/-- The team whose scratch an access names: the thread's own, or the live team of a rank in its cluster (R214, 14 R293). -/
def State.scratchOf (s : State) (m : Nat × Nat) (t : Team) (peer : Option Nat) (c k : Nat) (x : Team) : Prop :=
  s.team? c k = some x ∧ match peer with
    | none => (c, k) = (s.site.ctx, m.1)
    | some r => x.launch = t.launch ∧ x.cluster = t.cluster ∧ x.rank = r ∧ x.live ≠ [] ∧
        ∀ e ∈ s.ctxs, ∀ y ∈ e.2.teams, y.2.launch = t.launch → y.2.cluster = t.cluster → y.2.rank = r → y.2.live ≠ [] → (e.1, y.1) = (c, k)

/-- The quad of registers that a 16-byte store reads, or the data of a narrower one. -/
def scrStoreData (st : Site) (th : Thread) (rs : BitVec 7) (n : Nat) : Nat :=
  if n = 16 then ((List.range 4).map fun j => (th.get (dstReg st.rep th rs 4 + j)).toNat * 2 ^ (32 * j)).sum
  else storeData st th rs (bytesWords n)

/-- No later access of a thread has to wait for an acquiring atomic, nor, for a release, for its loads and atomics (07 R166, 08 R179). -/
def State.free (s : State) (m : Nat × Nat) (release : Bool) : Bool :=
  !s.acquiring (s.key m) && !(release && s.inFlight (s.key m))

/-! ## Engine words and queues -/

/-- What an engine word hands to its engine: destination, SCOPE, KIND of its handle, the counts it raises, its operands as its engine
holds them, and the completion word where that is known at once. -/
structure EngineForm where
  dst : Dst
  scope : BitVec 3
  kind : BitVec 4
  counts : List Nat
  work : Work
  result : Option Word

/-- An address of COPY in a space: a pair for global memory, else one register or constant (R228). -/
def copyAddr (rep : Option Rep) (th : Thread) (f : Fld) (space : BitVec 3) (sel : Sel) : Pair :=
  if space = 0 then rd64 rep th f sel else (rd32 rep th f sel).setWidth 64

/-- An L2 operation (R299): element width, base pair, scratch offsets of data and indices, their number, and how they are read. -/
def l2Work (rep : Option Rep) (th : Thread) (kind : L2Kind) (a b c : Sel) (w ops : BitVec 2) (ft sx : Bool) (base : BitVec 7) : Work :=
  .l2 { kind, width := widthOf w, base := th.pair (base.toNat + stepOf rep th.repidx .base 2), data := (rd32 rep th .a a).toNat
        idx := (rd32 rep th .b b).toNat, k := (rd32 rep th .c c).toNat, sx, ops, ft, checked := false, next := 0, sent := [], got := []
        delivered := 0, stopWord := none }

/-- The words that start an operation for each member and touch nothing else (R228, R299, R314, R315, R336, R337, R369): those that
their operands do not stop. -/
def engineForm (s : State) (m : Nat × Nat) (t : Team) (th : Thread) : Instr → Option EngineForm
  | .copy d a b c rm w ovf scope mode dsp ssp pfmt =>
    let typed := dsp = 2 ∨ dsp = 3 ∨ ssp = 2 ∨ ssp = 4
    let global := dsp = 0 ∨ ssp = 0
    some ⟨d, scope, 1, if typed then (if global then [5, 1] else [5]) else if global then [1] else [3],
      .copy { mode, dsp, ssp, w, rm, ovf, pfmt, dst := copyAddr s.site.rep th .a dsp a, src := copyAddr s.site.rep th .b ssp b
              len := (rd32 s.site.rep th .c c).toNat, done := 0, out := 0, inp := 0, sat := 0, checked := false, old := [] }, none⟩
  | .gather d a b c w scope sx base => if 65536 < (rd32 s.site.rep th .c c).toNat then none else
    some ⟨d, scope, 3, [0], l2Work s.site.rep th .gather a b c w 0 false sx base, none⟩
  | .scatter d a b c w scope sx base => if 65536 < (rd32 s.site.rep th .c c).toNat then none else
    some ⟨d, scope, 3, [1], l2Work s.site.rep th .scatter a b c w 0 false sx base, none⟩
  | .scadd d a b c w scope ops ft sx base => if 65536 < (rd32 s.site.rep th .c c).toNat then none else
    some ⟨d, scope, 3, [1], l2Work s.site.rep th .scadd a b c w ops ft sx base, none⟩
  | .unstand d b imm => some ⟨d, 1, 4, [0], .stand ⟨.unstand, 0, (rd32 s.site.rep th .b b + imm.signExtend 32).toNat, false, 0⟩, none⟩
  | .substat d b clr imm => some ⟨d, 1, 4, [0], .stand ⟨.substat, 0, (rd32 s.site.rep th .b b + imm.signExtend 32).toNat, clr == 1, 0⟩, none⟩
  | .unlease d a =>
    let id := (rd32 s.site.rep th .a a).toNat
    if id < 32 ∧ (∃ r ∈ t.leases, r.id = id) then some ⟨d, 1, 5, [4], .unlease id none, none⟩ else none
  | .lstat d a =>
    let id := (rd32 s.site.rep th .a a).toNat
    if id < 32 then some ⟨d, 1, 5, [4], .known, some (s.lstatWord (s.lanternDie (s.key m)) (s.key m) t id)⟩ else none
  | .qdone d a b scope => some ⟨d, scope, 8, [4], .qdone (rd64 s.site.rep th .a a) (rd32 s.site.rep th .b b) false, none⟩
  | _ => none

/-- The release of an engine word at its SCOPE is done for its one member (R188): its loads and atomics are, its domain's dirty bytes are
written back, and at sys scope its writes are acknowledged; and a future slot is FREE. -/
def State.engineReady (s : State) (m : Nat × Nat) (scope : BitVec 3) (c : Ctx) (r : State) : Prop :=
  s.ctx? s.site.ctx = some c ∧ s.inFlight (s.key m) = false ∧ r = s.releaseAt (s.domainOf (s.key m)) scope.toNat ∧
  (scope = 5 → r.unacked (s.domainOf (s.key m)) = false) ∧ c.slotsUsed < 1024 ∧ ∃ k < 1024, c.slotFree k = true

/-- `r` with an operation started for a member (R64, R143, R145): a FREE slot taken under its next generation, its counts raised, and its
destination holding the handle and waiting for the completion. -/
def State.started (r : State) (m : Nat × Nat) (f : EngineForm) (slot : Nat) (gen : BitVec 16) (op : EngOp) : State :=
  (({ r with draws := r.draws + 1, fresh := r.fresh + 1, ops := tset r.ops r.fresh op } : State).modCtx r.site.ctx fun c =>
    { c with futures := tset c.futures slot ⟨.running, gen, f.kind, m.1, false, 0⟩ }).modThread (r.key m) fun th =>
      let y := f.counts.foldl Thread.addCount th
      let g := dstReg r.site.rep th f.dst.r 1
      if f.dst.nw ∨ g = 0 then y else
        { y.set g (BitVec.ofNat 32 (f.kind.toNat * 2 ^ 28 + slot * 2 ^ 16 + gen.toNat)) with pend := tset y.pend g (.future slot gen) }

/-- The operation of a form, as its engine holds it. -/
def EngOp.of (r : State) (m : Nat × Nat) (th : Thread) (c : Ctx) (f : EngineForm) (slot : Nat) (gen : BitVec 16) : EngOp :=
  { key := r.key m, also := [], slot, gen, nw := f.dst.nw, core := c.core, pc := ⟨r.site.h, r.site.wi⟩, scope := f.scope, kinds := f.counts
    canceled := false, result := f.result, sat := 0, order := r.fresh, buffer := [], sup := th.priv, work := f.work }

/-- A slot that an operation may take: FREE, under one more than its last generation, 0 at its first use (log 12). -/
def Ctx.offers (c : Ctx) (slot : Nat) (gen : BitVec 16) : Prop :=
  slot < 1024 ∧ match tget c.futures slot with
    | none => gen = 0
    | some f => f.st = .free ∧ gen = f.gen + 1

/-- The lantern commands: destination, lantern, SCOPE, command and descriptor offset (R338, R344). -/
def commandForm (s : State) (th : Thread) : Instr → Option (Dst × BitVec 3 × Nat × Nat × LanternCmd × BitVec 4)
  | .mrg d a b op w scope imm => some (d, scope, (rd32 s.site.rep th .a a).toNat, (rd32 s.site.rep th .b b + imm.signExtend 32).toNat,
      .mrg op (w == 3), 6)
  | .nbrgrid d a b scope imm => some (d, scope, (rd32 s.site.rep th .a a).toNat, (rd32 s.site.rep th .b b + imm.signExtend 32).toNat, .nbrgrid, 7)
  | .nbrbin d a b scope imm => some (d, scope, (rd32 s.site.rep th .a a).toNat, (rd32 s.site.rep th .b b + imm.signExtend 32).toNat, .nbrbin, 7)
  | .nbrpair d a b scope imm => some (d, scope, (rd32 s.site.rep th .a a).toNat, (rd32 s.site.rep th .b b + imm.signExtend 32).toNat, .nbrpair, 7)
  | .nbrchk d a b scope imm => some (d, scope, (rd32 s.site.rep th .a a).toNat, (rd32 s.site.rep th .b b + imm.signExtend 32).toNat, .nbrchk, 7)
  | _ => none

/-- The matrix words: destination, operation, operands (R238 to R243). -/
def matrixForm (rep : Option Rep) (th : Thread) : Instr → Option (Dst × MatKind × Pair × Pair × List Nat)
  | .mloop d a b _ _ _ _ _ _ _ => some (d, .mloop, (rd32 rep th .a a).setWidth 64, (rd32 rep th .b b).setWidth 64, [5])
  | .mfold d _ => some (d, .mfold, 0, 0, [5])
  | .mzero d _ _ => some (d, .mzero, 0, 0, [5])
  | .cvtdn d a _ _ _ dsp _ => some (d, .cvtdn, if dsp then rd64 rep th .a a else (rd32 rep th .a a).setWidth 64, 0, if dsp then [5, 1] else [5])
  | _ => none

/-! ## Events -/

/-- `t` is `s` but for its contexts and its cores. -/
def State.elsewhere (s t : State) : Prop := { t with ctxs := [], cores := [] } = { s with ctxs := [], cores := [] }

/-- The ILLEGAL qualifier of a header, in order: JT at a thread's start, COUNT and class, reserved bits, an RWI beyond COUNT
(R58, R62, R80, 12 R274). -/
def headerQual (th : Thread) (wi : Nat) (w : Word) : Option Nat :=
  if th.atStart = true ∧ w.getLsbD 16 = false then some 8
  else if w.extractLsb' 0 4 = 0 ∨ w.extractLsb' 4 3 = 7 then some 3
  else if w.extractLsb' 17 15 ≠ 0 then some 2
  else if (w.extractLsb' 0 4).toNat < wi then some 3 else none

/-- From the first turn of its clause start on, a group's members see the context registers as they then are (R268). -/
def State.looked (s : State) (core slot : Nat) (g : Group) (c : Ctx) : State :=
  if g.entered then s else
  (s.mapMembers g.ctx g.members fun _ _ _ th => { th with view := c.regs, satOld := none, nanOld := false }).modCore core fun y =>
    { y with groups := tmod y.groups slot fun g => { g with entered := true } }

/-- The classes by number (R57). -/
def classOf (w : Word) : Cls := ([.alu, .sfu, .xl, .mem, .eng, .ctrl, .sys] : List Cls).getD (w.extractLsb' 4 3).toNat .any

/-- A thread meets the WAIT bits of a header (R60). -/
def Thread.waits (th : Thread) (w : Word) : Bool := (List.range 8).all fun k => !(w.getLsbD (7 + k)) || th.count k == 0

/-- A member of a stalled group after the group has dissolved (R72, R202). -/
def Thread.stalledOut (th : Thread) (g : Group) (w : Option WaitOn) : Thread :=
  { th.noLatches with
    pc := interruptedPC g th.pc th.repidx
    run := match w with
      | some x => .waiting x
      | none => if th.run = .issuing then .runnable else th.run }

/-- A thread after a wait that has ended (01 R22): the landings that are still on their way are given. -/
def Thread.awake (th : Thread) (out : Tab Landing) : Run :=
  match th.run with
  | .waiting (.reg r) => if r = 0 ∨ tget th.pend r = none then .runnable else th.run
  | .waiting (.latch id) => if tget out id = none then .runnable else th.run
  | x => x

/-- The address spaces, contexts, teams and threads have one entry for each of their numbers. -/
def State.distinct (s : State) : Prop :=
  (s.ctxs.map (·.1)).Nodup ∧ ∀ c ∈ s.ctxs, (c.2.teams.map (·.1)).Nodup ∧ ∀ t ∈ c.2.teams, (t.2.threads.map (·.1)).Nodup

/-- The keys of a table rise strictly. -/
def rising {α : Type} (t : Tab α) : Prop := (t.map (·.1)).Pairwise (· < ·)

/-- A parked access: its address, kind and word (20 R382). -/
def Thread.parkedAt (th : Thread) : Option (Pair × Nat × Nat) :=
  match th.run with
  | .waiting (.park ea kind fwi) => some (ea, kind, fwi)
  | _ => none

/-- The set of a sector in the data array of its home holds its line or has room for it, so that no other line leaves (15 R297). -/
def State.hasRoom (s : State) (sec : Nat) : Prop := ∀ t : State, t.pkg.l2 = s.pkg.l2 → t.l2Room sec = t

/-- The data arrays of the homes hold so little that sectors of four more lines fit into any set (15 R297). -/
def State.spacious (s : State) : Prop := s.pkg.l2.length ≤ 12

/-- No subscription of a sector. -/
def State.unsubscribed (s : State) (sec : Nat) : Prop := ∀ k < 8, tget s.pkg.subs (8 * sec + k) = none

/-- `t` has the bytes of `s` at the homes but for those of `n` bytes at `a`, which are those of `v`. -/
def State.storedAt (s t : State) (a n v : Nat) : Prop :=
  (∀ k < n, t.homeByte (a + k) = BitVec.ofNat 8 (v / 2 ^ (8 * k))) ∧ ∀ b, (b < a ∨ a + n ≤ b) → t.homeByte b = s.homeByte b

/-- The update of SCADD (15 R305): the sum, the minimum or the maximum, of integers or of F32. -/
def scaddOf (ops : BitVec 2) (ft : Bool) (old v : Nat) : Nat :=
  let less := fun a b : Nat => (BitVec.ofNat 32 a).slt (BitVec.ofNat 32 b)
  if ops = 0 then (if ft then addF32 old v else (old + v) % 2 ^ 32)
  else if ops = 1 then (if ft then f32.minMax false old v else if less v old then v else old)
  else if ft then f32.minMax true old v else if less old v then v else old

/-- A completion word: STATUS and VALUE (06 R144). -/
def doneWord (status value : Nat) : Word := BitVec.ofNat 32 (status * 2 ^ 28 + value % 2 ^ 28)

/-- The operations after one has ended with a word, and after its work has changed. -/
def State.ended (s : State) (id : Nat) (w : Word) : Tab EngOp := tmod s.ops id fun o => { o with result := some w }
def State.working (s : State) (id : Nat) (w : Work) : Tab EngOp := tmod s.ops id fun o => { o with work := w }

/-- An operation is in flight, is not cancelled, and belongs to a team. -/
def State.running (s : State) (id : Nat) (o : EngOp) (t : Team) : Prop :=
  rising s.ops ∧ tget s.ops id = some o ∧ o.result = none ∧ o.canceled = false ∧ s.team? o.key.ctx o.key.tslot = some t ∧
  Mem.wf t.scratch = true

/-- An address of an operation's address space is that of a byte of this package's memory, by a leaf that permits the access, and no TLB
entry of its die or its core says otherwise (20 R377 to R381). -/
def State.maps (s : State) (o : EngOp) (va : Pair) (acc : Acc) (a : Nat) : Prop :=
  canonical va = true ∧ inHbm a = true ∧ ∃ e l, s.walk (s.opCore o / 96) (s.opAsid o) va = .leaf e l ∧
    (∀ t ∈ (s.core (s.opCore o)).tlb ++ (s.die (s.opCore o / 96)).tlb, t.covers (s.opAsid o) va = true → t.leaf = e ∧ t.level = l) ∧
    permFault e acc o.sup = none ∧ s.isLocal (leafPa e l va) = true ∧ localOf (leafPa e l va) = a

/-! ## COPY (10 R229 to R231) -/

/-- `n` bytes of a sequence from a position, as a number; and how many bits of a mask below one are set. -/
def bytesAt (f : Nat → Byte) (k n : Nat) : Nat := ((List.range n).map fun j => (f (k + j)).toNat * 2 ^ (8 * j)).sum
def rankIn (mask i : Nat) : Nat := ((List.range i).filter fun j => mask.testBit j).length

/-- The bytes of a BM64 block with so many elements of `w` bytes (02 R48). -/
def bm64Size (k w : Nat) : Nat := 8 + (k * w + 7) / 8 * 8

/-- An element of pack: F32 rounded to F16 or BF16, or an integer narrowed to 16 or 8 bits (R229). -/
def packedOne (c : CopyOp) (x : Nat) : FRes :=
  if c.pfmt = 0 then convert f32 f16 c.rm c.ovf x else if c.pfmt = 1 then convert f32 bf16 c.rm c.ovf x else
  let b := if c.pfmt = 2 then 16 else 8
  let v := (BitVec.ofNat 32 x).toInt
  let q : Int := if v < -(2 ^ (b - 1)) then -(2 ^ (b - 1)) else if 2 ^ (b - 1) - 1 < v then 2 ^ (b - 1) - 1 else v
  ⟨(q % 2 ^ b).toNat, 0, if q = v then 0 else 1, if q ≠ v ∧ c.ovf = 3 then some 0x080 else none⟩

/-- The source bytes of the next unit. -/
def CopyOp.takes (c : CopyOp) (src : Nat → Byte) : Nat :=
  if c.mode = 0 then 16 else if c.mode = 1 then bm64Size (rankIn (bytesAt src 0 8) 64) (widthOf c.w) else if c.mode = 2 then 64 * widthOf c.w else 256

/-- What a unit becomes: its destination bytes, their number, and the clamped elements (R229, 02 R48). -/
def CopyOp.makes (c : CopyOp) (src out : Nat → Byte) (n sat : Nat) : Prop :=
  let w := widthOf c.w
  if c.mode = 0 then n = 16 ∧ sat = 0 ∧ ∀ k < 16, out k = src k
  else if c.mode = 1 then
    let mask := bytesAt src 0 8
    n = 64 * w ∧ sat = 0 ∧ ∀ i < 64, bytesAt out (w * i) w = if mask.testBit i then bytesAt src (8 + w * rankIn mask i) w else 0
  else if c.mode = 2 then
    let mask := bytesAt out 0 8
    n = bm64Size (rankIn mask 64) w ∧ sat = 0 ∧
    (∀ i < 64, (mask.testBit i = true ↔ bytesAt src (w * i) w ≠ 0) ∧
      (mask.testBit i = true → bytesAt out (8 + w * rankIn mask i) w = bytesAt src (w * i) w)) ∧
    ∀ k, 8 + w * rankIn mask 64 ≤ k → k < n → out k = 0
  else
    let b := if c.pfmt = 3 then 1 else 2
    n = 64 * b ∧ (∀ i < 64, bytesAt out (b * i) b = (packedOne c (bytesAt src (4 * i) 4)).bits) ∧
    sat = ((List.range 64).map fun i => (packedOne c (bytesAt src (4 * i) 4)).sat).sum

/-- An element of pack of the next unit is out of range, and OVF = 11. -/
def CopyOp.overflows (c : CopyOp) (src : Nat → Byte) : Prop := c.mode = 3 ∧ ∃ i < 64, (packedOne c (bytesAt src (4 * i) 4)).trap.isSome = true

/-- A byte of the scratch of an operation's team, or of a typed buffer of its core, and the size of such a space. -/
def State.space (s : State) (o : EngOp) (sp : BitVec 3) (a : Nat) : Byte :=
  let x := s.core (s.opCore o)
  mread (if sp = 1 then ((s.team? o.key.ctx o.key.tslot).map (·.scratch)).getD [] else if sp = 2 then x.abuf else if sp = 3 then x.wbuf else x.cbuf) a
def Team.spaceSize (t : Team) (sp : BitVec 3) : Nat := if sp = 1 then t.scrSize else if sp = 3 then 524288 else 262144

/-- A COPY that has passed its checks and owns the typed buffers that it names, whose context has no matrix operation in flight; no load
waits for an F bit of its team. -/
def State.copies (s : State) (id : Nat) (o : EngOp) (c : CopyOp) (t : Team) : Prop :=
  s.running id o t ∧ t.scrSize ≤ 2 ^ 32 ∧ o.work = .copy c ∧ c.checked = true ∧ ¬s.matUnder o.key.ctx ∧
  (∀ b, spaceBuf c.ssp = some b ∨ spaceBuf c.dsp = some b → (s.core (s.opCore o)).owner b = some o.key.ctx ∧
    Mem.wf ((s.core (s.opCore o)).buf b) = true) ∧
  ∀ w ∈ s.feWaits, (w.ctx, w.tslot) ≠ (o.key.ctx, o.key.tslot)

/-- An operation after a unit of its COPY, which is done after its last one (R231). -/
def EngOp.copied (o : EngOp) (c : CopyOp) (taken made sat : Nat) (old : Tab Byte) : EngOp :=
  let d := { c with done := c.done + 1, out := c.out + made, inp := c.inp + taken, sat := c.sat + sat, old }
  { o with work := .copy d, sat := o.sat + sat, buffer := []
           result := if d.done = c.len then some (doneWord 0 (if c.mode = 3 then d.sat else d.out)) else none }

/-- A granule of the destination in scratch that the unit's last bytes complete: all but one left in part, which the end completes (R229). -/
def CopyOp.fills (c : CopyOp) (n g : Nat) : Prop :=
  let a := c.dst.toNat + c.out
  a / 16 ≤ g ∧ g < if c.done + 1 = c.len then (a + n + 15) / 16 else (a + n) / 16

/-- The spaces that a mode takes (R229): 0 global, 1 scratch, 2 ABUF, 3 WBUF, 4 CBUF. -/
def copyModes (mode : BitVec 2) (dsp ssp : BitVec 3) : Prop :=
  (ssp ∈ if mode = 0 then [0, 1, 2, 4] else if mode = 1 then [0, 1] else if mode = 2 then [0, 1, 2] else ([0, 1, 4] : List (BitVec 3))) ∧
  (dsp ∈ if mode = 0 then [0, 1, 2, 3] else if mode = 1 then [1, 2, 3] else if mode = 2 then [0, 1] else ([0, 1, 2] : List (BitVec 3)))

/-! ## Standing loads (16 R313 to R315) -/

/-- The slot of a standing-load operation fails a check: misalignment, or a range outside scratch. -/
def StandOp.slotFault (w : StandOp) (t : Team) : Nat :=
  if w.slot % 16 ≠ 0 ∨ (w.kind = .stand ∧ w.ga.toNat % 16 ≠ 0) then 1 else if t.scrSize < w.slot + 16 then 7 else 0

/-- The directory entry of a slot on the die of an operation, and the directory after that entry has changed or gone. -/
def State.entryOf (s : State) (o : EngOp) (w : StandOp) : Option DirEntry :=
  (s.die (s.opCore o / 96)).directory.find? fun e => e.ctx == o.key.ctx && e.tslot == o.key.tslot && e.slot == w.slot

/-- The entries that an invalidation command covers: 3 a page, 4 an address space, 5 everything (20 R381). -/
def TlbEntry.dropped (t : TlbEntry) (cmd asid page : Nat) : Bool :=
  if cmd = 3 then t.asid == asid && t.vpage == page / 2 ^ (10 * t.level) else if cmd = 4 then t.asid == asid else true

/-- Writes of control space: offset, whether the access has 8 bytes, and what it does (22 R400, R407, R411, 20 R386). -/
def ctlWrites (s : State) (v : Pair) : List (Nat × Bool × State) :=
  let w := loWord v
  let tcb := fun d (f : Die → Tcb) => s.modDie d fun x => { x with tcb := f x }
  [(0x200, false, s.modPkg fun p => { p with disc := p.disc && !(v.getLsbD 7), unbk := p.unbk && !(v.getLsbD 6) }),
   (0x204, false, s.modPkg fun p => { p with cecnt := w }), (0x208, false, s.modPkg fun p => { p with cethr := w }), (0x20C, false, s)] ++
  (List.range 4).flatMap fun d =>
    [(0x1000 * (d + 1), true, tcb d fun x => { x.tcb with fbbase := v }),
     (0x1000 * (d + 1) + 0x08, true, tcb d fun x => { x.tcb with atbase := v }),
     (0x1000 * (d + 1) + 0x10, false, tcb d fun x => { x.tcb with
        note := w.getLsbD 11, dropped := x.tcb.dropped && !(w.getLsbD 10)
        log2n := if x.pending = [] ∧ 3 ≤ w.toNat % 16 ∧ w.toNat % 16 ≤ 10 then w.toNat % 16 else x.tcb.log2n }),
     (0x1000 * (d + 1) + 0x14, false, s),
     (0x1000 * (d + 1) + 0x18, false, tcb d fun x => { x.tcb with get := w }),
     (0x1000 * (d + 1) + 0x1C, false, s),
     (0x1000 * (d + 1) + 0x20, true, tcb d fun x => { x.tcb with carg := v }),
     (0x1000 * (d + 1) + 0x28, false, tcb d fun x => { x.tcb with
        busy := if x.tcb.busy = 0 ∧ 1 ≤ w.toNat % 16 ∧ w.toNat % 16 ≤ 5 then w.toNat % 16 else x.tcb.busy })]

/-- A window by its number. -/
def State.win (s : State) (w : Nat) : Window := (tget s.pkg.windows w).getD ⟨0, 0, 0, 0, false⟩
/-- The state with a window changed. -/
def State.withWin (s : State) (w : Nat) (x : Window) : State := { s with pkg := { s.pkg with windows := tset s.pkg.windows w x } }

/-- Two windows share an address in some of their data ranges and exponent regions (22 R402). -/
def Window.overlaps (x y : Window) : Prop :=
  ∃ rx ∈ [x.ranges.1, x.ranges.2], ∃ ry ∈ [y.ranges.1, y.ranges.2], ∃ a, rx.1 ≤ a ∧ a < rx.2 ∧ ry.1 ≤ a ∧ a < ry.2

/-- Enabling a window of these values would make two ranges overlap. -/
def State.clashes (s : State) (w : Nat) (x : Window) : Prop :=
  (∃ a, x.ranges.1.1 ≤ a ∧ a < x.ranges.1.2 ∧ x.ranges.2.1 ≤ a ∧ a < x.ranges.2.2) ∨
    ∃ e ∈ s.pkg.windows, e.1 ≠ w ∧ e.2.en = true ∧ x.overlaps e.2

/-- The state with an answer on the management lane (25 R439). -/
def State.answers (s : State) (p : PacketHead) (reject : Bool) (data : List Byte) : State := { s with mgmt := s.mgmt ++ [⟨p, reject, data⟩] }

/-- The payload flits of a packet that carries `n` bytes, and of a request of `n` bytes that carries them if it writes (25 R433). -/
def flits (n : Nat) : Nat := if n ≤ 32 then 0 else (n + 31) / 64
def carried (n : Nat) (write : Bool) : Nat := if write then flits n else 0

/-- A well-formed management request for this device, once it answers any, of `n` bytes at an offset of a target (25 R433, R439). -/
def State.asked (s : State) (p : PacketHead) (target off n : Nat) (write : Bool) : Prop :=
  s.pkg.stage ≠ 0 ∧ p.dst = s.pkg.deviceId ∧ p.reserved = false ∧ p.kind = 0x10 ∧ p.bytes = n ∧ p.len = carried n write ∧
    p.addr.toNat / 2 ^ 56 = target ∧ p.addr.toNat % 2 ^ 48 = off

/-- A packet that this device sends in answer to one, with its tag and H, and `data` for its payload (25 R433, R438). -/
def State.replyTo (s : State) (p : PacketHead) (kind : Nat) (data : List Byte) : Packet :=
  ⟨⟨false, kind, 0, data.length, flits data.length, p.host, s.pkg.deviceId, p.src, p.tag, p.addr⟩, data⟩

/-- The 32-bit words of a die's power control block (R424) but for TEMP. -/
def Power.words (p : Power) : List (Nat × Nat) :=
  [(0x00, p.diemax * 2 ^ 16 + p.lslots * 2 ^ 12 + (if p.ctxn then 8 else 0) + (if p.hostn then 4 else 0) + (if p.migen then 2 else 0) +
      if p.boosten then 1 else 0),
   (0x04, p.ilimit), (0x08, p.grant * 2 ^ 16 + p.cap * 2 ^ 12), (0x0C, p.thr.toNat)]

/-- What a field of a register holds once queued writes take effect in order: the value of the last write at an offset that gives it
one, else what it held. -/
def lastWrite {α : Type} (writes : List (Nat × Word)) (off : Nat) (value : Word → Option α) (old : α) : α :=
  ((writes.filterMap fun w => if w.1 = off then value w.2 else none).getLast?).getD old

/-- A number that a write may put into a field only within its range. -/
def ranged (lo hi n : Nat) : Option Nat := if lo ≤ n ∧ n ≤ hi then some n else none

/-- A queue whose descriptor lies in memory, where nothing subscribes it (19 R358), in the full stage. -/
def State.describes (s : State) (q : Nat) : Prop :=
  q < 2048 ∧ inHbm (s.qAddr q + 63) = true ∧ s.qAddr q % 64 = 0 ∧ s.pkg.subs = [] ∧ s.pkg.stage = 2 ∧ s.spacious

/-- The read-only words of a descriptor but for CTL: SERVED with CURBIN, RIDX, and the reserved ones (19 R358). -/
def Queue.fixedWords (x : Queue) : List (Nat × Nat) :=
  (0x0C, x.served * 64 + x.cur) :: (0x28, x.ridx.toNat) :: ([0x10, 0x14, 0x18, 0x1C, 0x24, 0x2C, 0x30, 0x34, 0x38, 0x3C] : List Nat).map (·, 0)

/-- `v` has the bytes of `s` at the homes but in a queue's descriptor: there CTL is `ctl`, the read-only words are the device's, and the
rest, the ring's base and WIDX, is as it was. -/
def State.redescribed (s v : State) (q ctl : Nat) : Prop :=
  v.homeNat (s.qAddr q + 8) 4 = ctl ∧ (∀ e ∈ (s.queue q).fixedWords, v.homeNat (s.qAddr q + e.1) 4 = e.2 % 2 ^ 32) ∧
    ∀ a, (a < s.qAddr q + 8 ∨ s.qAddr q + 64 ≤ a ∨ (s.qAddr q + 0x20 ≤ a ∧ a < s.qAddr q + 0x24)) → v.homeByte a = s.homeByte a

/-- No core holds a line. -/
def State.noLines (s : State) : Prop := ∀ g, (s.core g).l1 = []

/-- Nothing of the package's engines is under way. -/
def State.noWork (s : State) : Prop :=
  s.ops = [] ∧ s.loads = [] ∧ s.atoms = [] ∧ s.feWaits = [] ∧ s.remotes = [] ∧ s.pkg.subs = []

/-- A thread whose parked access is issued again (20 R387). -/
def Thread.replayed (th : Thread) : Thread := if th.parkedAt.isSome then { th with run := .runnable } else th

/-- The word of a constant load on its way to its destination, counted as a constant load (07 R161, 01 R17). -/
def ConstReq.landed (q : ConstReq) (w : Word) : Landing :=
  { key := q.key, regs := valueRegs q.dst 1 w.toNat, latch := none, latchVal := 0, kind := some 6, flags := 0, sat := 0 }

/-- The place in which a moved context arrives on a core: the one kept for it, or, where another context has taken that, the one of the
active and the hot place that is free (log 69). -/
def State.arrives (s : State) (core : Nat) (p q : Place) : Prop :=
  let held := fun r => ∃ e ∈ s.ctxs, e.2.core = core ∧ e.2.place = r
  (q = p ∧ ¬held p) ∨ (held p ∧ ¬held q ∧ (q = .active ∨ (q = .hot ∧ held .active)))

/-- What a future slot holds once its entry in the image reads `lo` and `hi` (12 R264): what it held where the entry says that, else
what the entry says. -/
def slotBack (c x : Ctx) (k lo hi : Nat) : Prop :=
  if lo + 2 ^ 32 * hi = c.slotEntry k then tget x.futures k = tget c.futures k
  else ∃ f, tget x.futures k = some f ∧ f.gen.toNat = hi % 2 ^ 16 ∧ f.tslot = hi / 2 ^ 16 % 8 ∧ f.retain = hi.testBit 21 ∧
    (f.st = .running ↔ hi / 2 ^ 19 % 4 = 1) ∧ (f.st = .done ↔ hi / 2 ^ 19 % 4 = 2) ∧ (f.st = .done → f.word.toNat = lo) ∧
    (f.st = .running → f.kind.toNat = lo / 2 ^ 28)

/-- What a thread is once its record and its registers read as `rd` gives them: its record at `r`, its barrier word at `b`, its
registers from `g` on, `n` of them (12 R261 to R263). Where the record's run state is another one than the thread's, a thread that waited
on a barrier or an F bit executes its word again (log 67). -/
def Thread.readAs (th y : Thread) (rd : Nat → Nat) (r b g n : Nat) : Prop :=
  let word := fun off => (BitVec.ofNat 32 (rd off) : Word)
  let st := rd (r + 8)
  let code := st / 2 ^ 18 % 8
  let on := rd (r + 0xC)
  let pending := fun j => (rd (r + 0x18 + 4 * (j / 32))).testBit (j % 32)
  y.pc.wi = st % 16 ∧ y.pc.h = (pairOf (word r) (word (r + 4))).setWidth 56 ∧ y.flags.toNat = st / 2 ^ 4 % 2 ^ 6 ∧
  y.repidx.toNat = st / 2 ^ 10 % 2 ^ 6 ∧ y.deferred = st.testBit 16 ∧ y.priv = st.testBit 17 ∧
  y.estat = word (r + 0x28) &&& 0x7FFFF ∧ y.einfo = word (r + 0x2C) ∧ y.epc = pairOf (word (r + 0x30)) (word (r + 0x34)) ∧
  y.eaddr = pairOf (word (r + 0x38)) (word (r + 0x3C)) ∧ y.esave0 = word (r + 0x40) ∧ y.esave1 = word (r + 0x44) ∧
  (∀ j, 0 < j → j < n → j < 128 → y.get j = word (g + 4 * j)) ∧
  (∀ k < 8, y.count k = (rd (r + 0x10) + 2 ^ 32 * rd (r + 0x14)) / 2 ^ (6 * k) % 64) ∧
  (∀ j, 0 < j → j < 128 → (tget y.pend j).isSome = pending j ∧ ∀ p, pending j = true → tget th.pend j = some p → tget y.pend j = some p) ∧
  (∀ j < 16, (code, on) = th.runCode ∨ code ≠ 1 ∨ j ≠ on % 16 →
    y.bar j = match rd b / 2 ^ (2 * j) % 4 with
      | 1 => .expected
      | 2 => .arrived
      | _ => .none) ∧
  y.run = if (code, on) = th.runCode ∨ code = 7 then th.replayed.run else if code = 5 then .ended
    else if code = 2 ∨ code = 4 then .waiting (.reg (on % 128)) else .runnable

/-- What a team of a slot is once its image reads as `rd` gives it: its record, the scratch and the threads at the bases that the record
gives, as far as the sections of the image go and its shape is its own (12 R261 to R263). -/
def teamBack (rd : Nat → Nat) (slot : Nat) (t u : Team) : Prop :=
  let r := 0x1000 + 1024 * slot
  let thr := rd (r + 8)
  let reg := rd (r + 0xC)
  let scr := rd (r + 0x10)
  u.n = rd (r + 4) % 256 ∧ u.scrSize = 16 * (rd (r + 4) / 256) ∧ u.rank = rd (r + 0x14) / 2 ^ 16 ∧ u.index = rd (r + 0x14) % 2 ^ 16 ∧
  u.endFlags.toNat = rd (r + 0x18) % 64 ∧ u.ovfcnt = rd (r + 0x1C) / 2 ^ 16 ∧ u.shape.toNat = rd r % 2 ^ 30 ∧
  u.flog.length = min 16 (rd (r + 0x1C) % 32) ∧
  (Mem.wf t.scratch = true → scr + u.scrSize ≤ 0x40000 → ∀ k < u.scrSize / 4, mreadN u.scratch (4 * k) 4 = rd (0xA8000 + scr + 4 * k)) ∧
  (scr + u.scrSize ≤ 0x40000 → ∀ g < u.scrSize / 16, (g ∈ u.fbits ↔
    (rd (0x7000 + 4 * ((scr / 16 + g) / 32))).testBit ((scr / 16 + g) % 32) = true)) ∧
  (u.shape = t.shape → ∀ tid th, tget t.threads tid = some th → thr + tid < 1024 → reg + 4 * (tid + 1) * u.n ≤ 0x80000 →
    ∃ y, tget u.threads tid = some y ∧
      th.readAs y rd (0x8000 + 128 * (thr + tid)) (0x5000 + 4 * (thr + tid)) (0x28000 + reg + 4 * tid * u.n) u.n)

/-! ## Residue numbers, the order of F32, rounding -/

/-- rq_encode of R42 for an integer it does not trap: clamped to the range, then three residues. -/
def rqEncode (v : Int) : Word :=
  let c := if v < -8388480 then -8388480 else if 8388479 < v then 8388479 else v
  BitVec.ofInt 32 (c % 257 * 2 ^ 16 + c % 255 * 2 ^ 8 + c % 256)

/-- rq_decode of R43. -/
def rqDecode (w : Word) : Int :=
  let a := (w.extractLsb' 0 8).toNat
  let b := (w.extractLsb' 8 8).toNat % 255
  let c := (w.extractLsb' 16 9).toNat % 257
  let x := (a * 16711425 + b * 8421376 + c * 8421120) % 16776960
  if x ≥ 8388480 then (x : Int) - 16776960 else x

/-- A NaN pattern of F32 (R29), and the order of its other patterns, in which +0 equals −0. -/
def nanWord (x : Word) : Bool := x.extractLsb' 23 8 == 255 && x.extractLsb' 0 23 != 0
def order32 (x : Word) : Int := if x.msb then -(x.extractLsb' 0 31).toNat else (x.extractLsb' 0 31).toNat

/-- The compares of R113: when the result is 1, and whether a NaN sets IV. -/
def compareOf : Instr → Option (Dst × Sel × Sel × (Word → Word → Bool) × Bool)
  | .fslt d a b => some (d, a, b, fun x y => !(nanWord x || nanWord y) && decide (order32 x < order32 y), true)
  | .fsle d a b => some (d, a, b, fun x y => !(nanWord x || nanWord y) && decide (order32 x ≤ order32 y), true)
  | .fseq d a b => some (d, a, b, fun x y => !(nanWord x || nanWord y) && decide (order32 x = order32 y), false)
  | .fsun d a b => some (d, a, b, fun x y => nanWord x || nanWord y, false)
  | _ => none

/-- Magnitudes m × 2^e compared, and their distance in units of 2^lo. -/
def magLe (m1 : Nat) (e1 : Int) (m2 : Nat) (e2 : Int) : Prop := m1 * 2 ^ (e1 - min e1 e2).toNat ≤ m2 * 2 ^ (e2 - min e1 e2).toNat
def magGap (m1 : Nat) (e1 : Int) (m2 : Nat) (e2 lo : Int) : Nat := ((m1 * 2 ^ (e1 - lo).toNat : Nat) - (m2 * 2 ^ (e2 - lo).toNat : Nat) : Int).natAbs

/-! ## Rounding, overflow and conversions of exact numbers (02 R29 to R39, 05 R110 to R121) -/

/-- The formats of R29. -/
def Fmt.listed (f : Fmt) : Prop := f = f16 ∨ f = bf16 ∨ f = f32 ∨ f = f64

/-- A pattern's value is a finite number. -/
def FV.is (v : FV) (x : ℝ) : Prop := ∃ (neg : Bool) (m : Nat) (e : ℤ), v = .fin neg m e ∧ x = (if neg then -1 else 1) * m * 2 ^ e

/-- The integer to which a mode rounds a number (R32). -/
def roundsTo (rm : BitVec 3) (x : ℝ) (k : ℤ) : Prop :=
  if rm = 0 then |x - k| ≤ 1 / 2 ∧ (|x - k| = 1 / 2 → k % 2 = 0)
  else if rm = 1 then |(k : ℝ)| ≤ |x| ∧ |x| < |(k : ℝ)| + 1 ∧ 0 ≤ x * k
  else if rm = 2 then (k : ℝ) ≤ x ∧ x < k + 1
  else x ≤ k ∧ (k : ℝ) < x + 1

/-- The signed infinity of a format, its largest finite pattern, and its canonical NaN (R29, R30). -/
def Fmt.infinite (f : Fmt) (neg : Bool) : Nat := (if neg then 2 ^ (f.eb + f.mb) else 0) + (2 ^ f.eb - 1) * 2 ^ f.mb
def Fmt.largest (f : Fmt) (neg : Bool) : Nat := f.infinite neg - 1
def Fmt.quiet (f : Fmt) : Nat := (2 ^ f.eb - 1) * 2 ^ f.mb + 2 ^ (f.mb - 1)

/-- What an overflow delivers (R36, R38): the flags OF and IX, and with OVF = 00 SAT and a clamped element. -/
def Fmt.overflowed (f : Fmt) (rm : BitVec 3) (ovf : BitVec 2) (neg : Bool) (trap : Nat) : FRes :=
  if ovf = 0 then ⟨f.largest neg, 0x34, 1, none⟩
  else if ovf = 1 then ⟨if rm = 0 ∨ (rm = 2 ∧ neg = true) ∨ (rm = 3 ∧ neg = false) then f.infinite neg else f.largest neg, 0x14, 0, none⟩
  else if ovf = 2 then ⟨f.quiet, 0x14, 0, none⟩ else ⟨0, 0x14, 0, some trap⟩

/-- What a format delivers for an exact nonzero number (R32, R34, R36): rounded with an unbounded exponent range it is `j` units, and
in the format `k` units, of the last place; beyond the largest finite number the overflow rule holds; IX says that the number
differs from the result, and UF that it does and is tiny. -/
def Fmt.delivers (f : Fmt) (rm : BitVec 3) (ovf : BitVec 2) (trap : Nat) (x : ℝ) (r : FRes) : Prop :=
  ∃ top j k : ℤ, (2 : ℝ) ^ top ≤ |x| ∧ |x| < (2 : ℝ) ^ (top + 1) ∧
    let emin : ℤ := 1 - f.bias
    let unit : ℝ := (2 : ℝ) ^ (max top emin - f.mb)
    let free : ℝ := |(j : ℝ)| * (2 : ℝ) ^ (top - f.mb)
    roundsTo rm (x / (2 : ℝ) ^ (top - f.mb)) j ∧ roundsTo rm (x / unit) k ∧
    ((2 - (2 : ℝ) ^ (-(f.mb : ℤ))) * (2 : ℝ) ^ f.bias < free → ∀ neg, (neg = true ↔ x < 0) → r = f.overflowed rm ovf neg trap) ∧
    (free ≤ (2 - (2 : ℝ) ^ (-(f.mb : ℤ))) * (2 : ℝ) ^ f.bias → (f.value r.bits).is (k * unit) ∧ (r.bits.testBit (f.eb + f.mb) = true ↔ x < 0) ∧
      r.bits < 2 ^ (f.eb + f.mb + 1) ∧ r.trap = none ∧ r.sat = 0 ∧ r.flags &&& 0x27#6 = 0 ∧ (r.flags.getLsbD 4 = true ↔ k * unit ≠ x) ∧
      (r.flags.getLsbD 3 = true ↔ k * unit ≠ x ∧ free < (2 : ℝ) ^ emin))

/-- A NaN pattern of a format, and the order of its other patterns, in which −0 lies below +0 (R29, R112). -/
def Fmt.nanBits (f : Fmt) (x : Nat) : Bool := x / 2 ^ f.mb % 2 ^ f.eb == 2 ^ f.eb - 1 && x % 2 ^ f.mb != 0
def Fmt.key (f : Fmt) (x : Nat) : Int := if x.testBit (f.eb + f.mb) then -(x % 2 ^ (f.eb + f.mb) : Nat) - 1 else (x % 2 ^ (f.eb + f.mb) : Nat)

/-- The order of the patterns that are no NaN, in which +0 equals −0 (R113). -/
def Fmt.order (f : Fmt) (x : Nat) : Int := if x.testBit (f.eb + f.mb) then -(x % 2 ^ (f.eb + f.mb) : Nat) else (x % 2 ^ (f.eb + f.mb) : Nat)

/-- The smaller and the larger of two patterns (R112). -/
def Fmt.least (f : Fmt) (x y : Nat) : Nat :=
  if f.nanBits x then (if f.nanBits y then f.quiet else y) else if f.nanBits y then x else if f.key x ≤ f.key y then x else y
def Fmt.greatest (f : Fmt) (x y : Nat) : Nat :=
  if f.nanBits x then (if f.nanBits y then f.quiet else y) else if f.nanBits y then x else if f.key x ≤ f.key y then y else x

/-- The limits of an integer type of R104, and the bits that its results occupy. -/
def typeLow (c : BitVec 4) : Int := if c.toNat < 4 then -(2 ^ (8 * 2 ^ c.toNat - 1)) else 0
def typeHigh (c : BitVec 4) : Int := if c.toNat < 4 then 2 ^ (8 * 2 ^ c.toNat - 1) - 1 else 2 ^ (8 * 2 ^ (c.toNat - 4)) - 1
def typeBits (c : BitVec 4) : Nat := if c = 3#4 ∨ c = 7#4 then 64 else 32

/-- What a conversion of an integer to a type delivers (R39 step 3, R104), with the conditions that a clamp sets. -/
def clampTo (lo hi : Int) (bits : Nat) (ovf : BitVec 2) (flags : BitVec 6) (v : Int) (r : FRes) : Prop :=
  if lo ≤ v ∧ v ≤ hi then (r.bits : Int) % 2 ^ bits = v % 2 ^ bits ∧ r.sat = 0 ∧ r.trap = none
  else r.flags = flags ∧ if ovf = 3 then r.trap = some 0x080 ∧ r.sat = 0
    else (r.bits : Int) % 2 ^ bits = (if v < lo then lo else hi) % 2 ^ bits ∧ r.sat = 1 ∧ r.trap = none

/-- The F32 pattern of a power of two from 2^−149 to 2^127. -/
def pow32 (n : Int) : Word := if n < -126 then 1#32 <<< (n + 149).toNat else BitVec.ofNat 32 ((n + 127).toNat * 2 ^ 23)

/-- The table of special arguments of R121, by function: 0 FRCP, 1 FRSQ, 2 FEX2, 3 FLG2, 4 FSIN, 5 FCOS; results and flags. -/
def specialRow (fn : Nat) (a : Word) : Option (Word × BitVec 6) :=
  let pick := fun l : List (Word × BitVec 6) => l[fn]?
  let nan : Word × BitVec 6 := (0x7FC00000, 0)
  let bad : Word × BitVec 6 := (0x7FC00000, 1)
  if nanWord a then some nan
  else if a = 0x7F800000 then pick [(0, 0), (0, 0), (0x7F800000, 0), (0x7F800000, 0), nan, nan]
  else if a = 0xFF800000 then pick [(0x80000000, 0), bad, (0, 0), bad, nan, nan]
  else if a = 0 then pick [(0x7F800000, 2), (0x7F800000, 2), (0x3F800000, 0), (0xFF800000, 2), (0, 0), (0x3F800000, 0)]
  else if a = 0x80000000 then pick [(0xFF800000, 2), (0xFF800000, 2), (0x3F800000, 0), (0xFF800000, 2), (0x80000000, 0), (0x3F800000, 0)]
  else if a.msb ∧ (fn = 1 ∨ fn = 3) then some bad else none

/-- The arguments of the exact column of R121, but for those of the special table. -/
def exactArg (fn : Nat) (a : Word) : Prop := ∃ n : Int, -149 ≤ n ∧ n ≤ 127 ∧
  ((fn = 0 ∧ -127 ≤ n ∧ n ≤ 126 ∧ (a = pow32 n ∨ a = pow32 n ||| 0x80000000)) ∨ (fn = 1 ∧ n % 2 = 0 ∧ a = pow32 n) ∨
    (fn = 2 ∧ (f32.value a.toNat).is n) ∨ (fn = 3 ∧ a = pow32 n))

/-! ## The values of the matrix unit (02 R47, R49 to R51, 11 R235, R252, R253) -/

/-- The F32 word of an exact number, rounded once with RNE and OVF = 01; an exact zero gives +0. -/
def rounded32 (x : ℝ) (v : Word) : Prop := (x = 0 → v = 0) ∧ (x ≠ 0 → ∃ r, f32.delivers 0 1 0 x r ∧ v.toNat = r.bits)

/-- Elements of BF16 or F16, and an output of 32 products of theirs (R50, R51). -/
def floatStep (f : Fmt) (a w : Nat → Nat) (v : Word) : Prop :=
  let x := fun k => f.value (a k)
  let y := fun k => f.value (w k)
  let nan := ∃ k < 32, (x k).isNan = true ∨ (y k).isNan = true ∨ ((x k).isZero = true ∧ ∃ n, y k = .inf n) ∨ ((∃ n, x k = .inf n) ∧ (y k).isZero = true)
  let inf := fun neg : Bool => ∃ k < 32, (∃ n, x k = .inf n ∨ y k = .inf n) ∧ ((a k).testBit 15 != (w k).testBit 15) = neg
  (nan ∨ (inf false ∧ inf true) → v = 0x7FC00000) ∧
  (¬nan → inf false → ¬inf true → v = 0x7F800000) ∧ (¬nan → inf true → ¬inf false → v = 0xFF800000) ∧
  (¬nan → ¬inf false → ¬inf true → ∃ p q : Nat → ℝ, (∀ k < 32, (x k).is (p k) ∧ (y k).is (q k)) ∧
    rounded32 ((List.range 32).map fun k => p k * q k).sum v)

/-- Elements of I8 or I4 with their block exponents, and an output of 64 products of theirs (R49, R51). -/
def blockStep (ea ew : Nat) (a w : Nat → Int) (v : Word) : Prop :=
  if ea = 255 ∨ ew = 255 then v = 0x7FC00000 else if ea = 0 ∨ ew = 0 then v = 0
  else rounded32 ((((List.range 64).map fun k => a k * w k).sum : ℤ) * (2 : ℝ) ^ ((ea : ℤ) + ew - 254)) v

/-- An I8 element, and an I4 element, of the bytes from a position. -/
def i8At (f : Nat → Byte) (k : Nat) : Int := (f k).toInt
def i4At (f : Nat → Byte) (k : Nat) : Int := if k % 2 = 0 then ((f (k / 2)).extractLsb' 0 4).toInt else ((f (k / 2)).extractLsb' 4 4).toInt

/-- Output (i, j) of a step of a format: 0 BF16, 1 F16, 2 I8, 3 I4 (R235); `a` and `w` are the bytes of ABUF and WBUF, and `ae` and `we`
of the exponent stores. -/
def stepOutput (fmt : Nat) (a ae w we : Nat → Byte) (abase wbase i j : Nat) (v : Word) : Prop :=
  let x := fun row k => a ((abase + row * i + k) % 262144)
  let y := fun row k => w ((wbase + row * j + k) % 524288)
  if fmt < 2 then floatStep (if fmt = 0 then bf16 else f16) (fun k => bytesAt (x 64) (2 * k) 2) (fun k => bytesAt (y 64) (2 * k) 2) v
  else
    let row := if fmt = 2 then 64 else 32
    blockStep (ae ((abase + row * i) % 262144 / 32)).toNat (we ((wbase + row * j) % 524288 / 32)).toNat
      (if fmt = 2 then i8At (x 64) else i4At (x 32)) (if fmt = 2 then i8At (y 64) else i4At (y 32)) v

/-- The integers of a block at an exponent, where they all fit (R47). -/
def blockFits (x : Nat → Word) (lo hi : Int) (e : Nat) (q : Nat → Int) : Prop :=
  ∀ k < 64, lo ≤ q k ∧ q k ≤ hi ∧ ∃ r : ℝ, (f32.value (x k).toNat).is r ∧ roundsTo 0 (r * (2 : ℝ) ^ (127 - (e : ℤ))) (q k)

/-- No number of a block is NaN, not all are zero, and they fit at no exponent. -/
def noExponent (x : Nat → Word) (lo hi : Int) : Prop :=
  (∀ k < 64, nanWord (x k) = false) ∧ (∃ k < 64, x k &&& 0x7FFFFFFF ≠ 0) ∧ ∀ e, 1 ≤ e → e ≤ 254 → ¬∃ q, blockFits x lo hi e q

/-- A block of 64 numbers: exponent, integers, clamped elements, and outputs that read as NaN (R47, R253). -/
def blockOf (x : Nat → Word) (lo hi : Int) (ovf : BitVec 2) (e : Nat) (q : Nat → Int) (sat nan : Nat) : Prop :=
  ((∃ k < 64, nanWord (x k) = true) → e = 255 ∧ sat = 0 ∧ nan = 64) ∧
  ((∀ k < 64, x k &&& 0x7FFFFFFF = 0) → e = 0 ∧ (∀ k < 64, q k = 0) ∧ sat = 0 ∧ nan = 0) ∧
  ((∀ k < 64, nanWord (x k) = false) → (∃ k < 64, x k &&& 0x7FFFFFFF ≠ 0) → ¬noExponent x lo hi →
    1 ≤ e ∧ e ≤ 254 ∧ blockFits x lo hi e q ∧ (∀ d, 1 ≤ d → d < e → ¬∃ p, blockFits x lo hi d p) ∧ sat = 0 ∧ nan = 0) ∧
  (noExponent x lo hi → (ovf = 1 ∨ ovf = 2) → e = 255 ∧ sat = 0 ∧ nan = 64) ∧
  (noExponent x lo hi → ovf = 0 → e = 254 ∧ nan = 0 ∧ ∃ p : Nat → Int, sat = ((List.range 64).filter fun k => decide (p k < lo ∨ hi < p k)).length ∧
    ∀ k < 64, q k = max lo (min hi (p k)) ∧ (∀ r : ℝ, (f32.value (x k).toNat).is r → roundsTo 0 (r * (2 : ℝ) ^ (-127 : ℤ)) (p k)) ∧
      ∀ neg, f32.value (x k).toNat = .inf neg → if neg then p k < lo else hi < p k)

/-- What CVTDN makes of a row (R253): its bytes, its exponent, the clamped elements, and the outputs that read as NaN. The elements of a
block with exponent 255 have no stated value (log 26). -/
def cvtMakes (pfmt : Nat) (rm : BitVec 3) (ovf : BitVec 2) (x : Nat → Word) (b : Nat → Byte) (e sat nan : Nat) : Prop :=
  if pfmt < 2 then
    let f := if pfmt = 0 then bf16 else f16
    let q := fun k => convert f32 f rm ovf (x k).toNat
    (∀ k < 64, bytesAt b (2 * k) 2 = (q k).bits) ∧ sat = ((List.range 64).map fun k => (q k).sat).sum ∧
    nan = ((List.range 64).filter fun k => f.nanBits (q k).bits).length
  else ∃ q, blockOf x (if pfmt = 2 then -128 else -8) (if pfmt = 2 then 127 else 7) ovf e q sat nan ∧
    (e ≠ 255 → ∀ k < 64, q k = if pfmt = 2 then i8At b k else i4At b k)

/-- A row that does not fit, under OVF = 11. -/
def cvtOverflows (pfmt : Nat) (rm : BitVec 3) (ovf : BitVec 2) (x : Nat → Word) : Prop :=
  if pfmt < 2 then ∃ k < 64, (convert f32 (if pfmt = 0 then bf16 else f16) rm ovf (x k).toNat).trap.isSome = true
  else ovf = 3 ∧ noExponent x (if pfmt = 2 then -128 else -8) (if pfmt = 2 then 127 else 7)

/-- The bytes of a row in the image of a format, and where each lies from its base (R252). -/
def cvtBytes (pfmt : Nat) : Nat := if pfmt < 2 then 128 else if pfmt = 2 then 64 else 32
def cvtPlace (pfmt i k : Nat) : Nat :=
  if pfmt < 2 then (if k < 64 then 64 * i + k else 4096 + 64 * i + (k - 64)) else if pfmt = 2 then 64 * i + k else 32 * i + k

/-! ## Lantern commands (17 R339 to R341, 18 R346 to R355) -/

/-- The lines at the homes hold no exponents to be written back, and a Clean one holds the bytes of memory. -/
def State.tidy (s : State) : Prop :=
  rising s.pkg.l2 ∧ Mem.hbmWf s.pkg.hbm = true ∧ ∀ e ∈ s.pkg.l2, e.2.sideDirty = false ∧
    (e.2.st = .clean → ∀ k < 128, e.2.data.extractLsb' (8 * k) 8 = hread s.pkg.hbm (128 * e.1 + k))

/-- A command that is its lantern's next and runs now (R338). -/
def State.runs (s : State) (id : Nat) (o : EngOp) (c : CmdOp) (t : Team) : Prop :=
  s.running id o t ∧ t.scrSize ≤ 2 ^ 32 ∧ o.work = .cmd c ∧ s.cmdRuns id o c = true ∧ s.tidy

/-- A command has ended with a word, with the words of its descriptor in scratch (R339, R349). -/
def State.cmdEnded (v : State) (id : Nat) (o : EngOp) (c : CmdOp) (t : Team) (w : Word) : Prop :=
  tget v.ops id = some { o with result := some w } ∧ ∃ m, v.team? o.key.ctx o.key.tslot = some { t with scratch := m } ∧
    (∀ k < c.desc.length, mreadN m (c.off + 4 * k) 4 = (c.w k).toNat) ∧
    ∀ a, (a < c.off ∨ c.off + 4 * c.desc.length ≤ a) → mread m a = mread t.scratch a

/-- A step of R340 of a mode, 0 isect, 1 union, 2 diff, 3 merge, 4 count, at the next keys of both streams: which it consumes, the keys that
it emits and the matches that it counts; none when done. -/
def mergeStep (op : Nat) (a b : Option Nat) : Option (Bool × Bool × List Nat × Nat) :=
  let emitA := op = 1 ∨ op = 2 ∨ op = 3
  let emitB := op = 1 ∨ op = 3
  match a, b with
  | none, none => none
  | none, some y => if emitB then some (false, true, [y], 0) else none
  | some x, none => if emitA then some (true, false, [x], 0) else none
  | some x, some y =>
    if x < y then some (true, false, if emitA then [x] else [], 0) else if y < x then some (false, true, if emitB then [y] else [], 0)
    else some (true, true, if op = 3 then [x, y] else if op < 2 then [x] else [], if op = 4 then 1 else 0)

/-- A word of F32 stands for a finite number. -/
def num (w : Word) (x : ℝ) : Prop := (f32.value w.toNat).is x

/-- F32 differences and sums of words. -/
def diff32 (a b : Word) : Word := BitVec.ofNat 32 (subOf f32 0 1 a.toNat b.toNat).bits
def sum32 (a b : Word) : Word := BitVec.ofNat 32 (addOf f32 0 1 a.toNat b.toNat).bits

/-- The parameters of a grid keep their limits (R346, R347). -/
def Grid.keepsLimits (h : Grid) : Prop :=
  (∀ a < 3, ∃ x, num (h.len a) x ∧ 0 < x) ∧ (∃ x, num h.cut x ∧ 0 < x) ∧ (∃ x, num h.skin x) ∧ h.skin.msb = false ∧ h.capl ≤ 4 ∧
  1 ≤ h.nmax ∧ h.nmax ≤ 2 ^ 24 ∧ (h.g 7).extractLsb' 24 8 = 0 ∧ h.g 9 = 0 ∧ h.g 10 = 0 ∧ h.g 11 = 0 ∧
  ∃ y, num h.h y ∧ ∀ a < 3, ∀ x, num (h.len a) x → y ≤ x / h.nc a ∧ (h.per a = true → 2 * y ≤ x)

/-- A neighbouring index on an axis (R351). -/
def Grid.adjacent (h : Grid) (axis c d : Nat) : Prop :=
  d < h.nc axis ∧ (d = c ∨ d = c + 1 ∨ d + 1 = c ∨ (h.per axis = true ∧ (d = (c + 1) % h.nc axis ∨ d = (c + h.nc axis - 1) % h.nc axis)))

/-- The region of a grid is mapped, from a base in this package's memory on (R347). -/
def State.gridAt (s : State) (o : EngOp) (c : CmdOp) (base : Nat) : Prop :=
  let h : Grid := c.grid
  h.bad = false ∧ base % 256 = 0 ∧ c.desc.length = 12 ∧ ∀ off < 4096 + 16 * (h.cells * h.cap) + 16 * h.nmax,
    s.maps o (c.q 0 + BitVec.ofNat 64 off) .load (base + off) ∧ s.maps o (c.q 0 + BitVec.ofNat 64 off) .store (base + off)

/-- Four bytes of memory, the particle number in a slot, 0 for none, and a reference position, at the places of log 27. -/
def State.wordAt (s : State) (a : Nat) : Word := BitVec.ofNat 32 (s.homeNat a 4)
def State.slotOf (s : State) (c : CmdOp) (base cell k : Nat) : Nat := (s.wordAt (base + Grid.slotOff c.grid cell k)).toNat
def State.refOf (s : State) (c : CmdOp) (base i : Nat) : List Word := (List.range 3).map fun a => s.wordAt (base + Grid.refOff c.grid i + 4 * a)

/-- The position of a particle, placed on each axis, and the rounded squared distance of two placed positions (R348, R351). -/
def Grid.placed (h : Grid) (x : List Word) : List Word := (List.range 3).map fun a => placeX (h.per a) (h.len a) (x.getD a 0)
def Grid.apart (h : Grid) (x y : List Word) : Word := sumSq ((List.range 3).map fun a => sepX (h.per a) (h.len a) (x.getD a 0) (y.getD a 0))

/-- A cursor of NBRPAIR and the one after a candidate (R349, R351). -/
def pairCur (cell i st j : Nat) : Nat := cell + i * 2 ^ 18 + st * 2 ^ 25 + j * 2 ^ 30
def Grid.afterCell (h : Grid) (cell : Nat) : Nat := if cell + 1 < h.cells then pairCur (cell + 1) 0 0 0 else h.endCur
def Grid.afterSten (h : Grid) (cell i st : Nat) : Nat :=
  if st + 1 < (h.stencil cell).length then pairCur cell i (st + 1) 0 else if i + 1 < h.cap then pairCur cell (i + 1) 0 0 else h.afterCell cell
def Grid.afterPair (h : Grid) (cell i st j : Nat) : Nat := if j + 1 < h.cap then pairCur cell i st (j + 1) else h.afterSten cell i st

/-- `d` is `c` but for its running cursor, the cursor of its descriptor, and its pair that waits for the second of its granule. -/
def CmdOp.goesTo (c d : CmdOp) (cur saved : Nat) (half : Option (Word × Word)) : Prop :=
  d.cur = cur ∧ d.half = half ∧ (d.q 10).toNat = (c.q 10).toNat / 2 ^ 37 * 2 ^ 37 + saved ∧ (∀ k < 10, d.w k = c.w k) ∧
  { d with cur := c.cur, half := c.half, desc := c.desc } = c

/-- The reduction of integers (R209): the sum modulo 2^32, the smallest or largest, or bit by bit. -/
def reducesTo (u : Bool) (op : Nat) (l : List Word) (v : Word) : Prop :=
  let num := fun x : Word => if u then (x.toNat : Int) else x.toInt
  if op = 0 then v.toNat = (l.map (·.toNat)).sum % 2 ^ 32
  else if op = 1 then v ∈ l ∧ ∀ x ∈ l, num v ≤ num x
  else if op = 2 then v ∈ l ∧ ∀ x ∈ l, num x ≤ num v
  else ∀ k < 32, v.getLsbD k = if op = 3 then l.all (·.getLsbD k) else if op = 4 then l.any (·.getLsbD k)
    else (l.filter (·.getLsbD k)).length % 2 == 1

/-- A result is turned into a trap: the one that OVF = 11 gives it, or else the first of its conditions that FPCTL enables (02 R37, R38). -/
def FRes.trapsWith (r : FRes) (fpctl : Word) (cause : Nat) : Prop :=
  r.trap = some cause ∨ (r.trap = none ∧ ∃ k < 6, cause = 0x070 + k ∧ fpctl.getLsbD k = true ∧ r.flags.getLsbD k = true ∧
    ∀ j < k, ¬(fpctl.getLsbD j = true ∧ r.flags.getLsbD j = true))

/-- The rows whose words only compute a value or do nothing. -/
def computes (i : Instr) : Prop := (wordValue i).isSome ∨ (partsValue i).isSome ∨ (pairValue i).isSome ∨ i = .nop

/-- The words that go on whatever memory, engines and other threads do, where nothing they meet is turned into a trap. -/
def State.carriesOn (s : State) (i : Instr) : Prop :=
  computes i ∨ (∃ d words f, condValue i = some (d, words, f) ∧ s.allDelivered (f s.site.rep) = true) ∨
  (∃ d words f, sfuValue i = some (d, words, f) ∧ ∀ m ∈ s.site.members, ∀ t th, s.member? m = some (t, th) →
    (f s.site.rep th).trap = none ∧ th.view.fpctl.setWidth 6 = 0#6) ∨
  (∃ d a b f, laneValue i = some (d, a, b, f)) ∨ i = .yield ∨ (∃ b, i = .jset b) ∨ (∃ d a, i = .testf d a) ∨
  (∃ mask, i = .flgclr mask ∧ ∀ m ∈ s.site.members, ∀ t th, s.member? m = some (t, th) → th.count 7 = 0)

end Sys2Proof.Machine

open Sys2Proof Sys2Proof.Machine

/-- R88 to R98: a word of 04 with a 32-bit result (MOV, ADD, SUB, MULLO, MULHI, MULHIU, AND, OR, XOR, ANDN, SHL, SHR, SAR, ROL, MIN, MAX,
MINU, MAXU, SLT, SLTU, SEQ, ABSD, CLZ, FFS, POPC, BREV, ADDI, SHLI, SHRI, SARI, ANDI, MOVI, IALUI, SEL, BFE, BFI) executes, writes it to
its register and, in a clause that goes on, to its latch (R70), and nothing else changes: no other register, no flag, no memory. R101
to R109, R114: the packed, residue and sign words (CLZ.W, FFS.W, POPC.W, PADD, PSUB, PMIN, PMAX, PMUL, PDOT4, RQADD, RQSUB, RQMUL, RQMAD,
RQDEC, MAD, FNEG, FABS, FCLASS) likewise. R98 to R100: LEA, LEAX and the 64-bit MAD execute and write a pair, no latch and nothing
else. -/
def Obligations.IntegerResults : Prop :=
  (∀ (s : State) (i : Instr) (d : Dst) (v : Option Rep → Thread → Word), wordValue i = some (d, v) → s.ready i = true →
     ∃ t, exec i s = .next t ∧ (s.onMembers fun th => th.gotWord s.site d (v s.site.rep th)).leads i t) ∧
  (∀ (s : State) (i : Instr) (d : Dst) (v : Option Rep → Thread → Word), partsValue i = some (d, v) → s.ready i = true →
     ∃ t, exec i s = .next t ∧ (s.onMembers fun th => th.gotWord s.site d (v s.site.rep th)).leads i t) ∧
  (∀ (s : State) (i : Instr) (d : Dst) (v : Option Rep → Thread → Pair), pairValue i = some (d, v) → s.ready i = true →
     ∃ t, exec i s = .next t ∧ (s.onMembers fun th => th.gotPair s.site d (v s.site.rep th)).leads i t)

/-- R110 to R119, R102, R104, R107, R34, R40: an ALU word whose result may meet conditions (FADD, FSUB, FMUL, FMIN, FMAX, FSLT, FSLE,
FSEQ, FSUN, FALUI, FOPR, FFMA, DADD, DSUB, DMUL, DFMA, DCMP, HADD2, HMUL2, HOPR, HFMA2, FRND, FCVT, FTOI, ITOF, PADDS, PSUBS, RQENC, CVTI)
executes where none of the conditions traps: it writes its result, ORs the conditions into the flags and adds the clamped elements
to SATCOUNT; nothing else changes. What the results are as numbers, O4 and O5 say. -/
def Obligations.ConditionalResults : Prop :=
  ∀ (s : State) (i : Instr) (d : Dst) (words : Nat) (f : Option Rep → Thread → FRes), condValue i = some (d, words, f) →
    s.ready i = true → s.allDelivered (f s.site.rep) = true →
    ∃ t, exec i s = .next t ∧
      ((s.onMembers fun th => th.gotResult s.site d words (f s.site.rep th)).clamped (s.clamps (f s.site.rep))).leads i t

/-- R42, R43, R106: RQENC writes the residues of its operand, clamped to −8,388,480 to 8,388,479 with SAT and IX and one more clamped
element, or traps 0x083 after setting the flags where OVF = 11; RQDEC writes the integer of that range that the residues stand for,
and never traps; decoding undoes encoding, and the weights are 1 modulo their own modulus and 0 modulo the others. -/
def Obligations.ResidueNumbers : Prop :=
  (∀ (s : State) (d : Dst) (a : Sel), s.ready (.rqdec d a) = true →
    ∃ t, exec (.rqdec d a) s = .next t ∧
      (s.onMembers fun th => th.gotWord s.site d (BitVec.ofInt 32 (rqDecode (rd32 s.site.rep th .a a)))).leads (.rqdec d a) t) ∧
  (∀ w : Word, -8388480 ≤ rqDecode w ∧ rqDecode w ≤ 8388479) ∧
  (∀ v : Int, -8388480 ≤ v → v ≤ 8388479 → rqDecode (rqEncode v) = v) ∧
  (16711425 % 256 = 1 ∧ 16711425 % 255 = 0 ∧ 16711425 % 257 = 0 ∧ 8421376 % 256 = 0 ∧ 8421376 % 255 = 1 ∧ 8421376 % 257 = 0 ∧
    8421120 % 256 = 0 ∧ 8421120 % 255 = 0 ∧ 8421120 % 257 = 1) ∧
  ∀ (s : State) (d : Dst) (a : Sel) (ovf : BitVec 2) (m : Nat × Nat) (t : Team) (th : Thread) (core : Nat),
    s.readyOne (.rqenc d a ovf) m t th → (s.ctx? s.site.ctx).map (·.core) = some core →
    let v := (rd32 s.site.rep th .a a).toInt
    let out := v < -8388480 ∨ 8388479 < v
    (¬out → ∃ u, exec (.rqenc d a ovf) s = .next u ∧ (s.modThread (s.key m) (·.gotWord s.site d (rqEncode v))).leads (.rqenc d a ovf) u) ∧
    (out → ovf ≠ 3 → th.view.fpctl.setWidth 6 &&& 0x30#6 = 0 → ∃ u, exec (.rqenc d a ovf) s = .next u ∧
      ((s.modThread (s.key m) fun y => { y.gotWord s.site d (rqEncode v) with flags := y.flags ||| 0x30#6 }).clamped 1).leads (.rqenc d a ovf) u) ∧
    (out → ovf = 3 → s.takes core th 0x083 = true → ∃ u, exec (.rqenc d a ovf) s = .next u ∧
      s.trapsTo u (.rqenc d a ovf) m { th with flags := th.flags ||| 0x30#6 } core 0x083 s.site.w0 0)

/-- R113: FSLT, FSLE, FSEQ and FSUN write 1 or 0, with +0 equal to −0; a NaN makes the first three 0 and the last 1, and sets IV in FSLT
and FSLE, where no enable turns that into a trap. R112: FMIN and FMAX give an operand unchanged, −0 below +0, a lone NaN losing and two
giving the canonical NaN. R39, R104, R119: a conversion to an integer rounds to an integer, and an integer conversion reads its
type, and both clamp to the limits of their destination's, or trap with OVF = 11 (02 R32, R36: rounding and overflow); FRND gives an integral value. R113, R117: less,
equal and unordered of every format, and so those of DCMP, order the patterns as the numbers that they stand for. R121, R122: the
special functions of special and exact arguments; for every other argument that does not overflow, whatever Config.special chooses (log
5), the result is a number within the bound of R121, in units of the last place or absolute, of the exact value, which the model
evaluates to 200 bits (`exactAt`; that of FRCP and FRSQ is pinned here), with IX, and with UF where it is subnormal. -/
def Obligations.FloatCompares : Prop :=
  (∀ (s : State) (i : Instr) (d : Dst) (a b : Sel) (f : Word → Word → Bool) (iv : Bool), compareOf i = some (d, a, b, f, iv) →
    s.ready i = true →
    (∀ m ∈ s.site.members, ∀ t th, s.member? m = some (t, th) → iv = true →
      (nanWord (rd32 s.site.rep th .a a) || nanWord (rd32 s.site.rep th .b b)) = true → th.view.fpctl.getLsbD 0 = false) →
    ∃ t, exec i s = .next t ∧ (s.onMembers fun th =>
      let x := rd32 s.site.rep th .a a
      let y := rd32 s.site.rep th .b b
      { th.gotWord s.site d (if f x y then 1 else 0) with
        flags := if iv && (nanWord x || nanWord y) then th.flags ||| 1#6 else th.flags }).leads i t) ∧
  (∀ (f : Fmt) (x y : Nat), f.listed → x < 2 ^ (f.eb + f.mb + 1) → y < 2 ^ (f.eb + f.mb + 1) →
    f.minMax false x y = f.least x y ∧ f.minMax true x y = f.greatest x y) ∧
  (∀ (rm : BitVec 3) (ovf : BitVec 2) (dt : BitVec 4) (v : FV), rm.toNat < 4 → (ovf = 0 ∨ ovf = 3) → dt.toNat < 8 →
    let r := toInt rm ovf (intCode dt).2 (intCode dt).1 (intOut dt) v
    (∀ x : ℝ, v.is x → ∃ k : ℤ, roundsTo rm x k ∧ clampTo (typeLow dt) (typeHigh dt) (typeBits dt) ovf 0x31 k r ∧
      (typeLow dt ≤ k → k ≤ typeHigh dt → r.flags &&& 0x2F#6 = 0 ∧ (r.flags.getLsbD 4 = true ↔ (k : ℝ) ≠ x))) ∧
    (v = .nan → r = if ovf = 3 then ⟨0, 1, 0, some 0x081⟩ else ⟨0, 1, 0, none⟩) ∧
    (∀ neg, v = .inf neg → clampTo (typeLow dt) (typeHigh dt) (typeBits dt) ovf 0x31 (if neg then typeLow dt - 1 else typeHigh dt + 1) r)) ∧
  (∀ (st dt : BitVec 4) (ovf : BitVec 2) (x : Nat), st.toNat < 8 → dt.toNat < 8 → (ovf = 0 ∨ ovf = 3) →
    let v : Int := if st.toNat < 4 then (BitVec.ofNat (8 * 2 ^ st.toNat) x).toInt else (x % 2 ^ (8 * 2 ^ (st.toNat - 4)) : Nat)
    cvtiSrc st x = v ∧ (let r := narrow (intLo (intCode dt).2 (intCode dt).1) (intHi (intCode dt).2 (intCode dt).1) (intOut dt) ovf 0x080 v
      clampTo (typeLow dt) (typeHigh dt) (typeBits dt) ovf 0x30 v r ∧ (typeLow dt ≤ v → v ≤ typeHigh dt → r.flags = 0))) ∧
  (∀ (f : Fmt) (rm : BitVec 3) (x : Nat) (a : ℝ), f = f32 ∨ f = f64 → rm.toNat < 4 → x < 2 ^ (f.eb + f.mb + 1) → (f.value x).is a →
    ∃ k : ℤ, roundsTo rm a k ∧ (f.value (f.integral rm x)).is k ∧ (f.integral rm x).testBit (f.eb + f.mb) = x.testBit (f.eb + f.mb)) ∧
  (∀ (f : Fmt) (x y : Nat), f.listed → x < 2 ^ (f.eb + f.mb + 1) → y < 2 ^ (f.eb + f.mb + 1) →
    let numbers := f.nanBits x = false ∧ f.nanBits y = false
    (f.value x).isNan = f.nanBits x ∧ ((f.value x).lt (f.value y) = true ↔ numbers ∧ f.order x < f.order y) ∧
    ((f.value x).eq (f.value y) = true ↔ numbers ∧ f.order x = f.order y) ∧
    ∀ a b : ℝ, (f.value x).is a → (f.value y).is b → (f.order x < f.order y ↔ a < b)) ∧
  (∀ (fn : Nat) (a : Word) (neg : Bool) (m : Nat) (e : Int), fn < 6 → specialRow fn a = none → f32.value a.toNat = .fin neg m e →
    let x : ℝ := (if neg then -1 else 1) * m * (2 : ℝ) ^ e
    (fn = 2 → x < 128) → (fn = 0 → (2 : ℝ) ^ (-128 : ℤ) ≤ |x|) →
    let r := specialFn Config.special fn a
    let v := (exactAt fn neg m e).1
    let k := (exactAt fn neg m e).2
    let exact : ℝ := v * (2 : ℝ) ^ (-200 - k)
    (∃ y : ℝ, (f32.value r.bits).is y ∧ |y - exact| ≤ if 4 ≤ fn ∨ (fn = 3 ∧ 0x3F000000 ≤ a.toNat ∧ a.toNat ≤ 0x40000000) then (2 : ℝ) ^ (-22 : ℤ)
      else (if fn < 2 then 1 else 2) * (2 : ℝ) ^ (max ((v.natAbs.log2 : ℤ) - 200 - k) (-126) - 23)) ∧
    r.bits < 2 ^ 32 ∧ r.sat = 0 ∧ r.trap = none ∧
    (¬exactArg fn a → r.bits % 2 ^ 31 ≠ 0 → r.flags = if r.bits % 2 ^ 31 < 0x00800000 then 0x18 else 0x10) ∧
    (¬exactArg fn a → r.flags.getLsbD 4 = true) ∧
    (fn = 0 → |exact - 1 / x| ≤ (2 : ℝ) ^ (-200 - k)) ∧ (fn = 1 → |exact - 1 / √x| ≤ (2 : ℝ) ^ (-200 - k))) ∧
  (∀ (fn : Nat) (a r : Word) (fl : BitVec 6), fn < 6 → specialRow fn a = some (r, fl) → specialFn Config.special fn a = ⟨r.toNat, fl, 0, none⟩) ∧
  (∀ n : Int, -149 ≤ n → n ≤ 127 →
    (-127 ≤ n → n ≤ 126 → specialFn Config.special 0 (pow32 n) = .ok (pow32 (-n)).toNat ∧
      specialFn Config.special 0 (pow32 n ||| 0x80000000) = .ok (pow32 (-n) ||| 0x80000000).toNat) ∧
    (n % 2 = 0 → specialFn Config.special 1 (pow32 n) = .ok (pow32 (-(n / 2))).toNat) ∧
    (∀ a : Word, (f32.value a.toNat).is n → specialFn Config.special 2 a = .ok (pow32 n).toNat) ∧
    ((f32.value (specialFn Config.special 3 (pow32 n)).bits).is n ∧ (specialFn Config.special 3 (pow32 n)).flags = 0)) ∧
  ∀ (a : Word) (x : ℝ), (f32.value a.toNat).is x →
    (128 ≤ x → specialFn Config.special 2 a = f32.overflowed 0 1 false 0) ∧
    (x ≠ 0 → |x| < (2 : ℝ) ^ (-128 : ℤ) → specialFn Config.special 0 a = f32.overflowed 0 1 (decide (a.msb = true)) 0)

/-- R32, R34: of the patterns of a format, an exact nonzero value that does not overflow is given under RNE the nearest, and on a tie
the one with an even least significant bit; under RTZ, and under RDN or RUP towards zero, the largest magnitude not above it; and
under RDN or RUP away from zero the smallest magnitude not below it. IX says whether it is inexact. R36: beyond the largest
finite number, OVF and the mode say what is delivered. R111, R115 to R120: sums, differences, products, fused sums, quotients, square
roots and conversions are the exact result rounded once. R110: zero results. -/
def Obligations.RoundingModes : Prop :=
  (∀ (f : Fmt) (rm : BitVec 3) (ovf : BitVec 2) (trap : Nat) (neg : Bool) (m : Nat) (e : Int), f = f16 ∨ f = bf16 ∨ f = f32 ∨ f = f64 →
    m ≠ 0 → rm.toNat < 4 → (f.round rm ovf trap neg m e).flags.getLsbD 2 = false →
    let r := (f.round rm ovf trap neg m e).bits
    ∃ mr er, f.value r = .fin neg mr er ∧
      ((f.round rm ovf trap neg m e).flags.getLsbD 4 = false ↔ magLe mr er m e ∧ magLe m e mr er) ∧
      ∀ (b mb : Nat) (eb : Int), f.value b = .fin neg mb eb →
        (rm = 0 → ∀ lo, lo ≤ e → lo ≤ er → lo ≤ eb → magGap mr er m e lo ≤ magGap mb eb m e lo ∧
          (magGap mr er m e lo = magGap mb eb m e lo → (magLe mr er mb eb ∧ magLe mb eb mr er) ∨ r % 2 = 0)) ∧
        (rm = 1 ∨ (rm = 2 ∧ neg = false) ∨ (rm = 3 ∧ neg = true) → magLe mr er m e ∧ (magLe mb eb m e → magLe mb eb mr er)) ∧
        (((rm = 2 ∧ neg = true) ∨ (rm = 3 ∧ neg = false)) → magLe m e mr er ∧ (magLe m e mb eb → magLe mr er mb eb))) ∧
  (∀ (f : Fmt) (rm : BitVec 3) (ovf : BitVec 2) (trap : Nat) (neg : Bool) (m : Nat) (e : Int), f.listed → m ≠ 0 → rm.toNat < 4 →
    f.delivers rm ovf trap ((if neg then -1 else 1) * m * (2 : ℝ) ^ e) (f.round rm ovf trap neg m e)) ∧
  (∀ (f : Fmt) (rm : BitVec 3) (ovf : BitVec 2) (x y z : Nat) (a b c : ℝ), f.listed → rm.toNat < 4 →
    (f.value x).is a → (f.value y).is b → (f.value z).is c →
    (a + b ≠ 0 → f.delivers rm ovf 0x076 (a + b) (addOf f rm ovf x y)) ∧ (a - b ≠ 0 → f.delivers rm ovf 0x076 (a - b) (subOf f rm ovf x y)) ∧
    (a * b ≠ 0 → f.delivers rm ovf 0x076 (a * b) (mulOf f rm ovf x y)) ∧
    (a * b + c ≠ 0 → f.delivers rm ovf 0x076 (a * b + c) (fmaOf f rm ovf x y z)) ∧
    (a ≠ 0 → b ≠ 0 → f.delivers rm ovf 0x076 (a / b) (f.quotient rm ovf x y)) ∧
    (0 < a → f.delivers rm ovf 0x076 (√a) (f.root rm ovf x)) ∧
    (∀ g : Fmt, g.listed → a ≠ 0 → g.delivers rm ovf 0x082 a (convert f g rm ovf x)) ∧
    (a + b = 0 → addOf f rm ovf x y = .ok (if (x.testBit (f.eb + f.mb) = true ∧ y.testBit (f.eb + f.mb) = true) ∨
      (rm = 2 ∧ x.testBit (f.eb + f.mb) ≠ y.testBit (f.eb + f.mb)) then 2 ^ (f.eb + f.mb) else 0)) ∧
    (a * b = 0 → mulOf f rm ovf x y = .ok (if x.testBit (f.eb + f.mb) = y.testBit (f.eb + f.mb) then 0 else 2 ^ (f.eb + f.mb)))) ∧
  ∀ (f : Fmt) (rm : BitVec 3) (ovf : BitVec 2) (v : Int), f.listed → rm.toNat < 4 → v ≠ 0 → f.delivers rm ovf 0x076 v (fromInt f rm ovf v)

/-- R129: a member that executes a word without a transfer of control stands at the next word of its clause, or, past the last one, at
the header that follows the clause with word index 0, whatever that header's JT: the words of ALU and SFU, the cross-lane words, and
YIELD, JSET, TESTF and FLGCLR here; every other word without a transfer in the statement that says when it executes, by
`State.leads`. -/
def Obligations.WordsAdvance : Prop :=
  ∀ (s : State) (i : Instr), s.carriesOn i → s.ready i = true → s.site.rep = none → s.inLine i →
    ∃ t, exec i s = .next t ∧ ∀ m ∈ s.site.members, t.stands (s.key m) (s.site.past i)

/-- R11, R13: g0 reads as 0 and a write to it is discarded; any other register reads what was written to it, and no other register
changes; a pair consists of an even register and the next, and the pair named g0 is 0 and takes no write. R12, R13: of every
instruction, a word that names a register beyond the allocation takes OPERAND qualifier 1, one that names an odd register as a pair
(or an unaligned quad or octet) qualifier 2, and one that does neither takes none; which of the two where both hold is the model's
choice (log 74). -/
def Obligations.RegistersRead : Prop :=
  (∀ (st : Site) (th : Thread) (n : Nat) (i : Instr), st.rep = none → n ≤ 128 → wordQual i st = none → unwrittenLatch i th = false →
    repMisuse i none st.count st.wi (encode i).length = false →
    let names := fun r w : Nat => ∃ o ∈ opds i, o.sel.toNat = r ∧ o.words = w ∧ r < 128
    (wordFault i st th n = none ↔ ∀ r w, names r w → r % w = 0 ∧ r + w ≤ n) ∧
    ((∃ r w, names r w ∧ n < r + w) → (∀ r w, names r w → r % w = 0) → wordFault i st th n = some 0x011) ∧
    ((∃ r w, names r w ∧ r % w ≠ 0) → (∀ r w, names r w → r < n ∧ (r % w = 0 → r + w ≤ n)) → wordFault i st th n = some 0x012)) ∧
  (∀ (th : Thread) (r q : Nat) (v : Word), th.get 0 = 0 ∧ th.set 0 v = th ∧
    (0 < r → r < 128 → (th.set r v).get r = v) ∧ (q ≠ r → (th.set r v).get q = th.get q)) ∧
  (∀ (th : Thread) (r : Nat), th.pair 0 = 0 ∧ (0 < r → th.pair r = th.get (r + 1) ++ th.get r)) ∧
  (∀ (th : Thread) (st : Site) (v : Pair), th.gotPair st ⟨0, false⟩ v = th ∨ st.rep.isSome = true) ∧
  (∀ (st : Site) (th : Thread) (n : Nat) (d : Dst) (a b : Sel), st.rep = none → n ≤ 128 → wordQual (.add d a b) st = none →
    a.toNat < 128 → b.toNat < 128 → (n ≤ d.r.toNat ∨ n ≤ a.toNat ∨ n ≤ b.toNat) → wordFault (.add d a b) st th n = some 0x011) ∧
  ∀ (st : Site) (th : Thread) (n : Nat) (d : Dst) (a b : Sel), st.rep = none → n ≤ 128 → wordQual (.lea d a b) st = none →
    a.toNat < 128 → b.toNat < 128 → d.r.toNat < n → (d.r.toNat % 2 = 1 ∨ (a.toNat % 2 = 1 ∧ a.toNat < n ∧ d.r.toNat + 2 ≤ n)) →
    wordFault (.lea d a b) st th n = some 0x012

/-- R79, R80, R270, R271: a word that raises a trap of its encoding, its place, its latches or its registers for the one member that
executes it makes it take that trap, with the word as EINFO, and has no other effect: whatever instruction it is. R79: a word whose
opcode the map does not assign raises ILLEGAL qualifier 0 for the one member that executes it. -/
def Obligations.FaultingWordsTrap : Prop :=
  (∀ (s : State) (i : Instr) (m : Nat × Nat) (t : Team) (th : Thread) (core q : Nat), i.isTurn = false →
     (∀ w, i ≠ .reservedOpcode w) → s.sited = true → s.site.members = [m] → s.member? m = some (t, th) → th.run = .issuing →
     (s.ctx? s.site.ctx).map (·.core) = some core → wordFault i s.site th t.n = some q → s.takes core th q = true →
     ∃ u, exec i s = .next u ∧ s.trapsTo u i m th core q s.site.w0 0) ∧
  (∀ (s : State) (w : Word) (m : Nat × Nat) (t : Team) (th : Thread) (core : Nat), s.sited = true → s.site.members = [m] →
     s.member? m = some (t, th) → th.run = .issuing → (s.ctx? s.site.ctx).map (·.core) = some core → s.takes core th 0 = true →
     ∃ u, exec (.reservedOpcode w) s = .next u ∧ s.trapsTo u (.reservedOpcode w) m th core 0x000 w 0)

/-- R37, R38: a result that meets a condition that OVF = 11 traps, or else one that FPCTL enables, writes no destination and adds no
count: its conditions join the flags, and the thread takes the trap, with the word as EINFO: the ALU words, and R121 and R123 the
SFU words; that FDIV with OVF = 11 traps at the word with no enable too is the model's choice (log 92). R209: where the result of
REDUX does so, every member that executes it takes the trap. -/
def Obligations.ConditionsTrap : Prop :=
  (∀ (s : State) (i : Instr) (d : Dst) (words : Nat) (f : Option Rep → Thread → FRes) (m : Nat × Nat) (t : Team) (th : Thread)
    (core cause : Nat), (condValue i = some (d, words, f) ∨ sfuValue i = some (d, words, f)) → s.readyOne i m t th →
    (s.ctx? s.site.ctx).map (·.core) = some core → (f s.site.rep th).trapsWith th.view.fpctl cause → s.takes core th cause = true →
    ∃ u, exec i s = .next u ∧
      s.trapsTo u i m { th with flags := th.flags ||| (f s.site.rep th).flags } core cause s.site.w0 0) ∧
  ∀ (s : State) (d : Dst) (a : Sel) (ty : BitVec 2) (op : BitVec 4) (rm : BitVec 3) (ovf : BitVec 2) (core cause : Nat),
    let i : Instr := .redux d a ty op rm ovf
    let r := reduxOf ty op rm ovf (s.lanes a a)
    s.ready i = true → (s.ctx? s.site.ctx).map (·.core) = some core →
    (∀ m ∈ s.site.members, ∀ t th, s.member? m = some (t, th) → r.trapsWith th.view.fpctl cause ∧ s.takes core th cause = true) →
    let trapped := fun th : Thread =>
      ({ th with flags := th.flags ||| r.flags } : Thread).trapped cause s.site.wi (s.resumePC i cause) s.site.w0 0 (s.vector core th cause)
    ∃ u, exec i s = .next u ∧ (s.onMembers trapped).alike u ∧
      ∀ m ∈ s.site.members, ∀ th, s.thread? (s.key m) = some th → u.thread? (s.key m) = some (trapped th)

/-- R275, R276: TRAP takes cause 0x120 plus its code, with its operand as EINFO, and BKPT takes cause 0x110 while DBGCTL.BKE is 1; both
resume after the word. R91, R276: NOP, and BKPT where no member's DBGCTL.BKE is 1, have no effect but to go on. -/
def Obligations.UserTraps : Prop :=
  (∀ (s : State) (m : Nat × Nat) (t : Team) (th : Thread) (core : Nat), (s.ctx? s.site.ctx).map (·.core) = some core →
     (∀ a code, s.readyOne (.trap a code) m t th → s.takes core th (0x120 + code.toNat) = true →
       ∃ u, exec (.trap a code) s = .next u ∧
         s.trapsTo u (.trap a code) m th core (0x120 + code.toNat) (rd32 s.site.rep th .a a) 0) ∧
     ∀ code, s.readyOne (.bkpt code) m t th → th.view.dbgctl.getLsbD 0 = true → s.takes core th 0x110 = true →
       ∃ u, exec (.bkpt code) s = .next u ∧ s.trapsTo u (.bkpt code) m th core 0x110 (code.setWidth 32) 0) ∧
  (∀ (s : State) (i : Instr), s.ready i = true →
     (i = .nop ∨ ∃ code, i = .bkpt code ∧ ∀ m ∈ s.site.members, ∀ t th, s.member? m = some (t, th) → th.view.dbgctl.getLsbD 0 = false) →
     ∃ t, exec i s = .next t ∧ s.leads i t)

/-- R269, R270, R271: what a trap that a handler takes writes: ESTAT with INH, RWI, FWI, PPRV and CAUSE, EINFO, EADDR and EPC; the PC is
the handler's with WI 0, and no general register, flag or count changes. R270, R273: a trap inside a handler aborts the thread's
team: every thread ends, and the launch's completion record is to hold the outer trap's values, with CAUSE 0x102 and the nested
cause as EINFO. R274: TRET in a handler whose EPC meets R130 returns to EPC and RWI at the level of PPRV, and clears INH and nothing
else of ESTAT; outside a handler it takes cause 0x103. -/
def Obligations.TrapsAndReturns : Prop :=
  (∀ (s : State) (k : Key) (th : Thread) (core cause fwi : Nat) (resume : PC) (einfo : Word) (eaddr : Pair),
     s.thread? k = some th → (s.ctx? k.ctx).map (·.core) = some core → th.run ≠ .ended → s.takes core th cause = true →
     cause < 512 → fwi < 16 → resume.wi < 16 →
     ∃ x, (s.takeTrap k cause fwi resume einfo eaddr).thread? k = some x ∧
       (∀ j, j ≠ k → (s.takeTrap k cause fwi resume einfo eaddr).thread? j = s.thread? j) ∧
       (s.takeTrap k cause fwi resume einfo eaddr).pkg = s.pkg ∧ (s.takeTrap k cause fwi resume einfo eaddr).cores = s.cores ∧
       x.estat.extractLsb' 0 9 = BitVec.ofNat 9 cause ∧ x.estat.getLsbD 9 = th.priv ∧ x.estat.extractLsb' 10 4 = BitVec.ofNat 4 fwi ∧
       x.estat.extractLsb' 14 4 = BitVec.ofNat 4 resume.wi ∧ x.estat.getLsbD 18 = true ∧ x.estat.extractLsb' 19 13 = 0 ∧
       x.einfo = einfo ∧ x.eaddr = eaddr ∧ x.epc = resume.h.signExtend 64 ∧
       (if delegated th.view.trapdlg cause && th.view.trapvec != 0 then x.priv = false ∧ x.pc = ⟨th.view.trapvec.setWidth 56, 0⟩
        else x.priv = true ∧ x.pc = ⟨(s.die (dieOf core)).sysvec.setWidth 56, 0⟩) ∧
       x.regs = th.regs ∧ x.pend = th.pend ∧ x.counts = th.counts ∧ x.flags = th.flags ∧ x.bars = th.bars ∧ x.view = th.view ∧
       x.esave0 = th.esave0 ∧ x.esave1 = th.esave1 ∧ x.repidx = th.repidx) ∧
  (∀ (s : State) (k : Key) (t : Team) (th : Thread) (c : Ctx) (l : Launch) (cause fwi : Nat) (resume : PC) (einfo : Word) (eaddr : Pair),
     s.team? k.ctx k.tslot = some t → tget t.threads k.tid = some th → s.ctx? k.ctx = some c → tget s.launches t.launch = some l →
     th.run ≠ .ended → th.inh = true → l.abort = none → (t.threads.map (·.1)).Nodup →
     let u := s.takeTrap k cause fwi resume einfo eaddr
     (∃ t', u.team? k.ctx k.tslot = some t' ∧ t'.aborted = true ∧ ∀ e ∈ t'.threads, e.2.run = .ended) ∧
       (∀ c' j, (c', j) ≠ (k.ctx, k.tslot) → u.team? c' j = s.team? c' j) ∧
       ∃ l', tget u.launches t.launch = some l' ∧ l'.aborted = true ∧
         l'.abort = some ⟨k.tid, t.index, (th.estat &&& 0xFFFFFE00#32) ||| 0x102#32, BitVec.ofNat 32 cause, t.flogstat, th.epc, th.eaddr⟩) ∧
  (∀ (s : State) (m : Nat × Nat) (t : Team) (th : Thread) (core : Nat), s.readyOne .tret m t th →
     (s.ctx? s.site.ctx).map (·.core) = some core →
     (th.inh = true → codeAddr th.epc = true → ∃ u x, exec .tret s = .next u ∧
       (s.modThread (s.key m) fun y => { y with
         priv := th.estat.getLsbD 9, estat := th.estat &&& 0xFFFBFFFF#32
         ssSkip := th.ssSkip || th.estat.extractLsb' 0 9 == 0x111#9 }).alike u ∧
       u.thread? (s.key m) = some x ∧ x.pc = ⟨th.epc.setWidth 56, (th.estat.extractLsb' 14 4).toNat⟩) ∧
     (th.inh = false → s.takes core th 0x103 = true → ∃ u, exec .tret s = .next u ∧ s.trapsTo u .tret m th core 0x103 0 0))

/-- R62, R130 to R135: a transfer whose target is a multiple of 4 in canonical form and holds a header with JT = 1 goes there, word
index 0, and a call writes the address after its clause to its link; nothing else changes but what the fetch of the header does.
R131: a BR whose condition does not hold goes on at the header after its clause, and nothing else changes. R62, R130, R132: a
transfer to an address that is not canonical or not a multiple of 4 takes 0x02C with it as EADDR, and one to a header with JT = 0
takes ILLEGAL qualifier 8; no link is written. -/
def Obligations.ControlTransfers : Prop :=
  (∀ (s : State) (i : Instr) (m : Nat × Nat) (t : Team) (th : Thread) (a : Pair) (w : Word) (u : State), s.readyOne i m t th →
     transferTo s.site th i = some a → canonical a = true → a.toNat % 4 = 0 → s.fetch (s.key m) a = (.word w, u) → w.getLsbD 16 = true →
     ∃ v, exec i s = .next v ∧ (u.modThread (s.key m) (Thread.linked · s.site i)).alike v ∧ v.stands (s.key m) ⟨a.setWidth 56, 0⟩) ∧
  (∀ (s : State) (m : Nat × Nat) (t : Team) (th : Thread) (cond : BitVec 3) (a b : Sel) (disp : BitVec 32),
     s.readyOne (.br cond a b disp) m t th → transferTo s.site th (.br cond a b disp) = none →
     ∃ v, exec (.br cond a b disp) s = .next v ∧ s.alike v ∧ v.stands (s.key m) ⟨s.site.following, 0⟩) ∧
  (∀ (s : State) (i : Instr) (m : Nat × Nat) (t : Team) (th : Thread) (core : Nat) (a : Pair), s.readyOne i m t th →
     transferTo s.site th i = some a → (s.ctx? s.site.ctx).map (·.core) = some core →
     ((canonical a = false ∨ a.toNat % 4 ≠ 0) → s.takes core th 0x02C = true →
       ∃ v, exec i s = .next v ∧ s.trapsTo v i m th core 0x02C 0 a) ∧
     ∀ w u, canonical a = true → a.toNat % 4 = 0 → s.fetch (s.key m) a = (.word w, u) → w.getLsbD 16 = false → s.takes core th 0x008 = true →
       ∃ v, exec i s = .next v ∧ u.trapsTo v i m th core 0x008 s.site.w0 0)

/-- R136, R137: JSET makes its thread EXPECTED on the barrier; JDROP makes it NONE, and the release test follows. R137: JWAIT makes its
thread ARRIVED on the barrier, and it waits at its word while another live thread of its team is EXPECTED there; where none is,
every thread that waits at the barrier is released and goes on after its JWAIT, this one among them. R139: where the arrival leaves
every live thread of the team at a barrier and releases none, the one with the lowest TID is EXPECTED again and takes JOIN_CYCLE
at its JWAIT word, with the barriers on which threads are EXPECTED and ARRIVED as EINFO (as they are before that, log 80). -/
def Obligations.JoinBarriers : Prop :=
  (∀ (s : State) (m : Nat × Nat) (t : Team) (th : Thread) (b : BitVec 8),
     (s.readyOne (.jset b) m t th → ∃ v, exec (.jset b) s = .next v ∧ (s.modThread (s.key m) (·.setBar b.toNat .expected)).leads (.jset b) v) ∧
     (s.readyOne (.jdrop b) m t th → s.inFlight (s.key m) = false → (t.threads.map (·.1)).Nodup →
       ∃ v, exec (.jdrop b) s = .next v ∧
         ((s.modThread (s.key m) (·.setBar b.toNat .none)).tested s.site.ctx m t b.toNat).leads (.jdrop b) v)) ∧
  (∀ (s : State) (m : Nat × Nat) (t : Team) (th : Thread) (b : BitVec 8),
     s.readyOne (.jwait b) m t th → s.inFlight (s.key m) = false → (t.threads.map (·.1)).Nodup →
     (t.expectsOther m.2 b.toNat = true → ∃ e ∈ t.threads, e.1 ≠ m.2 ∧ e.2.run ≠ .ended ∧ e.2.atBarrier = none) →
     let after := afterWord s.site.h s.site.count s.site.wi 1
     let wait := Run.waiting (.barrier b.toNat after s.site.cls.latched)
     ∃ v, exec (.jwait b) s = .next v ∧
       ((s.modThread (s.key m) fun y => { y.setBar b.toNat .arrived with run := wait }).tested s.site.ctx m t b.toNat).alike v ∧
       v.stands (s.key m) (if t.expectsOther m.2 b.toNat then ⟨s.site.h, s.site.wi⟩ else after)) ∧
  (∀ (s : State) (m : Nat × Nat) (t : Team) (th : Thread) (b : BitVec 8) (core tid at_ : Nat) (y : Thread) (after_ : PC) (restart : Bool),
     s.readyOne (.jwait b) m t th → s.inFlight (s.key m) = false → (s.ctx? s.site.ctx).map (·.core) = some core →
     t.expectsOther m.2 b.toNat = true → (∀ e ∈ t.threads, e.1 ≠ m.2 → e.2.run ≠ .ended → e.2.atBarrier.isSome = true) → rising t.threads →
     let wait := Run.waiting (.barrier b.toNat (afterWord s.site.h s.site.count s.site.wi 1) s.site.cls.latched)
     let x := { th.setBar b.toNat .arrived with run := wait, pc := ⟨s.site.h, s.site.wi⟩ }
     let ts := tset t.threads m.2 x
     tget ts tid = some y → y.run = .waiting (.barrier at_ after_ restart) → (∀ e ∈ ts, e.2.run ≠ .ended → tid ≤ e.1) →
     s.takes core y 0x0A0 = true →
     let z := (y.setBar at_ .expected).trapped 0x0A0 y.pc.wi (if restart then ⟨y.pc.h, 0⟩ else y.pc)
       (BitVec.ofNat 32 (barriersIn ts .expected * 65536 + barriersIn ts .arrived)) 0 (s.vector core y 0x0A0)
     ∃ v, exec (.jwait b) s = .next v ∧ v.thread? (s.key (m.1, tid)) = some z ∧
       ((s.modThread (s.key m) fun _ => x).modThread (s.key (m.1, tid)) fun _ => z).alike v)

/-- R23, R124, R137, R141: EXIT ends its thread, whose flags join its team's and which is NONE on every barrier; its QPOP requests are
withdrawn, but for those that have been assigned an entry, and the barriers are tested. Where some other live thread of the team is
not at a barrier, or this one was its last, nothing else changes. R370:
TAIL of a record at a multiple of 64 ends its thread, as EXIT does, and the team's first such record is to follow it; of any other
address it takes 0x0F1. -/
def Obligations.ThreadsEnd : Prop :=
  (∀ (s : State) (m : Nat × Nat) (t : Team) (th : Thread), s.readyOne .exit m t th → (t.threads.map (·.1)).Nodup →
     ((∃ e ∈ t.threads, e.1 ≠ m.2 ∧ e.2.run ≠ .ended ∧ e.2.atBarrier = none) ∨ ∀ e ∈ t.threads, e.1 ≠ m.2 → e.2.run = .ended) →
     ∃ v x, exec .exit s = .next v ∧ v.thread? (s.key m) = some x ∧ x.run = .ended ∧ x.bars = Vector.replicate 16 .none ∧
       (((List.range 16).foldl (fun u b => u.tested s.site.ctx m t b)
           ((s.modTeam s.site.ctx m.1 fun t => { t with endFlags := t.endFlags ||| th.flags }).modThread (s.key m) fun y =>
             { y with run := .ended, bars := Vector.replicate 16 .none })).dropRequests (s.key m)).alike v) ∧
  (∀ (s : State) (a : Sel) (retain : Bool) (m : Nat × Nat) (t : Team) (th : Thread) (core : Nat), s.readyOne (.tail a retain) m t th →
     (s.ctx? s.site.ctx).map (·.core) = some core → (t.threads.map (·.1)).Nodup →
     ((∃ e ∈ t.threads, e.1 ≠ m.2 ∧ e.2.run ≠ .ended ∧ e.2.atBarrier = none) ∨ ∀ e ∈ t.threads, e.1 ≠ m.2 → e.2.run = .ended) →
     ((rd64 s.site.rep th .a a).toNat % 64 = 0 → ∃ v x, exec (.tail a retain) s = .next v ∧ v.thread? (s.key m) = some x ∧ x.run = .ended ∧
       (((List.range 16).foldl (fun u b => u.tested s.site.ctx m t b)
           ((s.modTeam s.site.ctx m.1 fun t => { t with endFlags := t.endFlags ||| th.flags
                                                        tail := t.tail.or (some (rd64 s.site.rep th .a a, retain)) }).modThread (s.key m) fun y =>
             { y with run := .ended, bars := Vector.replicate 16 .none })).dropRequests (s.key m)).alike v) ∧
     ((rd64 s.site.rep th .a a).toNat % 64 ≠ 0 → s.takes core th 0x0F1 = true →
       ∃ v, exec (.tail a retain) s = .next v ∧ s.trapsTo v (.tail a retain) m th core 0x0F1 0 0))

/-- R140: YIELD gives its thread the deferral mark, and its group is to dissolve at the end of the clause. R77, R78, R142: REP has its
group repeat its target COUNTM1 + 1 times, with the marked fields stepped; its member stays at the REP word, and nothing else
changes. R16, R142: each repeat of a target that goes on raises the REPIDX of a member that has repeats left to do, which stays at the
REP word, and gives one that has done its last REPIDX 0 and the place past the target. R77, R78: in repeat i the registers that the
marked fields of the target name are i × u further on, u being the registers that the field names. -/
def Obligations.YieldsAndRepeats : Prop :=
  (∀ (s : State) (m : Nat × Nat) (t : Team) (th : Thread), s.readyOne .yield m t th →
     ∃ v, exec .yield s = .next v ∧ (s.modThread (s.key m) fun y => { y with deferred := true }).leads .yield v ∧
       ∀ g, s.groupOf v = some g → g.dissolve = true) ∧
  (∀ (s : State) (cnt : BitVec 6) (st : BitVec 4) (m : Nat × Nat) (t : Team) (th : Thread) (g : Group), s.readyOne (.rep cnt st) m t th →
     s.groupOf s = some g → g.cols.length = g.members.length → th.pc = ⟨s.site.h, 1⟩ →
     ∃ v g', exec (.rep cnt st) s = .next v ∧ s.alike v ∧ v.stands (s.key m) ⟨s.site.h, 1⟩ ∧ s.groupOf v = some g' ∧
       g'.rep = some ⟨cnt.toNat + 1, st⟩ ∧ g'.members = g.members) ∧
  (∀ (s : State) (i : Instr) (r : Rep), s.carriesOn i → s.ready i = true → s.site.rep = some r → s.inLine i →
     ∃ t, exec i s = .next t ∧ ∀ m ∈ s.site.members, ∀ th, s.thread? (s.key m) = some th → ∃ x, t.thread? (s.key m) = some x ∧
       (th.repidx.toNat + 1 < r.n → x.repidx.toNat = th.repidx.toNat + 1 ∧ x.pc = ⟨s.site.h, 1⟩) ∧
       (r.n ≤ th.repidx.toNat + 1 → x.repidx = 0 ∧ x.pc = s.site.past i)) ∧
  ∀ (r : Rep) (th : Thread) (sel : Sel) (d : BitVec 7) (f : Fld) (k : Nat), sel.toNat < 128 →
    ((f = .d ∧ k = 0) ∨ (f = .a ∧ k = 1) ∨ (f = .b ∧ k = 2) ∨ (f = .c ∧ k = 3)) →
    let step := fun u => if r.step.getLsbD k then th.repidx.toNat * u else 0
    rd32 (some r) th f sel = th.get (sel.toNat + step 1) ∧ rd64 (some r) th f sel = th.pair (sel.toNat + step 2) ∧
      (k = 0 → ∀ u, dstReg (some r) th d u = d.toNat + step u)

/-- R147, R148, R150: WAITF copies a register that is not pending, TESTF reads a status without waiting, 0xF while it is pending, and
MOVF copies a register, with the future that it is pending on. R147, R271: WAITF.CHK of a completion word whose status is not OK
takes FUTURE qualifier 1, with the word as EINFO. R145, R149: CANCELF of a register that is pending on a future asks its operation
to stop and does nothing else, and of any other register does nothing; CANCELF.REL frees a DONE slot of the team that the register's
value names and clears a RUNNING one's retention, and of any other value does nothing. -/
def Obligations.FutureWords : Prop :=
  (∀ (s : State) (d : Dst) (a : Sel) (m : Nat × Nat) (t : Team) (th : Thread),
     (∀ chk, s.readyOne (.waitf d a chk) m t th → (chk = false ∨ (rd32 s.site.rep th .a a).extractLsb' 28 4 = 0) →
       ∃ v, exec (.waitf d a chk) s = .next v ∧ (s.modThread (s.key m) (·.gotReg s.site d (rd32 s.site.rep th .a a))).leads (.waitf d a chk) v) ∧
     (s.readyOne (.testf d a) m t th → ∃ v, exec (.testf d a) s = .next v ∧ (s.modThread (s.key m) (·.gotReg s.site d
       (if (tget th.pend a.toNat).isSome ∧ a.toNat ≠ 0 then 0xF#32 else (rd32 s.site.rep th .a a) >>> 28))).leads (.testf d a) v) ∧
     (s.readyOne (.movf d a) m t th → (∀ slot gen, th.pendingOn a.toNat ≠ some (.future slot gen)) →
       ∃ v, exec (.movf d a) s = .next v ∧ (s.modThread (s.key m) (·.gotReg s.site d (rd32 s.site.rep th .a a))).leads (.movf d a) v) ∧
     ∀ slot gen, s.readyOne (.movf d a) m t th → th.pendingOn a.toNat = some (.future slot gen) → d.nw = false → d.r ≠ 0 →
       ∃ v, exec (.movf d a) s = .next v ∧ (s.modThread (s.key m) fun y =>
         { y.gotReg s.site d (rd32 s.site.rep th .a a) with pend := tset th.pend d.r.toNat (.future slot gen) }).leads (.movf d a) v) ∧
  (∀ (s : State) (d : Dst) (a : Sel) (m : Nat × Nat) (t : Team) (th : Thread) (core : Nat), s.readyOne (.waitf d a true) m t th →
     (s.ctx? s.site.ctx).map (·.core) = some core → (rd32 s.site.rep th .a a).extractLsb' 28 4 ≠ 0 → s.takes core th 0x0B1 = true →
     ∃ v, exec (.waitf d a true) s = .next v ∧ s.trapsTo v (.waitf d a true) m th core 0x0B1 (rd32 s.site.rep th .a a) 0) ∧
  (∀ (s : State) (a : Sel) (m : Nat × Nat) (t : Team) (th : Thread) (c : Ctx), s.ctx? s.site.ctx = some c →
     (s.readyOne (.cancelf a false) m t th → ∃ v, exec (.cancelf a false) s = .next v ∧
       State.leads (match th.pendingOn a.toNat with
         | some (.future slot _) => { s with ops := match s.ops.find? fun o => o.2.key.ctx == s.site.ctx && o.2.slot == slot with
             | some o => tmod s.ops o.1 fun o => { o with canceled := true }
             | none => s.ops }
         | _ => s) (.cancelf a false) v) ∧
     (s.readyOne (.cancelf a true) m t th → ∃ v, exec (.cancelf a true) s = .next v ∧
       let w := rd32 s.site.rep th .a a
       let slot := (w.extractLsb' 16 12).toNat
       State.leads (match tget c.futures slot with
         | some f => if f.st ≠ .free ∧ f.tslot = m.1 ∧ f.gen = w.extractLsb' 0 16 then
             s.modCtx s.site.ctx fun c => { c with futures := tmod c.futures slot fun f =>
               { f with retain := false, st := if f.st = .done then .free else f.st } }
           else s
         | none => s) (.cancelf a true) v))

/-- R266, R267: SYSRD reads its system register, one that only supervisor level reaches at supervisor level, and FPCTL, SATCOUNT and
MATNANPOS once no SFU or XL result of the thread is outstanding. R267, R268: SYSWR writes the fields of its system register that
take writes, and nothing else; FLOGPOP removes the oldest entry of its team's fault log. R266: SYSRD, SYSWR and a write to ABORT
that name a register of supervisor level take PERM qualifier 4 at user level. R267, R273: a write to ABORT at supervisor level ends
every thread of its team and no other, and the launch's record is to hold CAUSE 0x104 with the word's index as FWI, RWI 0, the
thread's own PPRV and INH, the value written, and the clause's header as EPC. -/
def Obligations.SystemRegisters : Prop :=
  (∀ (s : State) (d : Dst) (srn : BitVec 16) (m : Nat × Nat) (t : Team) (th : Thread) (c : Ctx) (v : Word),
     s.readyOne (.sysrd d srn) m t th → s.ctx? s.site.ctx = some c → (srn.toNat, v) ∈ sysValues s m t th c →
     (supervisorOnly srn.toNat = true → th.priv = true) → (srn.toNat ∈ [0x10, 0x11, 0x13] → th.count 7 = 0) →
     ∃ u, exec (.sysrd d srn) s = .next u ∧ (s.modThread (s.key m) (·.gotReg s.site d v)).leads (.sysrd d srn) u) ∧
  (∀ (s : State) (rs : BitVec 7) (m : Nat × Nat) (t : Team) (th : Thread) (c : Ctx), s.ctx? s.site.ctx = some c →
     (∀ srn : BitVec 16, s.readyOne (.syswr rs srn) m t th → srn ≠ 0x39 → srn ≠ 0x102 → (supervisorOnly srn.toNat = true → th.priv = true) →
       ∃ u, exec (.syswr rs srn) s = .next u ∧ (sysEffect s srn.toNat (s.key m) c.core (th.get rs.toNat)).leads (.syswr rs srn) u) ∧
     (s.readyOne (.flogpop rs) m t th → ∃ u, exec (.flogpop rs) s = .next u ∧
       (s.modTeam s.site.ctx m.1 fun t => { t with flog := t.flog.tail }).leads (.flogpop rs) u)) ∧
  (∀ (s : State) (i : Instr) (n : Nat) (m : Nat × Nat) (t : Team) (th : Thread) (core : Nat), s.readyOne i m t th →
     ((∃ d srn, i = .sysrd d srn ∧ n = srn.toNat) ∨ (∃ rs srn, i = .syswr rs srn ∧ n = srn.toNat) ∨
       ∃ rs, i = .abort rs ∧ n = 0x102) →
     supervisorOnly n = true → th.priv = false → (s.ctx? s.site.ctx).map (·.core) = some core → s.takes core th 0x044 = true →
     ∃ u, exec i s = .next u ∧ s.trapsTo u i m th core 0x044 0 0) ∧
  (∀ (s : State) (rs : BitVec 7) (m : Nat × Nat) (t : Team) (th : Thread) (l : Launch), s.readyOne (.abort rs) m t th → th.priv = true →
     tget s.launches t.launch = some l → l.abort = none → (t.threads.map (·.1)).Nodup →
     ∃ u t' l', exec (.abort rs) s = .next u ∧ u.team? s.site.ctx m.1 = some t' ∧ t'.aborted = true ∧ (∀ e ∈ t'.threads, e.2.run = .ended) ∧
       (∀ c j, (c, j) ≠ (s.site.ctx, m.1) → (u.team? c j).map (·.threads.map fun e => (e.1, e.2.still)) =
         (s.team? c j).map (·.threads.map fun e => (e.1, e.2.still))) ∧
       tget u.launches t.launch = some l' ∧ l'.aborted = true ∧
       ∃ e : Word, l'.abort = some ⟨m.2, t.index, e, th.get rs.toNat, t.flogstat, s.site.h.signExtend 64, 0⟩ ∧
         e.extractLsb' 0 9 = 0x104 ∧ e.getLsbD 9 = th.estat.getLsbD 9 ∧ e.extractLsb' 10 4 = BitVec.ofNat 4 s.site.wi ∧
         e.extractLsb' 14 4 = 0 ∧ e.getLsbD 18 = th.estat.getLsbD 18 ∧ e.extractLsb' 19 13 = 0)

/-- R277 (the values within its limits are free, log 24): CLOCK writes a pair: the core's counter, which only moves on, by less than 2^32
cycles, or the package's time, which never goes back and stays in the microsecond that has begun. R124, R125: once no SFU or XL result of the thread is outstanding, FLAGS writes the flag word of its
scope, and FLGCLR clears the flags of its mask in its own thread; neither changes anything else. -/
def Obligations.ClocksAndFlags : Prop :=
  (∀ (s : State) (d : Dst) (ctr : BitVec 8) (m : Nat × Nat) (t : Team) (th : Thread) (core : Nat), s.readyOne (.clock d ctr) m t th →
     (s.ctx? s.site.ctx).map (·.core) = some core →
     ∃ u n, exec (.clock d ctr) s = .next u ∧
       if ctr = 0 then
         n < 2 ^ 32 ∧ ((s.core core).clock.toNat + n < 2 ^ 64 → (s.core core).clock ≤ (s.core core).clock + BitVec.ofNat 64 n) ∧
         ((({ s with draws := s.draws + 1 } : State).modCore core fun c => { c with clock := (s.core core).clock + BitVec.ofNat 64 n }).modThread
           (s.key m) (·.gotPair s.site d ((s.core core).clock + BitVec.ofNat 64 n))).leads (.clock d ctr) u
       else s.ns.toNat ≤ n ∧ n ≤ max s.ns.toNat (1000 * s.us + 999) ∧
         ((({ s with draws := s.draws + 1, ns := BitVec.ofNat 64 n } : State)).modThread (s.key m) (·.gotPair s.site d (BitVec.ofNat 64 n))).leads (.clock d ctr) u) ∧
  (∀ (s : State) (m : Nat × Nat) (t : Team) (th : Thread), th.count 7 = 0 →
     (∀ d sc, s.readyOne (.flags d sc) m t th → ∃ u, exec (.flags d sc) s = .next u ∧
       (s.modThread (s.key m) (·.gotReg s.site d ((flagsAt s sc.toNat t th).setWidth 32))).leads (.flags d sc) u) ∧
     ∀ mask, s.readyOne (.flgclr mask) m t th → ∃ u, exec (.flgclr mask) s = .next u ∧
       (s.modThread (s.key m) fun y => { y with flags := y.flags &&& ~~~(mask.setWidth 6) }).leads (.flgclr mask) u)

/-- R120 to R123, R38: an SFU word's result is on its way while FPCTL holds no enable and OVF = 11 traps nothing; while FPCTL holds one
and the result is delivered, it is there before the next word, with its conditions and clamps. -/
def Obligations.SpecialFunctionResults : Prop :=
  ∀ (s : State) (i : Instr) (d : Dst) (words : Nat) (f : Option Rep → Thread → FRes) (m : Nat × Nat) (t : Team) (th : Thread),
    sfuValue i = some (d, words, f) → s.readyOne i m t th → (f s.site.rep th).trap = none →
    (th.view.fpctl.setWidth 6 = 0#6 → ∃ u, exec i s = .next u ∧
      (s.onItsWay m d words (f s.site.rep th).bits (f s.site.rep th).flags (f s.site.rep th).sat).leads i u) ∧
    (th.view.fpctl.setWidth 6 ≠ 0#6 → (f s.site.rep th).delivered th.view.fpctl = true → ∃ u, exec i s = .next u ∧
      ((s.modThread (s.key m) (·.gotResult s.site d words (f s.site.rep th))).clamped (f s.site.rep th).sat).leads i u)

/-- R206 to R208: a cross-lane word works over the members that execute it, in position order, and the result of each is on its way.
R209: REDUX gives every member that executes it the reduction of all their operands, with its conditions; the result of each is on
its way while FPCTL holds no enable and nothing traps; it is the sum modulo 2^32, the smallest or largest, or the bits of integers;
and of F32 the exact sum rounded once, or the smallest or largest of those that are no NaN. -/
def Obligations.CrossLaneResults : Prop :=
  (∀ (s : State) (i : Instr) (d : Dst) (a b : Sel) (f : List (Nat × Nat × Word × Word) → Nat → Word), laneValue i = some (d, a, b, f) →
     s.ready i = true → ∃ u, exec i s = .next u ∧
       ((s.site.members.zip (List.range s.site.members.length)).foldl
         (fun u e => u.onItsWay e.1 d 1 (f (s.votes a b) e.2).toNat 0 0) s).leads i u) ∧
  (∀ (s : State) (d : Dst) (a : Sel) (ty : BitVec 2) (op : BitVec 4) (rm : BitVec 3) (ovf : BitVec 2),
     let i : Instr := .redux d a ty op rm ovf
     let r := reduxOf ty op rm ovf (s.lanes a a)
     s.ready i = true → r.trap = none → (∀ m ∈ s.site.members, ∀ t th, s.member? m = some (t, th) → th.view.fpctl.setWidth 6 = 0#6) →
     ∃ u, exec i s = .next u ∧ (s.site.members.foldl (fun u m => u.onItsWay m d 1 r.bits r.flags r.sat) s).leads i u) ∧
  ∀ (op : BitVec 4) (rm : BitVec 3) (ovf : BitVec 2) (l : List Lane), l ≠ [] → op.toNat < 6 →
    (∀ ty : BitVec 2, ty.toNat < 2 → let r := reduxOf ty op rm ovf l
      reducesTo (ty == 1) op.toNat (l.map (·.a)) (BitVec.ofNat 32 r.bits) ∧ r.flags = 0 ∧ r.sat = 0 ∧ r.trap = none) ∧
    (∀ v : List ℝ, op = 0 → rm.toNat < 4 → l.length = v.length → (∀ (k : Nat) y x, l[k]? = some y → v[k]? = some x → (f32.value y.a.toNat).is x) →
      (v.sum ≠ 0 → f32.delivers rm ovf 0x076 v.sum (reduxOf 2 op rm ovf l)) ∧
      (v.sum = 0 → rm ≠ 2 → reduxOf 2 op rm ovf l = .ok (if ∀ y ∈ l, y.a = 0x80000000#32 then 2 ^ 31 else 0))) ∧
    (op = 0 → (∃ y ∈ l, y.a = 0x7F800000#32) → (∃ y ∈ l, y.a = 0xFF800000#32) → reduxOf 2 op rm ovf l = ⟨0x7FC00000, 1, 0, none⟩) ∧
    (op = 1 ∨ op = 2 → ∃ v : Nat, reduxOf 2 op rm ovf l = .ok v ∧
      ((∀ y ∈ l, nanWord y.a = true) → v = 0x7FC00000) ∧
      ((∃ y ∈ l, nanWord y.a = false) → (∃ y ∈ l, nanWord y.a = false ∧ v = y.a.toNat) ∧ ∀ y ∈ l, nanWord y.a = false →
        if op = 1 then f32.key v ≤ f32.key y.a.toNat else f32.key y.a.toNat ≤ f32.key v))

/-- R154, R157, R158: a load whose bytes are valid in its core's L1 copy has them on their way to its destination, zero- or sign-
extended, counted as a global load; nothing else changes but what the translation does. R22, R154: a load of bytes that no L1 of its
snoop domain has makes its destination pending, counted as a global load, and its request goes to the home. -/
def Obligations.GlobalLoads : Prop :=
  (∀ (s : State) (i : Instr) (d : Dst) (ea : Option Rep → Thread → Pair) (n : Nat) (sx : Bool) (m : Nat × Nat) (t : Team) (th : Thread)
     (c : Ctx) (pa : Pair) (u : State) (x : L1Sector), loadForm i = some (d, ea, n, sx, false) → s.readyOne i m t th →
     s.ctx? s.site.ctx = some c → s.reaches m (ea s.site.rep th) n .load pa u → u.backed pa = true →
     tget (u.core c.core).l1 (pa.toNat / 128) = some x → (∀ k < n, x.valid.getLsbD (pa.toNat % 128 + k) = true) →
     ∃ v, exec i s = .next v ∧
       (u.delivering m th d n (extended n sx (x.data.toNat / 2 ^ (8 * (pa.toNat % 128)) % 2 ^ (8 * n))) 0).leads i v) ∧
  (∀ (s : State) (i : Instr) (d : Dst) (ea : Option Rep → Thread → Pair) (n : Nat) (sx : Bool) (m : Nat × Nat) (t : Team) (th : Thread)
     (c : Ctx) (pa : Pair) (u : State), loadForm i = some (d, ea, n, sx, false) → s.readyOne i m t th →
     s.ctx? s.site.ctx = some c → s.reaches m (ea s.site.rep th) n .load pa u → u.backed pa = true →
     (∀ g, g = c.core ∨ g ∈ u.coreDomain c.core → tget (u.core g).l1 (pa.toNat / 128) = none) →
     ∃ v l, exec i s = .next v ∧ tget v.loads u.fresh = some l ∧ l.key = s.key m ∧ l.core = c.core ∧ l.pa = pa ∧ l.width = n ∧
       l.landing = u.fresh ∧ v.fresh = u.fresh + 1 ∧ (∀ j, j ≠ u.fresh → tget v.loads j = tget u.loads j) ∧
       (({ u with fresh := v.fresh, loads := v.loads } : State).modThread (s.key m) fun y =>
         { y with pend := (valueRegs (dstOf s.site th d (bytesWords n)) (bytesWords n) 0).foldl (fun p w => if w.1 = 0 then p else
             tset p w.1 (.landing u.fresh)) y.pend, counts := y.counts.setIfInBounds 0 (y.count 0 + 1) }).leads i v)

/-- R154, R157 to R159: a store puts its bytes into its core's L1 copy, valid and dirty there, and no other byte of the copy changes;
where no other L1 of the domain holds the sector and the L1 has room, nothing else changes but what the translation does: no home,
and no other sector. R160: a sideband load of a sector of this package that memory backs gets the sector's exponents, 0 without a
window, and a sideband store writes them where there is a window; no data byte of the sector changes. -/
def Obligations.GlobalStores : Prop :=
  (∀ (s : State) (i : Instr) (rs : BitVec 7) (ea : Option Rep → Thread → Pair) (n : Nat) (m : Nat × Nat) (t : Team) (th : Thread)
     (c : Ctx) (pa : Pair) (u : State), storeForm i = some (rs, ea, n, false) → s.readyOne i m t th →
     s.ctx? s.site.ctx = some c → s.reaches m (ea s.site.rep th) n .store pa u → u.backed pa = true →
     (∀ g ∈ u.coreDomain c.core, g ≠ c.core → tget (u.core g).l1 (pa.toNat / 128) = none) →
     ((tget (u.core c.core).l1 (pa.toNat / 128)).isSome ∨ (u.core c.core).l1.length < 1024) →
     let o := (tget (u.core c.core).l1 (pa.toNat / 128)).getD (L1Sector.empty false c.asid)
     let inside := fun k => pa.toNat % 128 ≤ k ∧ k < pa.toNat % 128 + n
     ∃ v x, exec i s = .next v ∧ (u.modCore c.core fun y => { y with l1 := tset y.l1 (pa.toNat / 128) x }).leads i v ∧
       (∀ k < n, x.data.extractLsb' (8 * (pa.toNat % 128 + k)) 8 = BitVec.ofNat 8 (storeData s.site th rs (bytesWords n) / 2 ^ (8 * k))) ∧
       ∀ k < 128, (inside k → x.valid.getLsbD k = true ∧ x.dirty.getLsbD k = true) ∧
         (¬inside k → x.valid.getLsbD k = o.valid.getLsbD k ∧ x.dirty.getLsbD k = o.dirty.getLsbD k ∧
           x.data.extractLsb' (8 * k) 8 = o.data.extractLsb' (8 * k) 8)) ∧
  (∀ (s : State) (i : Instr) (m : Nat × Nat) (t : Team) (th : Thread) (c : Ctx) (pa : Pair) (u : State), s.readyOne i m t th →
     s.ctx? s.site.ctx = some c → u.backed pa = true →
     (∀ d ea n sx h, loadForm i = some (d, ea, n, sx, true) → s.reaches m (ea s.site.rep th) n .load pa u →
       (u.homeGet (localOf pa / 128)).1 = h →
       ∃ v, exec i s = .next v ∧ ((u.homeGet (localOf pa / 128)).2.delivering m th d 4 (match h.tag with
         | some (_, fmt) => if fmt = 1#2 then h.side.toNat % 65536 else h.side.toNat
         | none => 0) 0).leads i v) ∧
     (∀ rs ea n h, storeForm i = some (rs, ea, n, true) → s.reaches m (ea s.site.rep th) n .store pa u →
       (u.homeGet (localOf pa / 128)).1 = h →
       ∃ v h', exec i s = .next v ∧ ((u.homeGet (localOf pa / 128)).2.modPkg fun p => { p with l2 := tset p.l2 (localOf pa / 128) h' }).leads i v ∧
         h'.data = h.data ∧ h'.st = h.st ∧ h'.tag = h.tag ∧ (h.tag = none → h'.side = h.side ∧ h'.sideDirty = h.sideDirty) ∧
         (∀ e, h.tag = some e → h'.sideDirty = true ∧ h'.side = if e.2 = 1#2 then (h.side &&& 0xFFFF0000) |||
           (BitVec.ofNat 32 (storeData s.site th rs 1) &&& 0xFFFF) else BitVec.ofNat 32 (storeData s.site th rs 1))))

/-- R152, R157, R158: an address that is not canonical takes 0x023, and one that its width does not divide 0x020, or 0x021 in an atomic,
with the address as EADDR, bit 0 of EINFO saying whether it writes. R152, R373, R379, R382: a load or store whose page is missing
parks its thread at its word, and one that the page refuses takes PERM; the rest is what the translation does. R214: a scratch load
or store of its own scratch at an offset that its width does not divide takes 0x051, and one that does not lie inside the allocation
0x050, with the offset as EADDR; of a team with no scratch, any access takes 0x050 (log 85). -/
def Obligations.MemoryTraps : Prop :=
  (∀ (s : State) (i : Instr) (m : Nat × Nat) (t : Team) (th : Thread) (core : Nat) (ea : Pair) (n cause : Nat) (info : Word),
     s.readyOne i m t th → (s.ctx? s.site.ctx).map (·.core) = some core → s.mustHold (s.key m) ea = false →
     ((∃ d f sx xs, loadForm i = some (d, f, n, sx, xs) ∧ ea = f s.site.rep th ∧ info = 0 ∧
         cause = if canonical ea then 0x020 else 0x023) ∨
       (∃ rs f xs, storeForm i = some (rs, f, n, xs) ∧ ea = f s.site.rep th ∧ info = 1 ∧ cause = if canonical ea then 0x020 else 0x023) ∨
       (∃ d f op sc bc, atomForm i = some (d, f, op, n, sc, 0, bc) ∧ ea = f s.site.rep th ∧ info = 1 ∧
         (s.mayBe core (((s.ctx? s.site.ctx).map (·.asid)).getD 0) ea).all s.isLocal = true ∧ (∀ a ∈ s.atoms, a.1 < s.fresh) ∧
         cause = if canonical ea then 0x021 else 0x023)) →
     (canonical ea = false ∨ ea.toNat % n ≠ 0) → s.takes core th cause = true →
     ∃ v, exec i s = .next v ∧ s.trapsTo v i m th core cause info ea) ∧
  (∀ (s : State) (i : Instr) (acc : Acc) (ea : Pair) (n : Nat) (m : Nat × Nat) (t : Team) (th : Thread) (core : Nat) (u : State),
     ((∃ d f sx xs, loadForm i = some (d, f, n, sx, xs) ∧ ea = f s.site.rep th ∧ acc = .load) ∨
       ∃ rs f xs, storeForm i = some (rs, f, n, xs) ∧ ea = f s.site.rep th ∧ acc = .store) →
     s.readyOne i m t th → (s.ctx? s.site.ctx).map (·.core) = some core → s.mustHold (s.key m) ea = false →
     canonical ea = true → ea.toNat % n = 0 →
     (∀ kind, s.threadTr (s.key m) ea acc = (.inr (.park ea kind), u) → ∃ v x, exec i s = .next v ∧ v.thread? (s.key m) = some x ∧
       x.run = .waiting (.park ea kind s.site.wi) ∧ x.pc = resumeAt s.site.cls s.site.h s.site.wi s.site.rep.isSome ∧ x.regs = th.regs ∧
       (u.modThread (s.key m) fun y => { y with run := .waiting (.park ea kind s.site.wi) }).alike v) ∧
     ∀ cause info, s.threadTr (s.key m) ea acc = (.inr (.trap cause info ea), u) → s.takes core th cause = true →
       ∃ v, exec i s = .next v ∧ u.trapsTo v i m th core cause info ea) ∧
  (∀ (s : State) (i : Instr) (off : Option Rep → Thread → Word) (n : Nat) (release : Bool) (m : Nat × Nat) (t : Team) (th : Thread) (core : Nat),
     ((∃ d sx mode, scrLoadForm i = some (d, off, n, sx, mode, none) ∧ release = false) ∨
       ∃ rs, scrStoreForm i = some (rs, off, n, release, none)) →
     s.readyOne i m t th → s.free m release = true → (s.ctx? s.site.ctx).map (·.core) = some core →
     let e := off s.site.rep th
     (e.toNat % n ≠ 0 → t.scrSize ≠ 0 → s.takes core th 0x051 = true →
       ∃ v, exec i s = .next v ∧ s.trapsTo v i m th core 0x051 0 (e.setWidth 64)) ∧
     ((e.toNat % n = 0 ∨ t.scrSize = 0) → t.scrSize < e.toNat + n → s.takes core th 0x050 = true →
       ∃ v, exec i s = .next v ∧ s.trapsTo v i m th core 0x050 0 (e.setWidth 64)))

/-- R161: LDK gets the constant word at its offset, bytes beyond the launch's data 0, counted as a constant load: of data of this
package, a byte of each sector that nothing has stored to since the launch was bound is the one at binding, and any other is that one
or, freely, one that a store has left (log 23). Where bytes of the word lie on another device, it asks that device for the first run of
them and makes its register wait, or takes 0x170 where the device is absent (25 R435; log 23). An offset that is not a multiple of 4
takes 0x022 and one at or beyond 65,536 takes 0x024. -/
def Obligations.ConstantLoads : Prop :=
  ∀ (s : State) (d : Dst) (a : Sel) (off : BitVec 8) (m : Nat × Nat) (t : Team) (th : Thread) (core : Nat), s.readyOne (.ldk d a off) m t th →
    (s.ctx? s.site.ctx).map (·.core) = some core →
    let e := (rd32 s.site.rep th .a a).toNat + 4 * off.toNat
    let pa := fun k => t.konst.pa (e + k)
    let stored := fun k => (s.pkg.noted.drop t.konst.mark).filter fun x => x.1 == localOf (pa k) / 128
    (e % 4 = 0 → e < 65536 → (∀ k < 4, e + k < t.konst.len → s.backed (pa k) = true) →
      ∃ (v : State) (b : Nat → Byte), exec (.ldk d a off) s = .next v ∧
        (({ s with draws := v.draws } : State).delivering m th d 4 (((List.range 4).map fun k => (b k).toNat * 256 ^ k).sum) 6).leads (.ldk d a off) v ∧
        ((∀ k < 4, e + k < t.konst.len → stored k = []) → v.draws = s.draws) ∧
        ∀ k < 4, if t.konst.len ≤ e + k then b k = 0 else b k = mread t.konst.old (e + k) ∨
          ∃ x ∈ stored k, b k = x.2.extractLsb' (8 * (localOf (pa k) % 128)) 8) ∧
    (e % 4 = 0 → e < 65536 → (∀ k < 4, e + k < t.konst.len → s.backed (pa k) = true ∨ s.isLocal (pa k) = false) →
      let far := fun k => k < 4 ∧ e + k < t.konst.len ∧ s.isLocal (pa k) = false
      ((∃ k, far k ∧ s.present (devOf (pa k)) = false) → s.takes core th 0x170 = true →
        ∃ v n, exec (.ldk d a off) s = .next v ∧
          ({ s with draws := n } : State).trapsTo v (.ldk d a off) m th core 0x170 0 (BitVec.ofNat 64 e)) ∧
      ((∃ k, far k) → (∀ k, far k → s.present (devOf (pa k)) = true) →
        ∃ (v : State) (n : Nat) (r : Remote) (q : ConstReq), exec (.ldk d a off) s = .next v ∧
          v.remotes = tset s.remotes (s.fresh + 1) r ∧ r.core = core ∧ r.kind = .konst q ∧ q.key = s.key m ∧ q.landing = s.fresh ∧
          q.dst = dstOf s.site th d 1 ∧ (∀ k, far k → (∀ j < k, ¬far j) → q.first = k ∧ r.pa = pa k) ∧ 1 ≤ q.n ∧
          v.sent = s.sent ++ [⟨⟨false, 0x01, 0, q.n, 0, false, s.pkg.deviceId, devOf r.pa, BitVec.ofNat 16 (s.fresh + 1), r.pa⟩, []⟩] ∧
          (({ s with draws := n, fresh := s.fresh + 2, remotes := v.remotes, sent := v.sent } : State).modThread (s.key m) fun y =>
            { y with pend := (valueRegs (dstOf s.site th d 1) 1 0).foldl (fun p w => if w.1 = 0 then p else tset p w.1 (.landing s.fresh)) y.pend
                     counts := y.counts.setIfInBounds 6 (y.count 6 + 1) }).leads (.ldk d a off) v)) ∧
    (e % 4 ≠ 0 → s.takes core th 0x022 = true →
      ∃ v, exec (.ldk d a off) s = .next v ∧ s.trapsTo v (.ldk d a off) m th core 0x022 0 (BitVec.ofNat 64 e)) ∧
    (e % 4 = 0 → 65536 ≤ e → s.takes core th 0x024 = true →
      ∃ v, exec (.ldk d a off) s = .next v ∧ s.trapsTo v (.ldk d a off) m th core 0x024 0 (BitVec.ofNat 64 e))

/-- R162, R164, R165, R166: an ATOM or CAS to this package whose sector no L1 of the domain holds makes its destination pending, counted
as an atomic, and its turn stands at the home; a release part comes first, once the thread's loads and atomics are done. R162 to
R165, R167: the turns of one issue at one address are performed one after another with nothing between: each gets the value that the
turn before it left, the last one's value stands at the home, and no other byte of memory changes. -/
def Obligations.GlobalAtomics : Prop :=
  (∀ (s : State) (i : Instr) (d : Option Dst) (ea : Option Rep → Thread → Pair) (op n : Nat) (sc : BitVec 3) (ord : BitVec 2)
     (bc : Option Rep → Thread → Pair × Pair) (m : Nat × Nat) (t : Team) (th : Thread) (c : Ctx) (pa : Pair) (u : State),
     atomForm i = some (d, ea, op, n, sc, ord, bc) → s.readyOne i m t th → s.ctx? s.site.ctx = some c →
     (ord ≠ 0 → s.inFlight (s.key m) = false) → s.mustHold (s.key m) (ea s.site.rep th) = false →
     (s.mayBe c.core c.asid (ea s.site.rep th)).all s.isLocal = true →
     let r := if ord = 2 ∨ ord = 3 then s.releaseAt (s.domainOf (s.key m)) sc.toNat else s
     ((ord = 2 ∨ ord = 3) → sc = 5 → r.unacked (s.domainOf (s.key m)) = false) →
     canonical (ea s.site.rep th) = true → (ea s.site.rep th).toNat % n = 0 →
     r.threadTr (s.key m) (ea s.site.rep th) .atomic = (.inl pa, u) → u.backed pa = true →
     (∀ g ∈ u.snoopOf (u.domainOf (s.key m)), tget (u.core g).l1 (pa.toNat / 128) = none) →
     (∀ a ∈ s.atoms, a.1 < s.fresh ∧ a.2.issue < s.fresh ∧ s.isLocal a.2.pa = true) →
     ∃ v, exec i s = .next v ∧
       (({ u with
           fresh := u.fresh + 2
           atoms := tset u.atoms (u.fresh + 1) ⟨c.core, pa, n, op, ord, sc, ⟨s.site.h, s.site.wi⟩, r.fresh, c.asid,
             [⟨s.key m, d.bind fun d => dstOf s.site th d (bytesWords n), (bc s.site.rep th).1, (bc s.site.rep th).2, u.fresh⟩]⟩ } : State).modThread
         (s.key m) fun y => { y with
           pend := (valueRegs (d.bind fun d => dstOf s.site th d (bytesWords n)) (bytesWords n) 0).foldl (fun p w => if w.1 = 0 then p else
             tset p w.1 (.landing u.fresh)) y.pend
           counts := y.counts.setIfInBounds 4 (y.count 4 + 1) }).leads i v) ∧
  (∀ (s : State) (id : Nat) (r : AtomReq), tget s.atoms id = some r → (r.width = 4 ∨ r.width = 8) → (localOf r.pa) % r.width = 0 →
     inHbm (localOf r.pa) = true → s.isLocal r.pa = true → r.ord = 0 → (r.turns.map (·.landing)).Nodup → s.hasRoom (localOf r.pa / 128) →
     (∀ x ∈ s.remotes, ∀ q, x.2.kind = .atom q → q.issue ≠ r.issue) → (∀ g ∈ s.snoopOf (s.atomCores r), tget (s.core g).l1 (r.pa.toNat / 128) = none) →
     let next := fun (old : Nat) (t : AtomTurn) => atomResult r.op r.width old (t.b.toNat % 2 ^ (8 * r.width)) (t.c.toNat % 2 ^ (8 * r.width))
     ∃ v, exec (.atomicAtHome id) s = .next v ∧ tget v.atoms id = none ∧
       v.homeNat (localOf r.pa) r.width = r.turns.foldl next (s.homeNat (localOf r.pa) r.width) ∧
       (∀ x, (x < localOf r.pa ∨ localOf r.pa + r.width ≤ x) → v.homeByte x = s.homeByte x) ∧ v.ctxs = s.ctxs ∧
       ∀ k t, r.turns[k]? = some t → tget v.landings t.landing = some
         { key := t.key
           regs := valueRegs t.dst (bytesWords r.width) ((r.turns.take k).foldl next (s.homeNat (localOf r.pa) r.width))
           latch := none, latchVal := 0, kind := some 4, flags := 0, sat := 0 })

/-- R168: a FENCE goes on once its thread's loads and atomics are done, and at sys scope its writes acknowledged; its release part
writes back, its acquire part writes back and drops, and it changes nothing else: the dirty bytes of this package that an acquire writes
back may still be on their way home (log 42), and at sys scope what was asked of another device before is read again. R169: FLUSH and INVAL of a line of this package
act on its two sectors in every L1 of the snoop domain, INVAL at pkg and sys scope in every L1: FLUSH writes back, INVAL writes back
and drops; at pkg and sys scope the home then merges a sector that is Update-only and writes the line back, and INVAL drops it there; a line that is not backed sets UNBK (22 R399). R169: PREF goes on whatever its
address: it prefetches the two sectors of the line, into L1 where LV says so, and a failed translation drops it. -/
def Obligations.FencesAndLines : Prop :=
  (∀ (s : State) (ord : BitVec 2) (scope : BitVec 3) (m : Nat × Nat) (t : Team) (th : Thread), s.readyOne (.fence ord scope) m t th →
     s.inFlight (s.key m) = false →
     let dom := s.domainOf (s.key m)
     let reached := fun sec => decide (scope = 5 ∨ s.isLocal (sectorPa sec) = true)
     let r := if ord = 2 ∨ ord = 3 then (if scope.toNat ≤ 2 then s else s.cleanL1s (s.snoopOf dom) false reached) else s
     ((ord = 2 ∨ ord = 3) → scope = 5 → r.unacked dom = false) →
     let again := fun u : State => if scope = 5 then u.staleFills (s.snoopOf dom) fun _ => true else u
     ∃ v u, exec (.fence ord scope) s = .next v ∧ u.leads (.fence ord scope) v ∧
       if (ord = 1 ∨ ord = 3) ∧ 2 < scope.toNat then
         (if r.homeDirty dom = true then
           let w : State := { r with draws := r.draws + 1 }
           u = again (w.cleanL1s (s.snoopOf dom) true reached) ∨ u = again (w.dropClean (s.snoopOf dom) reached)
         else u = again (r.cleanL1s (s.snoopOf dom) true reached))
       else u = r) ∧
  (∀ (s : State) (a : Sel) (scope : BitVec 3) (inv : Bool) (m : Nat × Nat) (t : Team) (th : Thread) (c : Ctx) (pa : Pair) (u : State),
     let i : Instr := if inv then .inval a scope else .flush a scope
     let ea := rd64 s.site.rep th .a a
     s.readyOne i m t th → s.ctx? s.site.ctx = some c → s.reaches m ea 1 .store pa u → u.isLocal pa = true →
     (s.mayBe c.core c.asid ea).all s.isLocal = true →
     let secs := [2 * (pa.toNat / 256), 2 * (pa.toNat / 256) + 1]
     let cores := if inv = true ∧ 4 ≤ scope.toNat then u.cores.map (·.1) else u.snoopOf (u.domainOf (s.key m))
     let w := secs.foldl (fun w sec => cores.foldl (fun w g => if inv then w.evictL1 g sec else w.writeBack g sec) w) u
     let w := if inHbm (localOf pa) then w else w.modPkg fun p => { p with unbk := true }
     let home := fun sec => localOf (BitVec.ofNat 64 (128 * sec)) / 128
     ∃ v, exec i s = .next v ∧
       (if scope.toNat < 4 then w else secs.foldl (fun w sec =>
         let x := w.mergeUpdate (home sec)
         if inv then x.evictHome (home sec) else x.cleanHome (home sec)) w).leads i v) ∧
  (∀ (s : State) (a : Sel) (lv : BitVec 8) (m : Nat × Nat) (t : Team) (th : Thread) (c : Ctx), s.readyOne (.pref a lv) m t th →
     s.ctx? s.site.ctx = some c →
     let ea := rd64 s.site.rep th .a a
     let goes := fun (u : State) => ∃ v, exec (.pref a lv) s = .next v ∧ u.leads (.pref a lv) v
     (canonical ea = false → goes s) ∧
     (canonical ea = true → ∀ r u, s.translate (some c.core) (c.core / 96) c.asid ea .load th.priv = (r, u) →
       u.ctxs = s.ctxs ∧ u.launches = s.launches ∧ u.notices = s.notices ∧ (∀ d, (u.die d).pending = (s.die d).pending) ∧
       ((∀ pa, r ≠ .ok pa) → goes u) ∧
       ∀ pa, r = .ok pa → goes ([2 * (pa.toNat / 256), 2 * (pa.toNat / 256) + 1].foldl (fun w sec => w.prefetch c.core c.asid sec (lv == 0)) u)))

/-- R214, R216 to R218: a scratch load that is in its allocation and aligned, and whose granule has F set where it waits or takes, has
its bytes on their way to its destination; a take clears F; no byte of scratch changes. R22, R216: a waiting or taking load whose
granule's F bit is clear waits, and nothing of scratch changes. -/
def Obligations.ScratchLoads : Prop :=
  (∀ (s : State) (i : Instr) (d : Dst) (off : Option Rep → Thread → Word) (n : Nat) (sx : Bool) (mode : BitVec 2) (peer : Option Nat)
     (m : Nat × Nat) (t : Team) (th : Thread) (c k : Nat) (x : Team), scrLoadForm i = some (d, off, n, sx, mode, peer) →
     s.readyOne i m t th → s.free m false = true → s.scratchOf m t peer c k x →
     let e := (off s.site.rep th).toNat
     e % n = 0 → e + n ≤ x.scrSize → (mode = 0 ∨ e / 16 ∈ x.fbits) →
     ∃ v, exec i s = .next v ∧
       ((if mode = 2 then s.modTeam c k fun y => { y with fbits := y.fbits.filter (· != e / 16) } else s).delivering m th d n
         (extended n sx (mreadN x.scratch e n)) 2).leads i v) ∧
  (∀ (s : State) (i : Instr) (d : Dst) (off : Option Rep → Thread → Word) (n : Nat) (sx : Bool) (mode : BitVec 2) (peer : Option Nat)
     (m : Nat × Nat) (t : Team) (th : Thread) (c k : Nat) (x : Team), scrLoadForm i = some (d, off, n, sx, mode, peer) →
     s.readyOne i m t th → s.free m false = true → s.scratchOf m t peer c k x →
     let e := (off s.site.rep th).toNat
     e % n = 0 → e + n ≤ x.scrSize → mode ≠ 0 → e / 16 ∉ x.fbits →
     ∃ v w, exec i s = .next v ∧ v.feWaits = s.feWaits ++ [w] ∧ w.key = s.key m ∧ w.ctx = c ∧ w.tslot = k ∧ w.granule = e / 16 ∧
       w.off = e ∧ w.width = n ∧ w.take = (mode == 2) ∧
       (({ s with feWaits := v.feWaits } : State).modThread (s.key m) fun y => { y with run := .waiting (.feBit peer (e / 16)) }).alike v)

/-- R214, R216 to R218: a scratch store writes its bytes and no other, and a filling one then sets F, which releases nobody where no
load waits on the granule. R219: ATOMS writes the new value at its offset, or nothing, and has the old one on its way to its destination; no
F bit and no other byte changes. -/
def Obligations.ScratchStores : Prop :=
  (∀ (s : State) (i : Instr) (rs : BitVec 7) (off : Option Rep → Thread → Word) (n : Nat) (fill : Bool) (peer : Option Nat)
    (m : Nat × Nat) (t : Team) (th : Thread) (c k : Nat) (x : Team), scrStoreForm i = some (rs, off, n, fill, peer) →
    s.readyOne i m t th → s.free m fill = true → s.scratchOf m t peer c k x → Mem.wf x.scratch = true →
    let e := (off s.site.rep th).toNat
    e % n = 0 → e + n ≤ x.scrSize → (fill = true → ∀ w ∈ s.feWaits, (w.ctx, w.tslot, w.granule) ≠ (c, k, e / 16)) →
    ∃ (v : State) (y : Team), exec i s = .next v ∧ (s.modTeam c k fun z => { z with scratch := y.scratch, fbits := y.fbits }).leads i v ∧
      Mem.wf y.scratch = true ∧
      (∀ j < n, mread y.scratch (e + j) = BitVec.ofNat 8 (scrStoreData s.site th rs n / 2 ^ (8 * j))) ∧
      (∀ a, (a < e ∨ e + n ≤ a) → mread y.scratch a = mread x.scratch a) ∧
      ∀ g, g ∈ y.fbits ↔ g ∈ x.fbits ∨ (fill = true ∧ g = e / 16)) ∧
  ∀ (s : State) (d : Dst) (a b cs : Sel) (w : BitVec 2) (scope : BitVec 3) (ord : BitVec 2) (op : BitVec 4) (p : Bool) (rank : BitVec 4)
    (m : Nat × Nat) (t : Team) (th : Thread) (c k : Nat) (x : Team),
    let i : Instr := .atoms d a b cs w scope ord op p rank
    let n := widthOf w
    let e := (rd32 s.site.rep th .a a).toNat
    let old := mreadN x.scratch e n
    let new := atomResult op.toNat n old ((rdW s.site.rep th .b b (bytesWords n)).toNat % 2 ^ (8 * n))
      ((rdW s.site.rep th .c cs (bytesWords n)).toNat % 2 ^ (8 * n))
    s.readyOne i m t th → s.free m (ord != 0) = true → s.scratchOf m t (if p then some rank.toNat else none) c k x →
    Mem.wf x.scratch = true → e % n = 0 → e + n ≤ x.scrSize →
    ∃ v y, exec i s = .next v ∧
      ((s.modTeam c k fun z => { z with scratch := y }).delivering m th (if op = 1 then ⟨d.r, true⟩ else d) n old 4).leads i v ∧
      mreadN y e n = new ∧ (∀ q, (q < e ∨ e + n ≤ q) → mread y q = mread x.scratch q)

/-- R102: PADDS and PSUBS form each element's sum or difference exactly, in signed or unsigned elements, and narrow it: one out of range is
clamped to the limit that it passes, with IX and SAT for the instruction and one more count for each such element. An OVF of 01 or 10
takes ILLEGAL qualifier 1. With OVF = 11 an instruction of which an element is out of range sets IX and SAT and takes 0x080; with
another OVF, one whose IXE or SATE is enabled sets them and takes FPEXC 4, or else 5; in each of these no element is written and no
count is added. -/
def Obligations.PackedSaturates : Prop :=
  ∀ (s : State) (sub : Bool) (d : Dst) (a b : Sel) (w ovf : BitVec 2) (u : Bool) (m : Nat × Nat) (t : Team) (th : Thread) (core : Nat),
    let i : Instr := if sub then .psubs d a b w ovf u else .padds d a b w ovf u
    let n := packWidth w
    let lo : Int := if u then 0 else -(2 ^ (n - 1))
    let hi : Int := if u then 2 ^ n - 1 else 2 ^ (n - 1) - 1
    let exact := fun k => let x := element u n (rd32 s.site.rep th .a a) k; let y := element u n (rd32 s.site.rep th .b b) k
      if sub then x - y else x + y
    let clamps := ((List.range (32 / n)).filter fun k => decide (exact k < lo ∨ hi < exact k)).length
    let value := ofElements n fun k => if exact k < lo then lo else if hi < exact k then hi else exact k
    let enabled := th.view.fpctl.setWidth 6 &&& 0x30#6
    let flagged := { th with flags := th.flags ||| 0x30#6 }
    (s.ctx? s.site.ctx).map (·.core) = some core →
    (s.readyOne i m t th →
      (clamps = 0 → ∃ v, exec i s = .next v ∧ (s.modThread (s.key m) (·.gotWord s.site d value)).leads i v) ∧
      (clamps ≠ 0 → ovf ≠ 3 → enabled = 0 → ∃ v, exec i s = .next v ∧
        ((s.modThread (s.key m) fun y => { y.gotWord s.site d value with flags := y.flags ||| 0x30#6 }).clamped clamps).leads i v) ∧
      (clamps ≠ 0 → ovf = 3 → s.takes core th 0x080 = true → ∃ v, exec i s = .next v ∧ s.trapsTo v i m flagged core 0x080 s.site.w0 0) ∧
      (clamps ≠ 0 → ovf ≠ 3 → enabled ≠ 0 → ∀ cause, cause = (if enabled.getLsbD 4 then 0x074 else 0x075) → s.takes core th cause = true →
        ∃ v, exec i s = .next v ∧ s.trapsTo v i m flagged core cause s.site.w0 0)) ∧
    (ovf = 1 ∨ ovf = 2 → s.sited = true → s.site.members = [m] → s.member? m = some (t, th) → th.run = .issuing → s.site.cls = .alu →
      s.site.wi + 1 ≤ s.site.count → s.takes core th 0x001 = true → ∃ v, exec i s = .next v ∧ s.trapsTo v i m th core 0x001 s.site.w0 0)

/-- R220, R221: FESET sets or clears F of a run of granules of its own scratch and changes no byte, setting releasing nobody where no
load waits on one of them; FETEST reads 32 F bits; a misaligned start takes 0x051 and a run beyond the allocation 0x050, which any run takes of a team with no scratch (log 85). R145, R222:
STF stores the handle that its register is pending on, whose slot is then retained, or its register's value; LDF gives a DONE slot's
word, 0x7000_0000 where no slot of the team is named, and else the handle, and its register waits for that future. -/
def Obligations.ScratchFlagsAndFutures : Prop :=
  (∀ (s : State) (a b : Sel) (m : Nat × Nat) (t : Team) (th : Thread) (core : Nat), (s.ctx? s.site.ctx).map (·.core) = some core →
     let e := rd32 s.site.rep th .a a
     let n := (rd32 s.site.rep th .b b).toNat
     (∀ clr, s.readyOne (.feset clr a b) m t th → s.free m (!clr) = true → (n = 0 ∨ (e.toNat % 16 = 0 ∧ e.toNat + 16 * n ≤ t.scrSize)) →
       (clr = false → ∀ w ∈ s.feWaits, (w.ctx, w.tslot) = (s.site.ctx, m.1) → ¬(e.toNat / 16 ≤ w.granule ∧ w.granule < e.toNat / 16 + n)) →
       ∃ v fs, exec (.feset clr a b) s = .next v ∧ (s.modTeam s.site.ctx m.1 fun y => { y with fbits := fs }).leads (.feset clr a b) v ∧
         ∀ g, g ∈ fs ↔ if e.toNat / 16 ≤ g ∧ g < e.toNat / 16 + n then clr = false else g ∈ t.fbits) ∧
     (∀ clr q, s.readyOne (.feset clr a b) m t th → s.free m (!clr) = true → n ≠ 0 →
       ((e.toNat % 16 ≠ 0 ∧ t.scrSize ≠ 0 ∧ q = 0x051) ∨ ((e.toNat % 16 = 0 ∨ t.scrSize = 0) ∧ t.scrSize < e.toNat + 16 * n ∧ q = 0x050)) → s.takes core th q = true →
       ∃ v, exec (.feset clr a b) s = .next v ∧ s.trapsTo v (.feset clr a b) m th core q 0 (e.setWidth 64)) ∧
     ∀ d, s.readyOne (.fetest d a) m t th → s.free m false = true → e.toNat % 16 = 0 → e.toNat + 16 ≤ t.scrSize →
       ∃ v, exec (.fetest d a) s = .next v ∧ (s.delivering m th d 4
         (((List.range 32).map fun j => if e.toNat / 16 + j ∈ t.fbits then 2 ^ j else 0).sum) 2).leads (.fetest d a) v) ∧
  (∀ (s : State) (a : Sel) (off : BitVec 8) (m : Nat × Nat) (t : Team) (th : Thread) (c : Ctx), s.ctx? s.site.ctx = some c →
     s.free m false = true → Mem.wf t.scratch = true →
     let e := (rd32 s.site.rep th .a a + 4 * off.signExtend 32).toNat
     e % 4 = 0 → e + 4 ≤ t.scrSize →
     (∀ rs, s.readyOne (.stf rs a off) m t th → ∃ v y, exec (.stf rs a off) s = .next v ∧
       (s.modCtx s.site.ctx fun c => { c with
         teams := tmod c.teams m.1 fun z => { z with scratch := y }
         futures := match th.pendingOn (dstReg s.site.rep th rs 1) with
           | some (.future slot gen) => tmod c.futures slot fun f => if f.gen = gen then { f with retain := true } else f
           | _ => c.futures }).leads (.stf rs a off) v ∧
       mreadN y e 4 = (th.get (dstReg s.site.rep th rs 1)).toNat ∧ (∀ q, (q < e ∨ e + 4 ≤ q) → mread y q = mread t.scratch q)) ∧
     ∀ d, s.readyOne (.ldf d a off) m t th →
       let h := BitVec.ofNat 32 (mreadN t.scratch e 4)
       let slot := (h.extractLsb' 16 12).toNat
       let named := fun f : Future => f.st ≠ .free ∧ f.tslot = m.1 ∧ f.gen = h.extractLsb' 0 16
       ((∀ f, tget c.futures slot = some f → ¬named f) → ∃ v, exec (.ldf d a off) s = .next v ∧
         (s.modThread (s.key m) (·.gotReg s.site d 0x70000000)).leads (.ldf d a off) v) ∧
       ∀ f, tget c.futures slot = some f → named f → ∃ v, exec (.ldf d a off) s = .next v ∧
         (s.modThread (s.key m) fun y => if f.st = .done then y.gotReg s.site d f.word else
           let z := y.gotReg s.site d h
           if d.nw ∨ dstReg s.site.rep y d.r 1 = 0 then z else
             { z with pend := tset z.pend (dstReg s.site.rep y d.r 1) (.future slot f.gen) }).leads (.ldf d a off) v)

/-- R223 to R227: a declared context's LDT and STT, aligned and in range, of a buffer that it owns: LDT has four bytes, or exponent
bytes, on their way to its destination, and STT writes them and no other byte; the first failing check of R227 traps. R255: while a
matrix operation of the context is in flight, each byte that an LDT reads of CBUF is the present one or one from before that operation's
writes, and the operation may use what an STT has written; else nothing else changes. -/
def Obligations.TypedBuffers : Prop :=
  ∀ (s : State) (a : Sel) (buf : BitVec 2) (xs : Bool) (off : BitVec 5) (m : Nat × Nat) (t : Team) (th : Thread) (c : Ctx),
    s.ctx? s.site.ctx = some c → s.acquiring (s.key m) = false → s.typedBusy c.core s.site.ctx buf.toNat = false →
    let e := rd32 s.site.rep th .a a + 4 * off.setWidth 32
    let size := if buf = 1 then 524288 else 262144
    let q := fun store : Bool => if c.typed = false then some 0x063 else if store ∧ buf = 1 then some 0x062
      else if e.toNat % (if xs then 128 else 4) ≠ 0 then some 0x061
      else if (if xs then size ≤ e.toNat else size < e.toNat + 4) then some 0x060 else none
    let x := s.core c.core
    let data := if buf = 0 then x.abuf else if buf = 1 then x.wbuf else x.cbuf
    let exps := if buf = 0 then x.aexp else x.wexp
    let owner := if buf = 0 then x.aOwner else if buf = 1 then x.wOwner else x.cOwner
    let at_ := if xs then e.toNat / 32 else e.toNat
    (∀ d, s.readyOne (.ldt d a buf xs off) m t th → q false = none → owner = some s.site.ctx →
      ∃ v x n ops, exec (.ldt d a buf xs off) s = .next v ∧
        (({ s with draws := n, ops } : State).delivering m th d 4 x 5).leads (.ldt d a buf xs off) v ∧
        (tmap ops fun _ o => o.unnoted) = (tmap s.ops fun _ o => o.unnoted) ∧ (¬s.matUnder s.site.ctx → n = s.draws ∧ ops = s.ops) ∧
        x < 2 ^ 32 ∧ ∀ k < 4, x / 2 ^ (8 * k) % 256 = (mread (if xs then exps else data) (at_ + k)).toNat ∨
          (buf = 2 ∧ xs = false ∧ ∃ b ∈ s.racing s.site.ctx, x / 2 ^ (8 * k) % 256 = (mread b (at_ + k)).toNat)) ∧
    (∀ rs, s.readyOne (.stt rs a buf xs off) m t th → q true = none → owner = some s.site.ctx → Mem.wf data = true → Mem.wf exps = true →
      ∃ v y ops, exec (.stt rs a buf xs off) s = .next v ∧
        (tmap ops fun _ o => o.unnoted) = (tmap s.ops fun _ o => o.unnoted) ∧ (¬s.matUnder s.site.ctx → ops = s.ops) ∧
        (({ s with ops } : State).modCore c.core fun x =>
          if xs then (if buf = 0 then { x with aexp := y } else { x with wexp := y })
          else if buf = 0 then { x with abuf := y } else if buf = 1 then { x with wbuf := y } else { x with cbuf := y }).leads (.stt rs a buf xs off) v ∧
        mreadN y at_ 4 = (th.get (dstReg s.site.rep th rs 1)).toNat ∧
        ∀ p, (p < at_ ∨ at_ + 4 ≤ p) → mread y p = mread (if xs then exps else data) p) ∧
    ∀ i store cause, ((∃ d, i = .ldt d a buf xs off ∧ store = false) ∨ ∃ rs, i = .stt rs a buf xs off ∧ store = true) →
      s.readyOne i m t th → q store = some cause → s.takes c.core th cause = true →
      ∃ v, exec i s = .next v ∧ s.trapsTo v i m th c.core cause 0 (e.setWidth 64)

/-- R143, R145, R188, R228, R299, R314, R315, R336, R337, R369: an engine word, its release done, takes a FREE slot and starts its
operation with its operands; its destination holds the handle and waits, its counts rise, and nothing else changes. R311, R313: a
STAND starts in the same way and counts against its context, which has fewer than 4,096 subscriptions. R237, R238 (the first
member's operands, log 40): a matrix word joins the operations of its context, of which fewer than eight stand; its destination
holds the handle and waits. -/
def Obligations.EngineWordsStart : Prop :=
  (∀ (s : State) (i : Instr) (m : Nat × Nat) (t : Team) (th : Thread) (c : Ctx) (f : EngineForm) (r : State), s.readyOne i m t th →
     s.engineReady m f.scope c r → engineForm r m t th i = some f →
     ∃ v slot gen, exec i s = .next v ∧ c.offers slot gen ∧ (r.started m f slot gen (EngOp.of r m th c f slot gen)).leads i v) ∧
  (∀ (s : State) (d : Dst) (a b : Sel) (imm : BitVec 12) (m : Nat × Nat) (t : Team) (th : Thread) (c : Ctx) (r : State),
     s.readyOne (.stand d a b imm) m t th → s.engineReady m 1 c r → c.subCount < 4096 →
     let f : EngineForm := ⟨d, 1, 4, [0], .stand ⟨.stand, rd64 s.site.rep th .a a, (rd32 s.site.rep th .b b + imm.signExtend 32).toNat,
       false, 0⟩, none⟩
     ∃ v slot gen, exec (.stand d a b imm) s = .next v ∧ c.offers slot gen ∧
       ((r.started m f slot gen (EngOp.of r m th c f slot gen)).modCtx s.site.ctx fun c => { c with subCount := c.subCount + 1 }).leads (.stand d a b imm) v) ∧
  (∀ (s : State) (i : Instr) (m : Nat × Nat) (t : Team) (th : Thread) (c : Ctx) (d : Dst) (kind : MatKind) (a b : Pair) (counts : List Nat)
     (r : State), s.readyOne i m t th → s.engineReady m 1 c r → c.matq.length < 8 → (∀ o ∈ s.ops, o.1 < s.fresh) →
     matrixForm s.site.rep th i = some (d, kind, a, b, counts) →
     let f : EngineForm := ⟨d, 1, 2, counts, .mat { kind, w0 := s.site.w0, w1 := (encode i).getD 1 0, a, b, begun := false, next := 0
                                                    nt := false, even := [], odd := [], sat := 0, nan := 0
                                                    was := [r.buffers s.site.ctx s.site.core], wrote := [], before := [] }, none⟩
     ∃ v slot gen, exec i s = .next v ∧ c.offers slot gen ∧
       ((r.started m f slot gen (EngOp.of r m th c f slot gen)).modCtx s.site.ctx fun c => { c with matq := c.matq ++ [r.fresh] }).leads i v)

/-- R328, R334, R338, R344: a lantern command of a team that holds the lantern, on which fewer than four commands stand, joins its
commands; one of a team whose record is lost has SNUFFED as its completion word. R328, R329, R335: a LEASE of a team with four
records, queued leases and grants has INVALID reason 12 as its completion word, and one that finds 128 leases queued FULL with 4 in
bits 27 to 24; any other joins the queue, and the die evaluates. (INVALID where both hold is the model's choice, log 90; that a slot's
first generation is 0, log 12.) R339 to R341: each step of an MRG reads the next keys, writes what R340 emits and nothing else, and moves
its cursors; the last writes its descriptor. R348, R351, R353: coordinates, cells, separations and their rounded squares as exact numbers
rounded once; R347: which parameters a grid may have. R347, R350 to R354: NBRGRID writes its header or fails its first check; NBRBIN
stores a particle's place and appends it to its cell, or drops it; NBRCHK compares it with its place; NBRPAIR takes the candidates in
order, writes accepted pairs two to a granule of its ring, and after the last the sentinel. Where the region holds what is the
model's choice (log 27), and so are the order of the checks (log 38) and the cursor at the end (log 28). -/
def Obligations.LanternWordsStart : Prop :=
  (∀ (s : State) (id : Nat) (o : EngOp) (c : CmdOp) (t : Team) (op : BitVec 8) (w64 : Bool) (pa pb : Nat) (po : Nat → Nat), s.runs id o c t →
    c.cmd = .mrg op w64 → c.begun = true → op.toNat ≤ 4 → c.desc.length = 8 →
    let n := if w64 then 8 else 4
    let v := s.engineTurn id
    let a := if c.w 6 = 0 then none else some (s.homeNat pa n)
    let b := if c.w 7 = 0 then none else some (s.homeNat pb n)
    (c.w 6 ≠ 0 → s.maps o (c.q 0) .load pa ∧ pa % n = 0 ∧ tget c.old pa = none) →
    (c.w 7 ≠ 0 → s.maps o (c.q 2) .load pb ∧ pb % n = 0 ∧ tget c.old pb = none) →
    (op ≠ 4 → ∀ k < 2, s.maps o (c.q 4 + BitVec.ofNat 64 (n * k)) .store (po k) ∧ po k % n = 0 ∧ s.unsubscribed (po k / 128)) → po 0 ≠ po 1 →
    (mergeStep op.toNat a b = none → v.cmdEnded id o c t (doneWord 0 (min c.count 0x0FFFFFFF)) ∧ ∀ x, v.homeByte x = s.homeByte x) ∧
    ∀ useA useB keys hits, mergeStep op.toNat a b = some (useA, useB, keys, hits) → ∃ d : CmdOp, tget v.ops id = some { o with work := .cmd d } ∧
      d.q 0 = c.q 0 + (if useA then BitVec.ofNat 64 n else 0) ∧ d.w 6 = c.w 6 - (if useA then 1 else 0) ∧
      d.q 2 = c.q 2 + (if useB then BitVec.ofNat 64 n else 0) ∧ d.w 7 = c.w 7 - (if useB then 1 else 0) ∧
      d.q 4 = c.q 4 + BitVec.ofNat 64 (n * keys.length + hits) ∧ d.count = c.count + keys.length + hits ∧
      { d with desc := c.desc, count := c.count, old := c.old } = c ∧
      (∀ k, (h : k < keys.length) → v.homeNat (po k) n = keys[k]) ∧
      (∀ x, (∀ k < keys.length, x < po k ∨ po k + n ≤ x) → v.homeByte x = s.homeByte x) ∧ v.ctxs = s.ctxs) ∧
  (∀ (l x : Word) (L X : ℝ), num l L → 0 < L → num x X →
    placeX false l x = x ∧ (∃ r, rounded32 (X - L * ⌊X / L⌋) r ∧ placeX true l x = if r = l then 0 else r) ∧
    ∀ per nc Y, 0 < nc → num (placeX per l x) Y → (cellOf per l x nc : ℤ) = max 0 (min ((nc : ℤ) - 1) ⌊Y * nc / L⌋)) ∧
  (∀ (l a b : Word) (L D : ℝ), num l L → 0 < L → num (diff32 a b) D → sepX false l a b = diff32 a b ∧
    (-(L / 2) ≤ D → D ≤ L / 2 → sepX true l a b = diff32 a b) ∧ (D < -(L / 2) → sepX true l a b = sum32 (diff32 a b) l) ∧
    ∀ E, L / 2 < D → num (diff32 (diff32 a b) l) E →
      (-(L / 2) ≤ E → sepX true l a b = diff32 (diff32 a b) l) ∧ (E < -(L / 2) → sepX true l a b = sum32 (diff32 (diff32 a b) l) l)) ∧
  (∀ (x y z : Word) (a b c : ℝ), num x a → num y b → num z c → rounded32 (a * a + b * b + c * c) (sumSq [x, y, z])) ∧
  (∀ h : Grid, (h.bad = false ↔ h.keepsLimits) ∧ (∀ a b, num h.cut a → num h.skin b → 0 < a → 0 ≤ b →
      rounded32 (a + b) h.h ∧ rounded32 (b / 2 * (b / 2)) h.t2) ∧ (∀ y, num h.h y → rounded32 (y * y) h.h2) ∧
    (∀ x, h.cellAt x = cellOf (h.per 0) (h.len 0) (x.getD 0 0) (h.nc 0) + h.nc 0 * (cellOf (h.per 1) (h.len 1) (x.getD 1 0) (h.nc 1) +
      h.nc 1 * cellOf (h.per 2) (h.len 2) (x.getD 2 0) (h.nc 2))) ∧
    ∀ cx cy cz, cx < h.nc 0 → cy < h.nc 1 → cz < h.nc 2 →
      let l := h.stencil (cx + h.nc 0 * (cy + h.nc 1 * cz))
      l.Pairwise (· < ·) ∧ ∀ d, d ∈ l ↔ ∃ dx dy dz, h.adjacent 0 cx dx ∧ h.adjacent 1 cy dy ∧ h.adjacent 2 cz dz ∧ d = dx + h.nc 0 * (dy + h.nc 1 * dz)) ∧
  (∀ (s : State) (id : Nat) (o : EngOp) (c : CmdOp) (t : Team) (a : Nat), s.runs id o c t → c.cmd = .nbrgrid →
    let p : Grid := (List.range 12).map fun k => BitVec.ofNat 32 (mreadN t.scratch (c.off + 4 * k) 4)
    let ga := pairOf (p.g 0) (p.g 1)
    let v := s.engineTurn id
    let reason := if c.lantern < 16 then 2 else if c.off % 16 ≠ 0 ∨ (c.off + 8 ≤ t.scrSize ∧ ga.toNat % 256 ≠ 0) then 1
      else if t.scrSize < c.off + 48 then 7 else if canonical ga = false then 8 else if p.bad = true then 13 else 0
    (reason ≠ 0 → v = { s with ops := s.ended id (doneWord 7 (reason * 2 ^ 24)) }) ∧
    (reason = 0 → s.maps o ga .store a → s.unsubscribed (a / 128) → tget v.ops id = some { o with result := some (doneWord 0 0) } ∧ v.ctxs = s.ctxs ∧
      (∀ k < 12, v.wordAt (a + 4 * k) = p.g k) ∧ (v.wordAt (a + 48) = gridMark ∧ v.wordAt (a + 52) = 0) ∧
      ∀ x, (x < a ∨ a + 64 ≤ x) → v.homeByte x = s.homeByte x)) ∧
  (∀ (s : State) (id : Nat) (o : EngOp) (c : CmdOp) (t : Team) (base a : Nat), s.runs id o c t → (c.cmd = .nbrbin ∨ c.cmd = .nbrchk) →
    c.begun = true → s.gridAt o c base →
    let h : Grid := c.grid
    let v := s.engineTurn id
    let i := (c.w 5).toNat
    let x := (List.range 3).map fun k => s.wordAt (a + 4 * k)
    let now := h.placed x
    ((c.w 4).toNat ≤ i → c.cmd = .nbrchk → v.cmdEnded id o c t (doneWord 0 (min c.count 0x0FFFFFFF))) ∧
    ((c.w 4).toNat ≤ i → c.cmd = .nbrbin → s.unsubscribed (base / 128) → v.wordAt (base + 52) = 2 ∧ v.wordAt (base + 56) = c.w 4 ∧
      v.cmdEnded id o c t (if c.w 6 = 0 then doneWord 0 (min c.count 0x0FFFFFFF) else doneWord 4 (min (c.w 6).toNat 0x0FFFFFFF))) ∧
    (i < (c.w 4).toNat → (c.w 4).toNat ≤ h.nmax → s.maps o (c.q 2 + BitVec.ofNat 64 (16 * i)) .load a → a % 16 = 0 →
      ((∃ y ∈ x, ¬∃ z, num y z) → v.cmdEnded id o c t (doneWord 7 (14 * 2 ^ 24 + i))) ∧
      ((∀ y ∈ x, ∃ z, num y z) → c.cmd = .nbrchk →
        let near := f32.order (h.apart now (s.refOf c base i)).toNat ≤ f32.order h.t2.toNat
        (near → ∃ d, tget v.ops id = some { o with work := .cmd d } ∧ d.w 5 = BitVec.ofNat 32 (i + 1) ∧ d.count = c.count + 1 ∧
          (∀ k, k ≠ 5 → d.w k = c.w k) ∧ { d with desc := c.desc, count := c.count } = c) ∧
        (¬near → v.cmdEnded id o c t (doneWord 5 i))) ∧
      ((∀ y ∈ x, ∃ z, num y z) → c.cmd = .nbrbin → (∀ k < 4096 + 16 * (h.cells * h.cap) + 16 * h.nmax, s.unsubscribed ((base + k) / 128)) →
        let cell := h.cellAt now
        ∀ n, n ≤ h.cap → (∀ k < n, s.slotOf c base cell k ≠ 0) → (n < h.cap → s.slotOf c base cell n = 0) →
          (∃ d, tget v.ops id = some { o with work := .cmd d } ∧ d.w 5 = BitVec.ofNat 32 (i + 1) ∧ d.count = c.count + 1 ∧
            d.w 6 = c.w 6 + (if n = h.cap then 1 else 0) ∧ (∀ k, k ≠ 5 → k ≠ 6 → d.w k = c.w k) ∧ { d with desc := c.desc, count := c.count } = c) ∧
          v.refOf c base i = now ∧ (n < h.cap → v.slotOf c base cell n = i + 1 ∧ (n + 1 < h.cap → v.slotOf c base cell (n + 1) = 0)) ∧
          (∀ y, (y < base + h.refOff i ∨ base + h.refOff i + 12 ≤ y) → (∀ k, k = n ∨ k = n + 1 → k < h.cap →
            y < base + h.slotOff cell k ∨ base + h.slotOff cell k + 4 ≤ y) → v.homeByte y = s.homeByte y) ∧ v.ctxs = s.ctxs))) ∧
  (∀ (s : State) (id : Nat) (o : EngOp) (c : CmdOp) (t : Team) (base cell si st sj : Nat), s.runs id o c t → c.cmd = .nbrpair →
    c.begun = true → s.gridAt o c base → c.cur = pairCur cell si st sj →
    let h : Grid := c.grid
    let v := s.engineTurn id
    let ring := (c.w 7).toNat + 16 * (c.w 9).toNat
    let next := if (c.w 9).toNat + 1 < (c.w 8).toNat then c.w 9 + 1 else 0
    let moves := fun x => ∃ d, tget v.ops id = some { o with work := .cmd d } ∧ v.ctxs = s.ctxs ∧
      c.goesTo d x (if c.half = none then x else (c.q 10).toNat % 2 ^ 37) c.half
    let writes := fun (f g : Word × Word) => ∃ t' : Team, v.team? o.key.ctx o.key.tslot = some { t with scratch := t'.scratch, fbits := t'.fbits } ∧
      (∀ k < 4, mreadN t'.scratch (ring + 4 * k) 4 = ([f.1, f.2, g.1, g.2].getD k 0).toNat) ∧
      (∀ a, (a < ring ∨ ring + 16 ≤ a) → mread t'.scratch a = mread t.scratch a) ∧ ∀ q, q ∈ t'.fbits ↔ q ∈ t.fbits ∨ q = ring / 16
    (∀ w ∈ s.feWaits, (w.ctx, w.tslot) ≠ (o.key.ctx, o.key.tslot)) → (c.w 7).toNat % 16 = 0 →
    (cell < h.cells → si < h.cap → st < 32 → sj < h.cap → c.cur ≠ h.endCur →
      (s.slotOf c base cell si = 0 → moves (h.afterCell cell)) ∧
      ∀ i, s.slotOf c base cell si = i + 1 → i < h.nmax → ∀ other, (h.stencil cell)[st]? = some other →
        (s.slotOf c base other sj = 0 → moves (h.afterSten cell si st)) ∧
        ∀ j, s.slotOf c base other sj = j + 1 → j < h.nmax →
          let pair := i < j ∧ f32.order (h.apart (s.refOf c base i) (s.refOf c base j)).toNat ≤ f32.order h.h2.toNat
          let this : Word × Word := (BitVec.ofNat 32 i, BitVec.ofNat 32 j)
          (¬pair → moves (h.afterPair cell si st sj)) ∧
          (pair → c.half = none → ∃ d, tget v.ops id = some { o with work := .cmd d } ∧ v.ctxs = s.ctxs ∧
            c.goesTo d (h.afterPair cell si st sj) c.cur (some this)) ∧
          (∀ f, pair → c.half = some f → ring / 16 ∉ t.fbits → writes f this ∧ ∃ d, tget v.ops id = some { o with work := .cmd d } ∧
            d.cur = h.afterPair cell si st sj ∧ d.half = none ∧ d.count = c.count + 2 ∧ d.w 9 = next ∧
            d.w 6 = BitVec.ofNat 32 (min 0xFFFFFFFF ((c.w 6).toNat + 2)) ∧ (d.q 10).toNat % 2 ^ 37 = h.afterPair cell si st sj) ∧
          (pair → c.half ≠ none → ring / 16 ∈ t.fbits → tget v.ops id = some o ∧ v.ctxs = s.ctxs)) ∧
    (c.cur = h.endCur → ring / 16 ∉ t.fbits → (c.off + 48 ≤ ring ∨ ring + 16 ≤ c.off) →
      let last := if c.half.isSome then 1 else 0
      let total := BitVec.ofNat 32 (min 0xFFFFFFFF ((c.w 6).toNat + last))
      let f := c.half.getD (0xFFFFFFFF, total)
      tget v.ops id = some { o with result := some (doneWord 0 (min (c.count + last) 0x0FFFFFFF)) } ∧
      ∃ t' : Team, v.team? o.key.ctx o.key.tslot = some { t with scratch := t'.scratch, fbits := t'.fbits } ∧
        (∀ k < 4, mreadN t'.scratch (ring + 4 * k) 4 = ([f.1, f.2, 0xFFFFFFFF, total].getD k 0).toNat) ∧
        (∀ q, q ∈ t'.fbits ↔ q ∈ t.fbits ∨ q = ring / 16) ∧ mreadN t'.scratch (c.off + 24) 4 = total.toNat ∧
        mreadN t'.scratch (c.off + 36) 4 = next.toNat ∧ mreadN t'.scratch (c.off + 44) 4 / 2 ^ 31 = 1) ∧
    (c.cur = h.endCur → ring / 16 ∈ t.fbits → v = s)) ∧
  (∀ (s : State) (i : Instr) (m : Nat × Nat) (t : Team) (th : Thread) (c : Ctx) (d : Dst) (scope : BitVec 3) (id off : Nat)
     (cmd : LanternCmd) (kind : BitVec 4) (r : State), s.readyOne i m t th → s.engineReady m scope c r →
     commandForm s th i = some (d, scope, id, off, cmd, kind) → id < 32 →
     r.fresh ∉ (r.lantern (c.core / 96) id).queue →
     let die := c.core / 96
     let open_ := (r.lantern die id).queue.filter fun op => (tget r.ops op).isSome
     ((∃ x ∈ t.leases, x.id = id ∧ x.held = true) → open_.length < 4 →
       let f : EngineForm := ⟨d, scope, kind, [1], .cmd ⟨cmd, id, off, false, 0, [], [], 0, none, []⟩, none⟩
       ∃ v slot gen, exec i s = .next v ∧ c.offers slot gen ∧
         ((r.started m f slot gen (EngOp.of r m th c f slot gen)).setLantern die id { r.lantern die id with queue := open_ ++ [r.fresh] }).leads i v) ∧
     ((∃ x ∈ t.leases, x.id = id) → (∀ x ∈ t.leases, x.id = id → x.held = false) →
       let f : EngineForm := ⟨d, scope, kind, [1], .known, some 0x30000000⟩
       ∃ v slot gen, exec i s = .next v ∧ c.offers slot gen ∧ (r.started m f slot gen (EngOp.of r m th c f slot gen)).leads i v)) ∧
  (∀ (s : State) (d : Dst) (kind : BitVec 8) (pri : BitVec 2) (m : Nat × Nat) (t : Team) (th : Thread) (c : Ctx) (r : State),
     s.readyOne (.lease d kind pri) m t th → s.engineReady m 1 c r →
     let die := c.core / 96
     let use := r.leaseUse die (s.key m)
     let res := if 4 ≤ use then some 0x7C000000 else if 128 ≤ (r.die die).leaseQ.length then some 0x84000000 else none
     let f : EngineForm := ⟨d, 1, 5, [4], .lease kind.toNat pri.toNat, res⟩
     ∃ v slot gen, exec (.lease d kind pri) s = .next v ∧ c.offers slot gen ∧
       (let u := r.started m f slot gen (EngOp.of r m th c f slot gen)
        if res.isSome then u else (u.modDie die fun x =>
          { x with leaseQ := x.leaseQ ++ [⟨r.fresh, false, s.site.ctx, m.1, kind.toNat, pri.toNat, r.fresh⟩] }).lanternEval die).leads (.lease d kind pri) v)

/-- R145, R299, R311, R334: an engine word takes FUTURE qualifier 0 where no slot is FREE and none runs; GATHER qualifier 0 with more
than 65,536 indices; STAND qualifier 0 at 4,096 subscriptions; and LANTERN qualifier 1 for a lantern beyond 31, or 0 for one its
team has no record of. -/
def Obligations.EngineWordsTrap : Prop :=
  ∀ (s : State) (i : Instr) (m : Nat × Nat) (t : Team) (th : Thread) (c : Ctx) (f : EngineForm) (r : State) (cause : Nat),
    s.readyOne i m t th → s.ctx? s.site.ctx = some c → s.inFlight (s.key m) = false → r = s.releaseAt (s.domainOf (s.key m)) f.scope.toNat →
    (f.scope = 5 → r.unacked (s.domainOf (s.key m)) = false) →
    ((engineForm r m t th i = some f ∧ c.slotsRunning = 0 ∧ (∀ k < 1024, c.slotFree k = false) ∧ cause = 0x0B0) ∨
      ((c.slotsRunning = 0 ∨ c.slotsUsed < 1024) ∧
        (((∃ d a b x w sx base, i = .gather d a b x w f.scope sx base ∧ 65536 < (rd32 s.site.rep th .c x).toNat) ∧ cause = 0x0E0) ∨
         ((∃ d a b x w sx base, i = .scatter d a b x w f.scope sx base ∧ 65536 < (rd32 s.site.rep th .c x).toNat) ∧ cause = 0x0E0) ∨
         ((∃ d a b x w ops ft sx base, i = .scadd d a b x w f.scope ops ft sx base ∧ 65536 < (rd32 s.site.rep th .c x).toNat) ∧ cause = 0x0E0) ∨
         ((∃ d a b imm, i = .stand d a b imm) ∧ f.scope = 1 ∧ 4096 ≤ c.subCount ∧ cause = 0x0D0) ∨
         ((∃ d a, (i = .unlease d a ∨ i = .lstat d a) ∧ f.scope = 1 ∧ 32 ≤ (rd32 s.site.rep th .a a).toNat) ∧ cause = 0x0C1) ∨
         ((∃ d a, i = .unlease d a ∧ f.scope = 1 ∧ (rd32 s.site.rep th .a a).toNat < 32 ∧
            ∀ x ∈ t.leases, x.id ≠ (rd32 s.site.rep th .a a).toNat) ∧ cause = 0x0C0) ∨
         (∃ d id off cmd kind, commandForm s th i = some (d, f.scope, id, off, cmd, kind) ∧
            ((32 ≤ id ∧ cause = 0x0C1) ∨ (id < 32 ∧ (∀ x ∈ t.leases, x.id ≠ id) ∧ cause = 0x0C0)))))) →
    s.takes c.core th cause = true → ∃ v, exec i s = .next v ∧ r.trapsTo v i m th c.core cause 0 0

/-- R367 (17 << 24 as it fits the word, log 41; a slot's first generation, log 12): a QPUT to an enabled, open queue with room, of an entry that lies in its team's scratch
at a multiple of 16, takes the slot at WIDX, raises WIDX, writes the entry with its STAMP last, and has the slot's index as its
completion word; without room it has FULL, and to any other queue or of any other entry INVALID with reason 17, 1 or 7, and writes
nothing. R366: a QPOP of a team of a queue's launch makes its eight registers wait, counted as a global load, and its request joins
the queue's; of any other team it takes 0x0F0. -/
def Obligations.QueueWords : Prop :=
  (∀ (s : State) (d : Dst) (a b : Sel) (scope : BitVec 3) (imm : BitVec 12) (m : Nat × Nat) (t : Team) (th : Thread) (c : Ctx) (r : State),
     s.readyOne (.qput d a b scope imm) m t th → s.engineReady m scope c r →
     let q := (rd32 s.site.rep th .a a).toNat
     let off := (rd32 s.site.rep th .b b + imm.signExtend 32).toNat
     let bad : Option Word := if 2048 ≤ q ∨ r.qEn q = false ∨ r.qClosed q = true then some 0x71000000
       else if off % 16 ≠ 0 then some 0x71000000 else if t.scrSize < off + r.qSlotBytes q then some 0x77000000
       else if r.qSize q < (r.qWidx q - r.qRidx q).toNat + 1 then some 0x80000000 else none
     let f := fun w : Word => (⟨d, scope, 8, [4], .known, some w⟩ : EngineForm)
     let u := (r.homeWrite (r.qAddr q + 0x20) 4 (r.qWidx q + 1).toNat).putSlot ⟨s.key m, q, off⟩ (r.qWidx q) scope.toNat
     ∃ v slot gen, exec (.qput d a b scope imm) s = .next v ∧ c.offers slot gen ∧ State.leads (match bad with
       | some w => r.started m (f w) slot gen (EngOp.of r m th c (f w) slot gen)
       | none => u.started m (f (r.qWidx q &&& 0x0FFFFFFF)) slot gen (EngOp.of u m th c (f (r.qWidx q &&& 0x0FFFFFFF)) slot gen)) (.qput d a b scope imm) v) ∧
  (∀ (s : State) (d : Dst) (m : Nat × Nat) (t : Team) (th : Thread) (core : Nat), s.readyOne (.qpop d) m t th →
     (s.ctx? s.site.ctx).map (·.core) = some core →
     (∀ q, t.queue = some q → ∃ v, exec (.qpop d) s = .next v ∧
       (({ s with fresh := s.fresh + 1, qreqs := s.qreqs ++ [⟨s.key m, dstReg s.site.rep th d.r 8, q, s.fresh, core, false, none⟩] } : State).modThread
         (s.key m) fun y => { y with
           pend := (List.range 8).foldl (fun p j => if dstReg s.site.rep th d.r 8 + j = 0 then p else
             tset p (dstReg s.site.rep th d.r 8 + j) (.landing s.fresh)) y.pend
           counts := y.counts.setIfInBounds 0 (y.count 0 + 1) }).leads (.qpop d) v) ∧
     (t.queue = none → s.takes core th 0x0F0 = true → ∃ v, exec (.qpop d) s = .next v ∧ s.trapsTo v (.qpop d) m th core 0x0F0 0 0))

/-- R57, R58, R60, R62, R70, R268: CLAUSE_START of a group whose header is fetched and raises nothing begins the clause once the WAIT
bits are met: its members stand at its first word, or at the one they resume at, with no latch written; from the first turn of the
clause start they see the context registers as they then are, and while the bits are not met nothing else changes. A header that
raises ILLEGAL has its one member trap with WI = 0, through the registers that it then sees, with the header word as EINFO, which is the
model's choice (log 91). -/
def Obligations.ClausesBegin : Prop :=
  ∀ (s : State) (core slot : Nat) (g : Group) (c : Ctx) (w : Word) (u : State),
    tget (s.core core).groups slot = some g → g.started = false → s.ctx? g.ctx = some c →
    let e := s.looked core slot g c
    e.fetchAll g.ctx g.members (va56 g.h) = (some w, [], u) →
    ((∀ m ∈ g.members, ∀ th, e.thread? ⟨g.ctx, m.1, m.2⟩ = some th → headerQual th g.wi w = none ∧
        (g.wi = 0 → g.passed = false → th.inh = true ∨
          (c.event.pendCur = false ∧ c.event.pendThm = false ∧ (th.view.dbgctl.getLsbD 1 = false ∨ th.ssSkip = true)))) →
      ((∀ m ∈ g.members, ∀ th, s.thread? ⟨g.ctx, m.1, m.2⟩ = some th → th.waits w = true) →
        exec (.clauseStart core slot) s = .next ((u.mapMembers g.ctx g.members fun _ _ _ th => { th with
            latches := Vector.replicate 4 .unwritten, pc := ⟨g.h, max 1 g.wi⟩, atStart := false
            ssSkip := th.ssSkip && th.inh }).modCore core fun y => { y with groups := tmod y.groups slot fun g => { g with
              wi := max 1 g.wi, began := g.wi, started := true, count := (w.extractLsb' 0 4).toNat, cls := classOf w
              yh := w.getLsbD 15, stalled := 0 } })) ∧
      ((∃ m ∈ g.members, ∃ th, s.thread? ⟨g.ctx, m.1, m.2⟩ = some th ∧ th.waits w = false) →
        exec (.clauseStart core slot) s = .next (u.modCore core fun y => { y with groups := tmod y.groups slot fun g =>
          { g with passed := true } }))) ∧
    ∀ m th q, g.members = [m] → e.thread? ⟨g.ctx, m.1, m.2⟩ = some th → th.run ≠ .ended → headerQual th g.wi w = some q →
      s.takes c.core th q = true →
      ∃ v, exec (.clauseStart core slot) s = .next v ∧
        v.thread? ⟨g.ctx, m.1, m.2⟩ = some (th.trapped q 0 ⟨g.h, 0⟩ w 0 (s.vector c.core th q)) ∧
        (∀ k, k ≠ ⟨g.ctx, m.1, m.2⟩ → v.thread? k = s.thread? k) ∧ u.elsewhere v

/-- R196, R198 to R201: GROUP_FORMATION for the laneset that is served next takes the lowest PC at which a thread of the active context
stands that is not deferred, and makes the first 32 threads that stand there a group, each in its home column where that is free;
the runs passed over grow older. -/
def Obligations.GroupsForm : Prop :=
  ∀ (s : State) (core lane slot c : Nat) (x : Ctx) (p : PC), (s.core core).nextSlot = some (lane, slot) →
    s.activeOf core = some (c, x) → x.sync = none → x.joined = true → x.gangOut = false → s.xlRep core x.asid p = .inl false → (x.table.map (·.m)).Nodup →
    let ready := x.table.filter fun e => !e.deferred
    (∀ e ∈ ready, (s.core core).age e.pc < 64) → (∃ e ∈ ready, e.pc = p) → (∀ e ∈ ready, e.pc = p ∨ p.lt e.pc = true) →
    let ms := ((ready.filter fun e => e.pc == p).take 32).map (·.m)
    ∃ v g, exec (.groupFormation core lane) s = .next v ∧
      v.ctxs = (s.mapMembers c ms fun _ _ _ th => { th with run := .issuing }).ctxs ∧
      tget (v.core core).groups slot = some g ∧ (∀ k, k ≠ slot → tget (v.core core).groups k = tget (s.core core).groups k) ∧
      g = { ctx := c, members := ms, cols := g.cols, origin := p, h := p.h, wi := p.wi, began := p.wi, entered := false, passed := false
            started := false, count := 0, cls := .any, yh := false, dissolve := false, stalled := 0, rep := none, order := s.fresh } ∧
      g.cols.length = ms.length ∧ g.cols.Nodup ∧ (∀ q ∈ g.cols, q < 32) ∧
      (∀ (i : Nat) (m : Nat × Nat), ms[i]? = some m → (∀ j < i, (ms[j]?).all fun n => n.2 % 32 != m.2 % 32) → g.cols[i]? = some (m.2 % 32)) ∧
      (∀ q, q ≠ p → (∃ e ∈ ready, e.pc = q) → (v.core core).age q = min 127 ((s.core core).age q + 1)) ∧
      { v.core core with groups := [], ages := [], lastLaneset := none } = { s.core core with groups := [], ages := [], lastLaneset := none } ∧
      (v.core core).lastLaneset = some lane ∧ (∀ k, k ≠ core → v.core k = s.core k) ∧ v.fresh = s.fresh + 1 ∧
      ({ s with fresh := v.fresh } : State).elsewhere v

/-- R72, R202: STALL_DISSOLUTION of a group stalled for more than 32 cycles, some member of which waits on a register, a latch, a future
or an F bit, frees its slot: such a member waits, the others are Runnable, each with the PC that R72 gives it. -/
def Obligations.StalledGroupsDissolve : Prop :=
  ∀ (s : State) (core slot : Nat) (g : Group) (u : State) (waits : Thread → Option WaitOn), tget (s.core core).groups slot = some g →
    32 < g.stalled →
    ((u = s ∧ waits = (fun th => match th.run with
          | .waiting w => some w
          | _ => none)) ∨
      (∃ i, s.prepare core slot = .run i u ∧ waits = stallOn i u.site ∧
        ∀ m ∈ g.members, ∀ th, s.thread? ⟨g.ctx, m.1, m.2⟩ = some th → th.run = .issuing)) →
    (∃ m ∈ g.members, ∃ th, u.thread? ⟨g.ctx, m.1, m.2⟩ = some th ∧ (waits th).isSome = true) →
    ∃ v, exec (.stallDissolution core slot) s = .next v ∧ (v.core core).groups = tdel (u.core core).groups slot ∧
      (∀ k th, u.thread? k = some th → v.thread? k = some (if k.ctx = g.ctx ∧ (k.tslot, k.tid) ∈ g.members then th.stalledOut g (waits th) else th)) ∧
      { v.core core with groups := [] } = { u.core core with groups := [] } ∧ (∀ k, k ≠ core → v.core k = u.core k) ∧ u.elsewhere v

/-- R17, R22, R34, R40: REGISTER_RESULT_LANDS writes the registers still pending on the landing, and its latch, lowers its count, adds
its conditions and its clamps, and ends the waits that it ends. -/
def Obligations.ResultsLand : Prop :=
  ∀ (s : State) (id : Nat) (l : Landing) (th : Thread) (c : Ctx), tget s.landings id = some l → s.thread? l.key = some th → th.run ≠ .ended →
    s.ctx? l.key.ctx = some c → (l.regs.map (·.1)).Nodup →
    ∃ v x c', exec (.registerResultLands id) s = .next v ∧ v.thread? l.key = some x ∧ v.ctx? l.key.ctx = some c' ∧
      (∀ r, 0 < r → r < 128 → x.get r = match l.regs.find? fun w => w.1 == r with
        | some w => if tget th.pend r = some (.landing id) then w.2 else th.get r
        | none => th.get r) ∧
      x.pend = th.pend.filter (fun p => p.2 != .landing id) ∧ x.flags = th.flags ||| l.flags ∧
      (∀ j < 8, x.count j = if l.kind = some j then th.count j - 1 else th.count j) ∧
      x.latches = th.latches.map (fun y => if y = .pending id then .value l.latchVal else y) ∧
      x.run = ({ x with run := th.run } : Thread).awake v.landings ∧
      { x with regs := th.regs, pend := th.pend, flags := th.flags, counts := th.counts, latches := th.latches, run := th.run } = th ∧
      c'.satcount = BitVec.ofNat 32 (min (c.satcount.toNat + l.sat) 0xFFFFFFFF) ∧
      { c' with satcount := 0, teams := [] } = { c with satcount := 0, teams := [] } ∧
      (∀ k, k ≠ l.key → (v.thread? k).map (fun y => { y with run := .ended }) = (s.thread? k).map (fun y => { y with run := .ended })) ∧
      (∀ k, k.ctx ≠ l.key.ctx → v.thread? k = s.thread? k) ∧
      v.landings = tdel s.landings id ∧ { v with ctxs := [], landings := [] } = { s with ctxs := [], landings := [] }

/-- R144, R145, R151, R188: FUTURE_COMPLETION of an ended operation gives its completion word to every register pending on its future,
lowers its counts, frees its slot or leaves it DONE, and acquires at its scope; a fault that no register waits for joins the fault
log of its team. -/
def Obligations.FuturesComplete : Prop :=
  ∀ (s : State) (id : Nat) (o : EngOp) (w : Word) (c : Ctx) (t : Team) (f : Future), tget s.ops id = some o → o.result = some w → o.also = [] →
    (∀ r ∈ s.remotes, ∀ last, r.2.kind ≠ .write last (some id)) → s.ctx? o.key.ctx = some c → tget c.teams o.key.tslot = some t →
    tget c.futures o.slot = some f → (t.live ≠ [] ∧ t.flog.length < 16) →
    let u := ({ s with ops := tdel s.ops id } : State).acquireAt (s.domainOf o.key) o.scope.toNat
    let awaited := ∃ t ∈ c.teams, ∃ th ∈ t.2.threads, th.2.run ≠ .ended ∧ ∃ p ∈ th.2.pend, p.2 = .future o.slot o.gen
    ∃ v c' t', exec (.futureCompletion id) s = .next v ∧ v.ctx? o.key.ctx = some c' ∧ tget c'.teams o.key.tslot = some t' ∧
      (∀ k th, k.ctx = o.key.ctx → s.thread? k = some th → th.run ≠ .ended → ∃ x, v.thread? k = some x ∧
        (∀ r, 0 < r → r < 128 → x.get r = if (r, Pend.future o.slot o.gen) ∈ th.pend then w else th.get r) ∧
        x.pend = th.pend.filter (fun p => p.2 != .future o.slot o.gen) ∧ x.run = ({ x with run := th.run } : Thread).awake v.landings ∧
        (k ≠ o.key → x.counts = th.counts) ∧ (k = o.key → x.counts = (o.kinds.foldl Thread.subCount th).counts) ∧
        { x with regs := th.regs, pend := th.pend, counts := th.counts, run := th.run } = th) ∧
      tget c'.futures o.slot = some (if f.retain then { f with st := .done, word := w } else { f with st := .free }) ∧
      (∀ k, k ≠ o.slot → tget c'.futures k = tget c.futures k) ∧
      ((awaited ∨ w.extractLsb' 28 4 = 0 ∨ w.extractLsb' 28 4 = 2) → t'.flog = t.flog) ∧
      (¬awaited → w.extractLsb' 28 4 ≠ 0 → w.extractLsb' 28 4 ≠ 2 → t'.flog = t.flog ++
        [⟨BitVec.ofNat 32 (f.kind.toNat * 2 ^ 28 + o.slot * 2 ^ 16 + o.gen.toNat), w, o.key.tid, o.pc.wi, o.pc.h.signExtend 64⟩]) ∧
      (∀ k, k ≠ o.key.ctx → v.ctx? k = s.ctx? k) ∧ { v with ctxs := [] } = { u with ctxs := [] }

/-- R154, R155, R211, R403, R404: HBM_FILL brings a sector and its sideband into its home, its victim's dirty bytes going to memory;
HOME_WRITE_BACK puts an L1's dirty bytes at their home, and no other; L1_FILL brings a sector into an L1, and its bytes are on their
way to the loads that wait for it. -/
def Obligations.SectorsMove : Prop :=
  (∀ (s : State) (sec : Nat), tget s.pkg.l2 sec = none → inHbm (128 * sec) = true → s.hasRoom sec → s.filled sec = s →
    ∃ v h, exec (.hbmFill sec none) s = .next v ∧
      v = ({ s with fresh := s.fresh + 1 } : State).modPkg (fun p => { p with l2 := tset p.l2 sec h }) ∧ h.st = .clean ∧ h.sideDirty = false ∧
      (∀ k < 128, h.data.extractLsb' (8 * k) 8 = hread s.pkg.hbm (128 * sec + k)) ∧
      match s.windowAt (128 * sec) with
      | none => h.tag = none ∧ h.side = 0
      | some (i, w) => h.tag = some (i, w.fmt) ∧ let blk := if w.fmt = 1 then 64 else 32
        ∀ k < 128 / blk, h.side.extractLsb' (8 * k) 8 = s.homeByte (w.expbase.toNat + (128 * sec - w.base.toNat) / blk + k)) ∧
  (∀ (s : State) (sec old : Nat) (x : HomeSector), rising s.pkg.l2 → Mem.hbmWf s.pkg.hbm = true → tget s.pkg.l2 old = some x → x.sideDirty = false → sec ≠ old →
    (s.evictHome old).hasRoom sec → ∃ v, exec (.hbmFill sec (some old)) s = .next v ∧ tget v.pkg.l2 old = none ∧ (∀ k, k ≠ old → k ≠ sec → tget v.pkg.l2 k = tget s.pkg.l2 k) ∧
      (∀ a, hread v.pkg.hbm a = if a / 128 = old ∧ x.st ≠ .clean then x.data.extractLsb' (8 * (a % 128)) 8 else hread s.pkg.hbm a) ∧
      { v with pkg := s.pkg, fresh := s.fresh } = s) ∧
  (∀ (s : State) (core sec : Nat) (evict : Bool) (x : L1Sector), tget (s.core core).l1 sec = some x → x.dirty ≠ 0 →
    s.isLocal (sectorPa sec) = true → inHbm (localOf (sectorPa sec)) = true → s.unsubscribed (localOf (sectorPa sec) / 128) →
    s.hasRoom (localOf (sectorPa sec) / 128) → rising (s.core core).l1 →
    ∃ v, exec (.homeWriteBack core sec evict) s = .next v ∧
      (∀ a, v.homeByte a = if a / 128 = localOf (sectorPa sec) / 128 ∧ x.dirty.getLsbD (a % 128) = true then
        x.data.extractLsb' (8 * (a % 128)) 8 else s.homeByte a) ∧
      tget (v.core core).l1 sec = (if evict then none else some { x with dirty := 0, hold := .clean }) ∧
      (∀ k, k ≠ sec → ∀ g, tget (v.core g).l1 k = tget (s.core g).l1 k) ∧ v.ctxs = s.ctxs) ∧
  ∀ (s : State) (core sec q : Nat) (l : LoadReq), tget s.loads q = some l → l.core = core → sectorOf l.pa = sec → s.isLocal l.pa = true →
    inHbm (localOf l.pa) = true → (l.width = 1 ∨ l.width = 2 ∨ l.width = 4 ∨ l.width = 8) → l.pa.toNat % l.width = 0 → rising s.loads →
    (∀ e ∈ s.loads, e.2.landing = e.1) → (s.core core).l1.length < 1024 →
    (∀ g, g = core ∨ g ∈ s.coreDomain core ∨ g ∈ s.snoopOf [core] → tget (s.core g).l1 sec = none) → s.hasRoom (localOf l.pa / 128) →
    ∃ v y, exec (.l1Fill core sec) s = .next v ∧ tget (v.core core).l1 sec = some y ∧ y.valid = BitVec.allOnes 128 ∧ y.dirty = 0 ∧
      (∀ k < 128, y.data.extractLsb' (8 * k) 8 = s.homeByte (localOf l.pa / 128 * 128 + k)) ∧ tget v.loads q = none ∧
      tget v.landings l.landing = some
        { key := l.key, regs := valueRegs l.dst (bytesWords l.width) (extended l.width l.sx (s.homeNat (localOf l.pa) l.width))
          latch := none, latchVal := 0, kind := some 0, flags := 0, sat := 0 } ∧
      (∀ a, v.homeByte a = s.homeByte a) ∧ v.ctxs = s.ctxs

/-- R302 to R307, R316 to R318: ELEMENT_REQUEST and SCADD_UPDATE perform the element of a position at its home, once no earlier position
that names it is still to be performed; ENGINE_DELIVERY puts a gathered granule into scratch, and PUSH_DELIVERY the oldest push of a
subscriber, each with its F bit, where no load waits for it. R229 to R231: a unit of COPY moves, unpacks, compresses or packs its source
bytes, between scratch and typed buffers in each mode, and 16 raw bytes from and to memory, into its destination and nothing else, sets
the F bits that it completes, and after the last one completes with its count; a raw copy carries the exponents of a windowed sector
into the exponent store and from ABUF back; the first failing check of reasons 2, 6, 3 and 1, a fault, a cancellation and an
overflow under OVF = 11 end it with their words. R313 to R315: STAND checks, records its slot, and at the home fails when the table is full
or adds its subscriber, delivers the granule and completes with their number; UNSTAND marks its entry, waits for the pushes sent and
removes it, and SUBSTAT reads OVR and the number, which it may clear; what they meet ends them with their words. -/
def Obligations.EnginesDeliver : Prop :=
  (∀ (s : State) (id : Nat) (o : EngOp) (c : CopyOp) (t : Team), s.copies id o c t → (c.ssp = 1 ∨ c.ssp = 2 ∨ c.ssp = 4) →
    let src := fun k => s.space o c.ssp (c.src.toNat + c.inp + k)
    let n := c.takes src
    let at_ := c.dst.toNat + c.out
    c.src.toNat + c.inp + n ≤ t.spaceSize c.ssp → (∀ k < n, tget c.old (c.src.toNat + c.inp + k) = none) →
    (c.overflows src → tget (s.engineTurn id).ops id = some { o with result := some (doneWord 4 c.done) }) ∧
    ((c.dsp = 1 ∨ c.dsp = 2 ∨ c.dsp = 3) → ¬c.overflows src → (∀ out m sat, c.makes src out m sat → at_ + m ≤ t.spaceSize c.dsp) →
      ∃ (out : Nat → Byte) (m sat : Nat) (old : Tab Byte) (t' : Team), c.makes src out m sat ∧ (s.engineTurn id).ops = tmod s.ops id (·.copied c n m sat old) ∧
        (∀ a, (s.engineTurn id).space o c.dsp a = if at_ ≤ a ∧ a < at_ + m then out (a - at_) else s.space o c.dsp a) ∧
        (∀ sp : BitVec 3, (sp = 1 ∨ sp = 2 ∨ sp = 3 ∨ sp = 4) → sp ≠ c.dsp → ∀ a, (s.engineTurn id).space o sp a = s.space o sp a) ∧
        (s.engineTurn id).team? o.key.ctx o.key.tslot = some { t with scratch := t'.scratch, fbits := t'.fbits } ∧
        (∀ g, g ∈ t'.fbits ↔ g ∈ t.fbits ∨ (c.dsp = 1 ∧ c.fills m g)) ∧
        (s.engineTurn id).pkg = s.pkg ∧ ∀ k, (s.engineTurn id).thread? k = s.thread? k)) ∧
  (∀ (s : State) (id : Nat) (o : EngOp) (c : CopyOp) (t : Team) (a : Nat), s.copies id o c t → c.mode = 0 → c.old = [] → s.noLines →
    s.hasRoom (a / 128) → c.inp = 16 * c.done → c.out = 16 * c.done → a % 16 = 0 →
    let v := s.engineTurn id
    let from_ := c.src + BitVec.ofNat 64 c.inp
    let to_ := c.dst + BitVec.ofNat 64 c.out
    let at_ := c.dst.toNat + c.out
    let x := s.core (s.opCore o)
    let y := v.core (s.opCore o)
    let blk := fun fmt : BitVec 2 => if fmt = 1 then 64 else 32
    (c.ssp = 0 → (c.dsp = 1 ∨ c.dsp = 2 ∨ c.dsp = 3) → at_ + 16 ≤ t.spaceSize c.dsp → s.maps o from_ .load a →
      v.ops = tmod s.ops id (·.copied c 16 16 0 []) ∧ (∀ b, v.homeByte b = s.homeByte b) ∧
      (∀ b, v.space o c.dsp b = if at_ ≤ b ∧ b < at_ + 16 then s.homeByte (a + (b - at_)) else s.space o c.dsp b) ∧
      ((c.dsp = 2 ∨ c.dsp = 3) → Mem.wf x.aexp = true → Mem.wf x.wexp = true → ∀ h, tget s.pkg.l2 (a / 128) = some h →
        ∀ q, mread (if c.dsp = 2 then y.aexp else y.wexp) q = match h.tag with
          | some (_, fmt) => if q = at_ / 32 then h.side.extractLsb' (8 * (a % 128 / blk fmt)) 8 else mread (if c.dsp = 2 then x.aexp else x.wexp) q
          | none => mread (if c.dsp = 2 then x.aexp else x.wexp) q)) ∧
    (c.ssp = 0 → c.dsp = 1 → at_ % 16 = 0 → canonical from_ = true → from_.toNat % 16 = 0 →
      (s.engineTr (s.opCore o) (s.opAsid o) from_ .load o.sup).1 = none → tget v.ops id = some { o with result := some (doneWord 1 c.done) }) ∧
    ((c.ssp = 1 ∨ c.ssp = 2) → c.dsp = 0 → c.src.toNat + c.inp + 16 ≤ t.spaceSize c.ssp → s.maps o to_ .store a → s.unsubscribed (a / 128) →
      v.ops = tmod s.ops id (·.copied c 16 16 0 []) ∧ s.storedAt v a 16 (bytesAt (fun k => s.space o c.ssp (c.src.toNat + c.inp + k)) 0 16) ∧
      (c.ssp = 2 → ∀ h i fmt, tget s.pkg.l2 (a / 128) = some h → h.tag = some (i, fmt) → ∃ h', tget v.pkg.l2 (a / 128) = some h' ∧
        h'.sideDirty = true ∧ ∀ j < 128 / blk fmt, h'.side.extractLsb' (8 * j) 8 =
          if j = a % 128 / blk fmt then mread x.aexp ((c.src.toNat + c.inp) / blk fmt * blk fmt / 32) else h.side.extractLsb' (8 * j) 8))) ∧
  (∀ (s : State) (id : Nat) (o : EngOp) (c : CopyOp), rising s.ops → tget s.ops id = some o → o.result = none → o.work = .copy c →
    (c.checked = true → o.canceled = true → tget (s.engineTurn id).ops id = some { o with result := some (doneWord 2 c.done) }) ∧
    (c.checked = false → ∀ r,
      let undeclared := (¬∃ x, s.ctx? o.key.ctx = some x ∧ x.typed = true) ∧ (2 ≤ c.dsp.toNat ∨ 2 ≤ c.ssp.toNat)
      let length := c.len = 0 ∨ (if c.mode = 0 then 1048576 else 262144) < c.len
      let unaligned := c.src.toNat % (if c.mode = 1 then 8 else 16) ≠ 0 ∨ c.dst.toNat % (if c.mode = 2 then 8 else 16) ≠ 0
      ((r = 2 ∧ ¬copyModes c.mode c.dsp c.ssp) ∨ (copyModes c.mode c.dsp c.ssp ∧ ((r = 6 ∧ undeclared) ∨ (¬undeclared ∧ ((r = 3 ∧ length) ∨
        (r = 1 ∧ ¬length ∧ unaligned)))))) → s.engineTurn id = { s with ops := s.ended id (doneWord 7 (r * 2 ^ 24)) })) ∧
  (∀ (s : State) (id : Nat) (o : EngOp) (w : StandOp) (t : Team), s.running id o t → o.work = .stand w → w.phase = 0 →
    s.standBehind id o = false → s.standAhead o w = false →
    let d := s.opCore o / 96
    let v := s.engineTurn id
    let ends := fun (u : State) q => v = { u with ops := u.ended id q }
    (w.slotFault t ≠ 0 → ends s (doneWord 7 (w.slotFault t * 2 ^ 24))) ∧
    (w.slotFault t = 0 → w.kind = .stand →
      (canonical w.ga = false → ends s (doneWord 7 (8 * 2 ^ 24))) ∧
      (canonical w.ga = true → (s.entryOf o w).isSome = true → ends s (doneWord 7 (10 * 2 ^ 24))) ∧
      (canonical w.ga = true → s.entryOf o w = none → ∀ r u, s.engineTr (s.opCore o) (s.opAsid o) w.ga .load o.sup = (r, u) →
        (r = none → ends u (doneWord 1 0)) ∧ ∀ pa, r = some pa → (u.isLocal pa = false → ends u (doneWord 7 (9 * 2 ^ 24))) ∧
          (u.isLocal pa = true → 32768 ≤ (u.die d).directory.length → ends u (doneWord 8 (3 * 2 ^ 24))) ∧
          (u.isLocal pa = true → (u.die d).directory.length < 32768 →
            v = ({ u with ops := u.working id (.stand { w with ga := pa, phase := 1 }) } : State).modDie d fun x =>
              { x with directory := x.directory ++ [⟨o.key.ctx, o.key.tslot, w.slot, pa, .installing⟩] }))) ∧
    (w.slotFault t = 0 → w.kind ≠ .stand →
      (s.entryOf o w = none → ends s (doneWord 7 (11 * 2 ^ 24))) ∧
      ∀ e, s.entryOf o w = some e → (e.st = .installing → v = s) ∧ (e.st = .removing → ends s (doneWord 7 (11 * 2 ^ 24))) ∧
        (e.st = .active → v.ops = s.working id (.stand { w with phase := 1 }) ∧ v.ctxs = s.ctxs ∧
          (v.entryOf o w = some (if w.kind = .unstand then { e with st := .removing } else e)) ∧ (w.kind = .substat → v.pkg = s.pkg)))) ∧
  (∀ (s : State) (id : Nat) (o : EngOp) (w : StandOp) (t : Team) (c : Ctx) (e : DirEntry), s.running id o t → o.work = .stand w → w.phase = 1 →
    w.kind = .stand → s.ctx? o.key.ctx = some c → c.parks = false → s.entryOf o w = some e → inHbm (localOf w.ga) = true → s.noLines →
    s.hasRoom (localOf w.ga / 128) → rising s.pkg.subs → w.slot % 16 = 0 →
    (∀ x ∈ s.feWaits, (x.ctx, x.tslot, x.granule) ≠ (o.key.ctx, o.key.tslot, w.slot / 16)) →
    let g := localOf w.ga / 16
    let old := (tget s.pkg.subs g).getD []
    let v := s.engineTurn id
    let full := fun r => v.ops = s.ended id (doneWord 8 (r * 2 ^ 24)) ∧ v.entryOf o w = none ∧ v.pkg.subs = s.pkg.subs ∧ v.ctxs = s.ctxs
    (old = [] → 1024 ≤ s.subEntries g → full 1) ∧ (4 ≤ old.length → full 2) ∧
    (old.length < 4 → (old = [] → s.subEntries g < 1024) → v.ops = s.ended id (doneWord 0 (old.length + 1)) ∧
      v.entryOf o w = some { e with st := .active } ∧
      (∃ b : Subscriber, tget v.pkg.subs g = some (old ++ [b]) ∧ (b.ctx, b.tslot, b.slot) = (o.key.ctx, o.key.tslot, w.slot) ∧ b.ovr = 0 ∧
        b.queued = [] ∧ b.parked = false) ∧
      ∃ t' : Team, v.team? o.key.ctx o.key.tslot = some { t with scratch := t'.scratch, fbits := t'.fbits } ∧
        (∀ k < 16, mread t'.scratch (w.slot + k) = s.homeByte (16 * g + k)) ∧
        (∀ a, (a < w.slot ∨ w.slot + 16 ≤ a) → mread t'.scratch a = mread t.scratch a) ∧
        ∀ q, q ∈ t'.fbits ↔ q ∈ t.fbits ∨ q = w.slot / 16)) ∧
  (∀ (s : State) (id : Nat) (o : EngOp) (w : StandOp) (t : Team) (g : Nat) (l : List Subscriber) (b : Subscriber), s.running id o t →
    o.work = .stand w → w.phase = 1 → w.kind ≠ .stand → rising s.pkg.subs → tget s.pkg.subs g = some l → b ∈ l →
    (∀ e ∈ s.pkg.subs, ∀ x ∈ e.2, (x.ctx, x.tslot, x.slot) = (o.key.ctx, o.key.tslot, w.slot) ↔ (e.1 = g ∧ x = b)) →
    let v := s.engineTurn id
    (b.queued ≠ [] → v = s) ∧
    (b.queued = [] → v.ctxs = s.ctxs ∧
      (w.kind = .unstand → v.ops = s.ended id (doneWord 0 b.ovr) ∧ (tget v.pkg.subs g).getD [] = l.filter (· != b) ∧ v.entryOf o w = none) ∧
      (w.kind = .substat → b.removing = true → v = { s with ops := s.ended id (doneWord 7 (11 * 2 ^ 24)) }) ∧
      (w.kind = .substat → b.removing = false → v.ops = s.ended id (doneWord 0 (16 * l.length + b.ovr)) ∧
        tget v.pkg.subs g = some (if w.clr = true then l.map fun x => if x = b then { b with ovr := 0 } else x else l)))) ∧
  (∀ (s : State) (id pos : Nat) (o : EngOp) (l : L2Op) (pa v : Pair), tget s.ops id = some o → o.result = none → o.work = .l2 l →
    l.sent.find? (fun e => e.1 == pos) = some (pos, pa, v) → inHbm (localOf pa) = true →
    (∀ e ∈ l.sent, e.2.1 = pa → pos ≤ e.1) → (localOf pa) % l.width = 0 →
    (l.width = 1 ∨ l.width = 2 ∨ l.width = 4 ∨ l.width = 8) → s.unsubscribed (localOf pa / 128) → s.hasRoom (localOf pa / 128) →
    let rest := l.sent.filter fun e => e.1 != pos
    let after := fun (s : State) (w : L2Op) => tmod s.ops id fun o => { o with work := .l2 w }
    (l.kind = .gather → ∃ t, exec (.elementRequest id pos) s = .next t ∧ (∀ a, t.homeByte a = s.homeByte a) ∧
      t.ops = after s { l with
        sent := l.sent.filter fun e => e.2.1 != pa
        got := l.got ++ (l.sent.filter fun e => e.2.1 == pa).map fun e => (e.1, pa, BitVec.ofNat 64 (s.homeNat (localOf pa) l.width)) } ∧
      { t with ops := [], pkg := s.pkg, fresh := s.fresh } = { s with ops := [] }) ∧
    (l.kind = .scatter → ∃ t, exec (.elementRequest id pos) s = .next t ∧ s.storedAt t (localOf pa) l.width v.toNat ∧
      t.ops = after s { l with sent := rest } ∧ { t with ops := [], pkg := s.pkg, fresh := s.fresh } = { s with ops := [] }) ∧
    (l.kind = .scadd → l.width = 4 → v.toNat < 2 ^ 32 → ((s.updateArray (localOf pa / 128)).length < 32 ∨ ∀ k, s.hasRoom k) → ∃ t, exec (.scaddUpdate id pos) s = .next t ∧
      s.storedAt t (localOf pa) 4 (scaddOf l.ops l.ft (s.homeNat (localOf pa) 4) v.toNat) ∧
      t.ops = after s { l with sent := rest } ∧ { t with ops := [], pkg := s.pkg, fresh := s.fresh } = { s with ops := [] })) ∧
  (∀ (s : State) (id : Nat) (o : EngOp) (l : L2Op) (b : List Byte) (t : Team), tget s.ops id = some o → o.result = none → o.work = .l2 l →
    l.kind = .gather → l.checked = true → l.next = l.k → l.stopWord = none → l.sent = [] → l.granule = some b → b.length = 16 →
    l.data % 16 = 0 → s.team? o.key.ctx o.key.tslot = some t → Mem.wf t.scratch = true →
    let off := l.data + 16 * l.delivered
    (∀ w ∈ s.feWaits, (w.ctx, w.tslot, w.granule) ≠ (o.key.ctx, o.key.tslot, off / 16)) →
    ∃ (v : State) (t' : Team), exec (.engineDelivery id) s = .next v ∧
      v.ops = tmod s.ops id (fun o => { o with work := .l2 { l with delivered := l.delivered + 1 } }) ∧
      v.team? o.key.ctx o.key.tslot = some { t with scratch := t'.scratch, fbits := t'.fbits } ∧
      (∀ k < 16, mread t'.scratch (off + k) = b.getD k 0) ∧ (∀ a, (a < off ∨ off + 16 ≤ a) → mread t'.scratch a = mread t.scratch a) ∧
      ∀ g, g ∈ t'.fbits ↔ g ∈ t.fbits ∨ g = off / 16) ∧
  ∀ (s : State) (g sub : Nat) (l : List Subscriber) (b : Subscriber) (v : BitVec 128) (rest : List (BitVec 128 × Nat)) (t : Team),
    rising s.pkg.subs → tget s.pkg.subs g = some l → l.find? (fun x => x.id == sub) = some b →
    (∀ e ∈ s.pkg.subs, ∀ x ∈ e.2, (x.id = sub ∨ (x.ctx, x.tslot, x.slot) = (b.ctx, b.tslot, b.slot)) → x = b ∧ e.1 = g) →
    b.queued = (v, 0) :: rest → b.slot % 16 = 0 → s.team? b.ctx b.tslot = some t → Mem.wf t.scratch = true →
    (∀ w ∈ s.feWaits, (w.ctx, w.tslot, w.granule) ≠ (b.ctx, b.tslot, b.slot / 16)) →
    ∃ (u : State) (t' : Team), exec (.pushDelivery sub) s = .next u ∧ u.team? b.ctx b.tslot = some { t with scratch := t'.scratch, fbits := t'.fbits } ∧
      mreadN t'.scratch b.slot 16 = v.toNat ∧ (∀ a, (a < b.slot ∨ b.slot + 16 ≤ a) → mread t'.scratch a = mread t.scratch a) ∧
      (∀ q, q ∈ t'.fbits ↔ q ∈ t.fbits ∨ q = b.slot / 16) ∧
      tget u.pkg.subs g = some (l.map fun x => if x = b then
        { b with queued := rest, ovr := if b.slot / 16 ∈ t.fbits then min 15 (b.ovr + 1) else b.ovr } else x)

/-- R226, R239, R242, R243, R248: TYPED_BUFFER_HANDOVER passes a buffer that no engine work of its owner uses to a declared context,
with the owner's bytes kept for it and the new owner's own, or zeros; MATRIX_OP_BEGIN of an MZERO zeroes its planes and completes
with their number; MLOOP_STEP_BOUNDARY performs the next step on the chain of its parity, and at a hand-over, which takes place where another context claims the unit or a
buffer or this one is being moved, writes the chains to CBUF, where nothing has written the buffers since the MLOOP was issued (R255). What a step adds is the exact sum of
its products (R235, 02 R49 to R51). R250: an MFOLD folds its planes, and takes NANTRAP where the fold makes a NaN and MATCTL asks for
it (R246, R247). R251 to R253, 02 R47: a CVTDN converts its rows in order, into ABUF with its exponents, or by way of L1 into memory,
counts its clamped elements and NaN outputs, and ends OVERFLOW at a row that does not fit under OVF = 11; of a block with exponent 255
the elements are not stated (log 26). -/
def Obligations.MatrixUnitRuns : Prop :=
  (∀ (s : State) (core ctx buf : Nat) (c : Ctx), s.ctx? ctx = some c → c.typed = true → c.core = core → buf < 3 →
    (s.core core).owner buf ≠ some ctx → (∀ e ∈ s.ops, e.2.uses buf = false) →
    ∃ v, exec (.typedBufferHandover core ctx buf) s = .next v ∧ (v.core core).owner buf = some ctx ∧
      (v.core core).buf buf = ((c.typedImage buf).map (·.data)).getD [] ∧
      (buf < 2 → (v.core core).exps buf = ((c.typedImage buf).map (·.exps)).getD []) ∧
      (∀ o x, (s.core core).owner buf = some o → s.ctx? o = some x → o ≠ ctx →
        (v.ctx? o).map (·.typedImage buf) = some (some ⟨(s.core core).buf buf, (s.core core).exps buf⟩)) ∧
      (∀ b, b < 3 → b ≠ buf → (v.core core).owner b = (s.core core).owner b ∧ (v.core core).buf b = (s.core core).buf b) ∧
      ∀ k, v.thread? k = s.thread? k) ∧
  (∀ (s : State) (ctx id : Nat) (c : Ctx) (o : EngOp) (m : MatOp), s.ctx? ctx = some c → c.matq.head? = some id → tget s.ops id = some o →
    o.key.ctx = ctx → o.work = .mat m → o.result = none → o.canceled = false → m.begun = false → m.kind = .mzero → m.next = 0 → c.typed = true → c.moving = none →
    (∀ b < 3, (s.core c.core).owner b = some ctx) → Mem.wf (s.core c.core).cbuf = true →
    let n := (m.w1.extractLsb' 0 4).toNat + 1
    let lo := 16384 * (m.w1.extractLsb' 24 8).toNat
    ∃ v o', exec (.matrixOpBegin ctx) s = .next v ∧ tget v.ops id = some o' ∧
      (∃ before, o' = { o with result := some (BitVec.ofNat 32 n), work := .mat { m with before } }) ∧
      (v.ctx? ctx).map (·.matq) = some (c.matq.filter (· != id)) ∧
      (∀ a, mread (v.core c.core).cbuf a = if lo ≤ a ∧ a < lo + 16384 * n then 0 else mread (s.core c.core).cbuf a) ∧
      (v.core c.core).abuf = (s.core c.core).abuf ∧ (v.core c.core).wbuf = (s.core c.core).wbuf ∧ ∀ k, v.thread? k = s.thread? k) ∧
  (∀ (s : State) (ctx id : Nat) (c : Ctx) (o : EngOp) (m : MatOp), s.ctx? ctx = some c → c.matq.head? = some id → tget s.ops id = some o →
    o.key.ctx = ctx → o.work = .mat m → o.result = none → o.canceled = false → m.begun = false → m.kind = .mfold → m.next = 0 → c.typed = true → c.moving = none →
    (∀ b < 3, (s.core c.core).owner b = some ctx) → Mem.wf (s.core c.core).cbuf = true → (∀ b ∈ m.was, b.c = (s.core c.core).cbuf) →
    let ct := (m.w1.extractLsb' 24 8).toNat
    let x := s.core c.core
    let at_ := fun (y : Core) t k => mreadN y.cbuf (16384 * t + 4 * k) 4
    let sum := fun k => (addOf f32 0 1 (at_ x ct k) (at_ x (ct + 1) k)).bits
    let makes := fun k => f32.nanBits (sum k) = true ∧ f32.nanBits (at_ x ct k) = false ∧ f32.nanBits (at_ x (ct + 1) k) = false
    ∃ v before w, exec (.matrixOpBegin ctx) s = .next v ∧ tget v.ops id = some { o with result := some w, work := .mat { m with before } } ∧
      (v.ctx? ctx).map (·.matq) = some (c.matq.filter (· != id)) ∧
      (∀ k < 4096, at_ (v.core c.core) ct k = sum k ∧ at_ (v.core c.core) (ct + 1) k = 0) ∧
      (∀ a, (a < 16384 * ct ∨ 16384 * (ct + 2) ≤ a) → mread (v.core c.core).cbuf a = mread x.cbuf a) ∧
      (v.core c.core).abuf = x.abuf ∧ (v.core c.core).wbuf = x.wbuf ∧ (∀ k, v.thread? k = s.thread? k) ∧
      (c.regs.matctl.getLsbD 0 = false ∨ (∀ k < 4096, ¬makes k) → w = doneWord 0 0 ∧ (v.ctx? ctx).map (·.matnanpos) = some c.matnanpos) ∧
      ∀ k < 4096, c.regs.matctl.getLsbD 0 = true → makes k → (∀ j < k, ¬makes j) →
        w = doneWord 6 0 ∧ (v.ctx? ctx).map (·.matnanpos) = some (BitVec.ofNat 32 (2 ^ 31 + 2 ^ 20 + ct * 2 ^ 16 + k))) ∧
  (∀ (s : State) (id : Nat) (c : Ctx) (t : Team) (o : EngOp) (m : MatOp), s.running id o t → s.ctx? o.key.ctx = some c → o.work = .mat m →
    m.kind = .cvtdn → m.begun = true → (∀ b < 3, (s.core c.core).owner b = some o.key.ctx) → (∀ b ∈ m.was, b.c = (s.core c.core).cbuf) →
    let v := s.engineTurn id
    let x := s.core c.core
    let y := v.core c.core
    let i := m.next
    let pfmt := (m.w1.extractLsb' 0 2).toNat
    let rm := m.w1.extractLsb' 21 3
    let ovf := m.w1.extractLsb' 17 2
    let row := fun k => BitVec.ofNat 32 (mreadN x.cbuf (16384 * (m.w1.extractLsb' 24 8).toNat + 256 * i + 4 * k) 4)
    let at_ := fun k => 128 * m.a.toNat + cvtPlace pfmt i k
    let after := fun sat nan => some { o with work := .mat { m with next := i + 1, sat := m.sat + sat, nan := m.nan + nan } }
    let inL1 := fun a => s.pkg.deviceId.toNat * 2 ^ 38 + a / 128
    rm.toNat < 4 →
    (64 ≤ i → tget v.ops id = some { o with sat := o.sat + m.sat, result := some (doneWord 0 (m.nan * 2 ^ 13 + m.sat)) } ∧
      (v.ctx? o.key.ctx).map (·.matq) = some (c.matq.filter (· != id))) ∧
    (i < 64 → m.w1.getLsbD 2 = false → Mem.wf x.abuf = true → Mem.wf x.aexp = true →
      (cvtOverflows pfmt rm ovf row → tget v.ops id = some { o with result := some (doneWord 4 i) } ∧ v.cores = s.cores) ∧
      (¬cvtOverflows pfmt rm ovf row → ∃ b e sat nan, cvtMakes pfmt rm ovf row b e sat nan ∧ tget v.ops id = after sat nan ∧
        (∀ k < cvtBytes pfmt, mread y.abuf (at_ k) = b k) ∧ (∀ a, (∀ k < cvtBytes pfmt, a ≠ at_ k) → mread y.abuf a = mread x.abuf a) ∧
        (∀ q, mread y.aexp q = if 2 ≤ pfmt ∧ (q = at_ 0 / 32 ∨ (pfmt = 2 ∧ q = at_ 0 / 32 + 1)) then BitVec.ofNat 8 e else mread x.aexp q) ∧
        y.wbuf = x.wbuf ∧ y.cbuf = x.cbuf ∧ ∀ k, v.thread? k = s.thread? k)) ∧
    (i < 64 → m.w1.getLsbD 2 = true → s.noLines → ∀ p : Nat → Nat,
      (∀ k < cvtBytes pfmt, s.maps o (m.a + BitVec.ofNat 64 (cvtPlace pfmt i k)) .store (p k)) → (∀ k < cvtBytes pfmt, p k = p (k / 64 * 64) + k % 64) →
      m.a.toNat % 128 = 0 → ¬cvtOverflows pfmt rm ovf row →
      (p 0 / 128 ≠ p (cvtBytes pfmt - 1) / 128 ∨ cvtBytes pfmt ≤ 64) → ∃ b e sat nan, cvtMakes pfmt rm ovf row b e sat nan ∧ tget v.ops id = after sat nan ∧
        (∀ k < cvtBytes pfmt, ∃ l, tget y.l1 (inL1 (p k)) = some l ∧ l.dirty.getLsbD (p k % 128) = true ∧ l.data.extractLsb' (8 * (p k % 128)) 8 = b k) ∧
        (2 ≤ pfmt → s.hasRoom (p 0 / 128) → ∀ h w fmt, tget s.pkg.l2 (p 0 / 128) = some h → h.tag = some (w, fmt) → fmt.toNat = pfmt - 1 →
          ∃ h', tget v.pkg.l2 (p 0 / 128) = some h' ∧ h'.sideDirty = true ∧
            h'.side.extractLsb' (8 * (p 0 % 128 / cvtBytes pfmt)) 8 = BitVec.ofNat 8 e))) ∧
  ∀ (s : State) (ctx id : Nat) (c : Ctx) (o : EngOp) (m : MatOp), s.ctx? ctx = some c → c.matq.head? = some id → tget s.ops id = some o →
    o.key.ctx = ctx → o.work = .mat m → o.result = none → o.canceled = false → m.begun = true → m.kind = .mloop → m.nan = 0 →
    m.next < (m.w1.extractLsb' 0 12).toNat + 1 → m.even.length = 4096 → m.odd.length = 4096 → (∀ b < 3, (s.core c.core).owner b = some ctx) →
    Mem.wf (s.core c.core).cbuf = true →
    let x := s.core c.core
    (∀ b ∈ m.was, b = ⟨⟨x.abuf, x.aexp⟩, ⟨x.wbuf, x.wexp⟩, x.cbuf⟩) → (∀ e ∈ m.wrote, e.2 = 0) →
    let abase := 128 * ((m.a.toNat + m.next * 2 ^ (m.w1.extractLsb' 20 4).toNat) % 2048)
    let wbase := 128 * ((m.b.toNat + m.next * 2 ^ (m.w1.extractLsb' 16 4).toNat) % 4096)
    (s.handsOver ctx = false → ∃ (v : State) (o' : EngOp) (m' : MatOp) (value : Nat → Word),
      (∀ k < 4096, stepOutput (m.w1.extractLsb' 14 2).toNat (mread x.abuf) (mread x.aexp) (mread x.wbuf) (mread x.wexp) abase wbase (k / 64) (k % 64) (value k)) ∧
      exec (.mloopStepBoundary ctx false) s = .next v ∧ tget v.ops id = some o' ∧ o' = { o with work := .mat m' } ∧
      m'.next = m.next + 1 ∧ (∀ k < 4096, (if m.next % 2 = 0 then m'.even else m'.odd)[k]? =
        some (BitVec.ofNat 32 (addOf f32 0 1 ((if m.next % 2 = 0 then m.even else m.odd).getD k 0).toNat (value k).toNat).bits)) ∧
      (if m.next % 2 = 0 then m'.odd = m.odd else m'.even = m.even) ∧ { v with ops := s.ops } = s) ∧
    (s.handsOver ctx = true → ∃ v, exec (.mloopStepBoundary ctx true) s = .next v ∧
      (∃ was wrote before, tget v.ops id = some { o with work := .mat { m with begun := false, even := [], odd := [], was, wrote, before } }) ∧
      (∀ k < 4096, mreadN (v.core c.core).cbuf (16384 * (m.w1.extractLsb' 24 8).toNat + 4 * k) 4 = (m.even.getD k 0).toNat ∧
        mreadN (v.core c.core).cbuf (16384 * ((m.w1.extractLsb' 24 8).toNat + 1) + 4 * k) 4 = (m.odd.getD k 0).toNat) ∧
      ∀ a, (a < 16384 * (m.w1.extractLsb' 24 8).toNat ∨ 16384 * ((m.w1.extractLsb' 24 8).toNat + 2) ≤ a) →
        mread (v.core c.core).cbuf a = mread x.cbuf a) ∧
    exec (.mloopStepBoundary ctx !(s.handsOver ctx)) s = .next s

/-- R380, R381, R384, R387, R388: TLB_WALK_COMPLETE, for a context of the die and its address space, installs the leaf found, or a missing
page joins the pending table where an operation in flight, here one of the L2 engines, accesses it next, which ends in FAULT; REPLAY_ALL
makes the parked threads of its die's contexts Runnable and empties the table; REFUSE has those parked on its page trap; and the
invalidations leave no entry that they cover in a TLB of the die, once no access translated with one is under way. -/
def Obligations.TranslationCommands : Prop :=
  (∀ (s : State) (die asid : Nat) (va : Pair), die < 4 → (∃ c ∈ s.ctxs, c.2.asid = asid ∧ c.2.core / 96 = die) →
    (∀ e l, s.walk die asid va = .leaf e l → ∃ v rest, exec (.tlbWalkComplete die asid va) s = .next v ∧
      (v.die die).tlb = ⟨asid, vpageOf va l, l, e⟩ :: rest ∧ (∀ t ∈ rest, t ∈ (s.die die).tlb) ∧
      { v with pkg := s.pkg } = s.modDie die fun d => { d with tlb := (v.die die).tlb }) ∧
    (∀ l, s.walk die asid va = .missing l → s.ops = [] ∨ (asid, vpageOf va 0) ∈ (s.die die).pending →
      exec (.tlbWalkComplete die asid va) s = .next s) ∧
    ∀ l id o w c t, s.walk die asid va = .missing l → (∀ e ∈ (s.die die).tlb, e.covers asid va = false) →
      (asid, vpageOf va 0) ∉ (s.die die).pending → (s.die die).pending.length < 256 →
      s.ops = [(id, o)] → o.result = none → o.work = .l2 w → w.checked = true → w.stopWord = none → w.next < w.k → w.k ≤ 65536 →
      s.ctx? o.key.ctx = some c → c.asid = asid → c.core / 96 = die → s.team? o.key.ctx o.key.tslot = some t →
      (let i := BitVec.ofNat 32 (mreadN t.scratch (w.idx + 4 * w.next) 4)
       va = w.base + (if w.sx then i.signExtend 64 else i.setWidth 64) * BitVec.ofNat 64 w.width) → canonical va = true →
      ∃ v, exec (.tlbWalkComplete die asid va) s = .next v ∧ (v.die die).pending = (s.die die).pending ++ [(asid, vpageOf va 0)] ∧
        v.ops = [(id, { o with work := .l2 { w with stopWord := some (BitVec.ofNat 32 (2 ^ 28 + w.next)) } })] ∧
        v.ctxs = s.ctxs ∧ v.cores = s.cores) ∧
  (∀ (s : State) (die : Nat), die < 4 → s.distinct → (s.die die).tcb.busy = 1 →
    ∃ v, exec (.replayAll die) s = .next v ∧
      (∀ k th c, s.ctx? k.ctx = some c → s.thread? k = some th → v.thread? k = some (if c.core / 96 = die then th.replayed else th)) ∧
      (v.die die).pending = [] ∧ (v.die die).tcb = { (s.die die).tcb with busy := 0 } ∧ (∀ d, d < 4 → d ≠ die → v.die d = s.die d) ∧
      v.held = s.held.map (fun h => { h with page := if h.die = die then none else h.page }) ∧
      { v with ctxs := [], dies := s.dies, held := [] } = { s with ctxs := [], held := [] }) ∧
  (∀ (s : State) (die : Nat), die < 4 → s.distinct → (s.die die).tcb.busy = 2 →
    let page := ((s.die die).tcb.carg.toNat % 65536, (s.die die).tcb.carg.toNat / 65536 % 2 ^ 40)
    page ∈ (s.die die).pending →
    (∀ k th c ea kind fwi, s.ctx? k.ctx = some c → s.thread? k = some th → c.core / 96 = die → th.parkedAt = some (ea, kind, fwi) →
      (c.asid, vpageOf ea 0) = page → s.takes c.core th (if kind = 2 then 0x031 else 0x030) = true) →
    ∃ v, exec (.refuse die) s = .next v ∧ (v.die die).pending = (s.die die).pending.filter (fun p => p != page) ∧
      (v.die die).tcb = { (s.die die).tcb with busy := 0 } ∧
      ∀ k th c, s.ctx? k.ctx = some c → s.thread? k = some th → v.thread? k = some (match th.parkedAt with
        | some (ea, kind, fwi) => if c.core / 96 = die ∧ (c.asid, vpageOf ea 0) = page then
            th.trapped (if kind = 2 then 0x031 else 0x030) fwi th.pc (if kind = 1 then 1 else 0) ea
              (s.vector c.core th (if kind = 2 then 0x031 else 0x030)) else th
        | none => th)) ∧
  ∀ (s : State) (die cmd : Nat) (i : Instr), die < 4 → ((cmd = 3 ∧ i = .invPage die) ∨ (cmd = 4 ∧ i = .invAsid die) ∨ (cmd = 5 ∧ i = .invAll die)) →
    (s.die die).tcb.busy = cmd → s.translatedInFlight die none = false →
    (∀ g, g / 96 = die → ∀ e ∈ (s.core g).l1, e.2.dirty = 0) → rising s.cores →
    let drop := fun t : TlbEntry => t.dropped cmd ((s.die die).tcb.carg.toNat % 65536) ((s.die die).tcb.carg.toNat / 65536 % 2 ^ 40)
    ∃ v, exec i s = .next v ∧ (v.die die).tlb = (s.die die).tlb.filter (fun t => !(drop t)) ∧
      (v.die die).tcb = { (s.die die).tcb with busy := 0 } ∧ (∀ d, d < 4 → d ≠ die → v.die d = s.die d) ∧
      (∀ g, v.core g = { s.core g with tlb := if g / 96 = die then (s.core g).tlb.filter (fun t => !(drop t)) else (s.core g).tlb }) ∧
      { v with cores := [], dies := s.dies } = { s with cores := [] }

/-- R386, R400 to R402, R407, R411, R424, R434 (log 20, 21, 36 for what they leave open): REGISTER_WRITE writes the fields of its
register that take writes; the windows take BASE and LIMIT at multiples of 65,536, and FMT, while EN is 0, and EN where no ranges
would overlap, a rejected write changing nothing; a power control write waits for the next interval. A management request to the id
and routing table sets the device id in the safe stage, before any trip, or the member mask, and reads them and the bases of the
queue table and of the slot-table mirror; one of other than four bytes is rejected (log 36). -/
def Obligations.ControlSpaceWrites : Prop :=
  (∀ (s : State) (v : Pair), ∀ e ∈ ctlWrites s v, exec (.registerWrite e.1 e.2.1 v) s = .next e.2.2) ∧
  (∀ (s : State) (w f : Nat) (v : Pair), w < 16 → f < 4 →
    let x := s.win w
    let a := BitVec.ofNat 64 (v.toNat % 2 ^ 45)
    exec (.windowFieldWrite w f v) s = .next (
      if x.en = true ∨ (f < 2 ∧ v.toNat % 65536 ≠ 0) then s
      else if f = 0 then s.withWin w { x with base := a } else if f = 1 then s.withWin w { x with limit := a }
      else if f = 2 then s.withWin w { x with expbase := a - BitVec.ofNat 64 (a.toNat % 256) }
      else s.withWin w { x with fmt := if v.toNat % 4 = 3 then x.fmt else BitVec.ofNat 2 v.toNat })) ∧
  (∀ (s : State) (w : Nat) (v : Word), w < 16 →
    let x := s.win w
    let y := { x with fmt := if x.en = true ∨ v.extractLsb' 1 2 = 3 then x.fmt else v.extractLsb' 1 2 }
    (v.getLsbD 0 = false → exec (.windowEnable w v) s = .next (s.withWin w { y with en := false })) ∧
    (v.getLsbD 0 = true → x.en = false → ¬(s.clashes w y) → exec (.windowEnable w v) s = .next (s.withWin w { y with en := true })) ∧
    (v.getLsbD 0 = true → (x.en = true ∨ s.clashes w y) → exec (.windowEnable w v) s = .next s)) ∧
  (∀ (s : State) (die off : Nat) (v : Word), die < 4 → exec (.powerControlWrite die off v) s =
    .next (s.modDie die fun d => { d with power := { d.power with writes := d.power.writes ++ [(off, v)] } })) ∧
  ∀ (s : State) (p : PacketHead) (off n : Nat) (write : Bool) (v : Word), s.asked p 2 off n write →
    (n ≠ 4 → exec (.mgmtRoutingId p write v) s = .next (s.answers p true [])) ∧
    (n = 4 → write = true → off = 0 → exec (.mgmtRoutingId p true v) s = .next ((s.modPkg fun x => { x with
      deviceId := if x.stage = 1 ∧ x.tripped = false then v.setWidth 19 else x.deviceId }).answers p false [])) ∧
    (n = 4 → write = true → off = 4 → exec (.mgmtRoutingId p true v) s = .next ((s.modPkg fun x => { x with
      routing := { x.routing with members := v.setWidth 16 } }).answers p false [])) ∧
    (n = 4 → write = false → ∀ w : Word, (off, w) ∈ [(0, s.pkg.deviceId.setWidth 32), (4, s.pkg.routing.members.setWidth 32), (8, loWord s.pkg.qtbase),
        (12, hiWord s.pkg.qtbase), (16, loWord s.pkg.mirror), (20, hiWord s.pkg.mirror)] →
      exec (.mgmtRoutingId p false v) s = .next (s.answers p false (leBytes 4 w.toNat)))

/-- R358, R359, R362, R365, R366, R372: QUEUE_ENABLE has an enabled queue served, and refuses a descriptor that breaks its limits, the
read-only words being the device's own from then on, and a queue whose EN reads 0 is served no longer; QUEUE_SLOT_TAKEN puts a task entry into its bin and makes a launch of a packet,
whose slot is then finished with; TASK_DELIVERY assigns the next entry in drain order to the first request, and an entry that has
been assigned reaches its thread, or returns to the head of its bin where the thread has ended, SERVED and CURBIN staying as they are
(the model's choice, log 89); a request of a closed and empty
queue gets eight words of 0. -/
def Obligations.QueuesServe : Prop :=
  (∀ (s : State) (q : Nat), s.describes q →
    (s.qEn q = false → (s.queue q).on = true →
      exec (.queueEnable q) s = .next { s with queues := tset s.queues q { s.queue q with on := false } }) ∧
    (s.qEn q = true → (s.queue q).on = false →
      let ok := 4 ≤ s.qLog q ∧ s.qLog q ≤ 20 ∧ s.qRing q % (s.qSize q * s.qSlotBytes q) = 0
      (ok → ∃ v, exec (.queueEnable q) s = .next v ∧ v.queues = tset s.queues q { s.queue q with on := true } ∧
        s.redescribed v q (if (s.qCtl q).testBit 3 then s.qCtl q - 8 else s.qCtl q) ∧
        { v with pkg := s.pkg, fresh := s.fresh, queues := [] } = { s with queues := [] }) ∧
      (¬ok → ∃ v, exec (.queueEnable q) s = .next v ∧ s.redescribed v q ((s.qCtl q ||| 8) - 1) ∧
        { v with pkg := s.pkg, fresh := s.fresh } = s))) ∧
  (∀ (s : State) (q : Nat), s.describes q → s.served q = true →
    let x := s.queue q
    let w := x.taking
    (s.qWidx q - w).toNat ≤ s.qSize q → (w - x.ridx).toNat < s.qSize q → w ∉ x.lost → inHbm (s.slotAddr q w) = true →
    let ws := (List.range (s.qSlotBytes q / 4)).map fun k => BitVec.ofNat 32 (s.homeNat (s.slotAddr q w + 4 * k) 4)
    w ≠ s.qWidx q →
    (s.qMode q = true → (ws.getD 7 0).toNat = 2 ^ 31 + w.toNat % 2 ^ 31 →
      exec (.queueSlotTaken q) s = .next { s with queues := tset s.queues q { x with
        taking := w + 1
        bins := tset x.bins (binOf (pairOf (ws.getD 0 0) (ws.getD 1 0)).toNat)
          ((tget x.bins (binOf (pairOf (ws.getD 0 0) (ws.getD 1 0)).toNat)).getD [] ++ [w]) } }) ∧
    (s.qMode q = false → (ws.getD 15 0).toNat = 2 ^ 31 + w.toNat % 2 ^ 31 → x.finished = [] → w = x.ridx →
      ∃ v l, exec (.queueSlotTaken q) s = .next v ∧ tget v.launches s.fresh = some l ∧ l.queue = q ∧ l.slot = w ∧ l.die = q / 512 ∧
        l.asid = s.qAsid q ∧ l.packet = ws ∧ l.prio = ((ws.getD 12 0).extractLsb' 16 2).toNat ∧ l.ready = 0 ∧ l.refused = none ∧ l.done = false ∧
        (∀ k, k ≠ s.fresh → tget v.launches k = tget s.launches k) ∧ v.queues = tset s.queues q { x with taking := w + 1, ridx := w + 1, lost := x.lost.filter (· != w) } ∧ s.storedAt v (s.qAddr q + 0x28) 4 (w + 1).toNat)) ∧
  (∀ (s : State) (q : Nat) (r : QReq), s.describes q → s.served q = true → s.qMode q = true → (∀ e ∈ s.qreqs, e.queue = q → e.got = none) →
    s.qreqs.find? (fun r => r.queue == q && !r.withdrawn) = some r →
    let x := s.queue q
    (∀ w rest, x.bin x.cur = w :: rest → x.served < 4096 →
      ∃ v, exec (.taskDelivery q) s = .next v ∧ v.qreqs = s.qreqs.map (fun e => if e = r then { e with got := some (x.cur, w) } else e) ∧
        (v.queue q).bin x.cur = rest ∧ (v.queue q).cur = x.cur ∧ (v.queue q).served = x.served + 1 ∧
        s.storedAt v (s.qAddr q + 0xC) 4 ((x.served + 1) * 64 + x.cur) ∧
        { v with pkg := s.pkg, fresh := s.fresh, qreqs := [], queues := [] } = { s with qreqs := [], queues := [] }) ∧
    (∀ b w rest, (x.bin x.cur = [] ∨ x.served = 4096) → x.cur < 64 → (∃ k, 0 < k ∧ k ≤ 64 ∧ b = (x.cur + k) % 64 ∧ ∀ j, 0 < j → j < k →
        x.bin ((x.cur + j) % 64) = []) → x.bin b = w :: rest →
      ∃ v, exec (.taskDelivery q) s = .next v ∧ v.qreqs = s.qreqs.map (fun e => if e = r then { e with got := some (b, w) } else e) ∧
        (v.queue q).bin b = rest ∧ (v.queue q).cur = b ∧ (v.queue q).served = 1)) ∧
  (∀ (s : State) (q : Nat) (r : QReq) (th : Thread), s.describes q → s.served q = true → s.qMode q = true → s.thread? r.key = some th →
    let x := s.queue q
    let got := fun (v : State) (ws : List Word) => ∃ y, v.thread? r.key = some y ∧
      (∀ j < 8, 0 < r.d + j → r.d + j < 128 → y.get (r.d + j) =
        if tget th.pend (r.d + j) = some (.landing r.landing) then ws.getD j 0 else th.get (r.d + j)) ∧
      y.count 0 = th.count 0 - 1 ∧ y.pend = th.pend.filter (fun p => p.2 != .landing r.landing) ∧ v.qreqs = s.qreqs.filter (fun e => e != r)
    (∀ b w, s.qreqs.find? (fun r => r.queue == q && r.got.isSome) = some r → r.got = some (b, w) →
      (th.run ≠ .ended → (∀ p ∈ x.puts, p.slot ≠ w) → w ∉ x.lost → (s.qWidx q - w).toNat ≤ s.qSize q → (w - x.ridx).toNat < s.qSize q →
        inHbm (s.slotAddr q w) = true → ∃ v, exec (.taskDelivery q) s = .next v ∧
          got v ((List.range 8).map fun k => BitVec.ofNat 32 (s.homeNat (s.slotAddr q w + 4 * k) 4)) ∧ (v.queue q).bins = x.bins) ∧
      (th.run = .ended → exec (.taskDelivery q) s = .next { s with
        qreqs := s.qreqs.filter (fun e => e != r), queues := tset s.queues q { x with bins := tset x.bins b (w :: x.bin b) } })) ∧
    ((∀ e ∈ s.qreqs, e.queue = q → e.got = none) → s.qreqs.find? (fun r => r.queue == q && !r.withdrawn) = some r → th.run ≠ .ended →
      (∀ b, x.bin b = []) → s.qClosed q = true → x.taking = s.qWidx q →
      ∃ v, exec (.taskDelivery q) s = .next v ∧ got v (List.replicate 8 0))) ∧
  ∀ s t : State, step s = .next t → ∀ q x, tget t.queues q = some x → x.on = true → t.qEn q = true

/-- R20, R24, R267, R288, R290, R362, R363, R370: LAUNCH_BIND writes the bind record of the next cluster of the ready launch of the
highest priority, the earliest ready first, with a copy of its packet; CLUSTER_BIND binds a cluster of one team to the first core
that accepts it (STATE 2), and then places it there (STATE 3), in a new context where the core has none, with its threads as R20
starts them, or has it pending again where the core no longer accepts it; TEAM_END removes a team that has ended, and for whose loads and atomics
nothing is still on its way, from its context, and the launch that has no team left is done. Where the copies of packets lie, and that a
cluster takes the lowest free bind record, are the model's choice (log 29 and log 101). -/
def Obligations.LaunchesRun : Prop :=
  (∀ (s : State) (die id k : Nat) (l : Launch), die < 4 → (∀ e ∈ s.launches, e.2.ready ≠ 0 ∨ e.2.refused.isSome = true ∨ e.2.done = true) →
    (s.launches.map (·.1)).Nodup → (id, l) ∈ s.launches →
    (let may := fun e : Nat × Launch => e.2.die = die ∧ e.2.ready ≠ 0 ∧ e.2.failed = false ∧ e.2.nextCluster < e.2.clusters
     may (id, l) ∧ ∀ e ∈ s.launches, may e → e = (id, l) ∨ e.2.prio < l.prio ∨ (e.2.prio = l.prio ∧ l.ready < e.2.ready)) →
    k < 256 → tget (s.die die).binds k = none → (∀ j < k, (tget (s.die die).binds j).isSome = true) →
    ∃ v b, exec (.launchBind die) s = .next v ∧ tget (v.die die).binds k = some b ∧ b.pri = l.prio ∧ b.st = 1 ∧ b.launch = id ∧
      b.first = l.nextCluster * (((l.packet.getD 12 0).extractLsb' 8 4).toNat + 1) * (((l.packet.getD 12 0).extractLsb' 12 3).toNat + 1) ∧
      b.origin = 0xFFFF ∧ b.packet = BitVec.ofNat 64 (s.pkg.deviceId.toNat * 2 ^ 45 + s.packetCopy die k) ∧
      (inHbm (s.packetCopy die k + 63) = true → l.packet.length = 16 → s.spacious → s.pkg.subs = [] →
        ∀ j < 16, v.homeNat (s.packetCopy die k + 4 * j) 4 = (l.packet.getD j 0).toNat) ∧ (∀ j, j ≠ k → tget (v.die die).binds j = tget (s.die die).binds j) ∧
      v.launches = tmod s.launches id (fun l => { l with nextCluster := l.nextCluster + 1 }) ∧ v.ctxs = s.ctxs ∧ v.cores = s.cores) ∧
  (∀ (s : State) (id k o : Nat) (l : Launch) (b : Bind), tget s.launches id = some l → l.die < 4 →
    (l.packet.getD 12 0).extractLsb' 8 7 = 0 → o < 96 →
    ((s.die l.die).binds.find? (fun b => b.2.launch == id && b.2.st == 2) = none →
      (s.die l.die).binds.find? (fun b => b.2.launch == id && b.2.st == 1) = some (k, b) →
      s.accepts (96 * l.die + o) l = true → (∀ p < o, s.accepts (96 * l.die + p) l = false) →
      ∃ v, exec (.clusterBind id) s = .next v ∧ tget (v.die l.die).binds k = some { b with st := 2, origin := 96 * l.die + o } ∧
        (∀ j, j ≠ k → tget (v.die l.die).binds j = tget (s.die l.die).binds j) ∧ v.ctxs = s.ctxs ∧ v.cores = s.cores) ∧
    ((s.die l.die).binds.find? (fun b => b.2.launch == id && b.2.st == 2) = some (k, b) → b.origin = 96 * l.die + o →
      s.accepts (96 * l.die + o) l = false →
      ∃ v, exec (.clusterBind id) s = .next v ∧ tget (v.die l.die).binds k = some { b with st := 1, origin := 0xFFFF } ∧ v.ctxs = s.ctxs) ∧
    ((s.die l.die).binds.find? (fun b => b.2.launch == id && b.2.st == 2) = some (k, b) → b.origin = 96 * l.die + o →
     o ∉ (s.die l.die).disabled → s.resident (96 * l.die + o) = [] → (∀ e ∈ s.ctxs, e.2.moving ≠ some (96 * l.die + o, .active)) →
     let code := pairOf (l.packet.getD 0 0) (l.packet.getD 1 0)
     let w := fun j => l.packet.getD j 0
     let n := ((w 11).extractLsb' 0 10).toNat + 1
     let n := n * (((w 11).extractLsb' 10 10).toNat + 1) * (((w 11).extractLsb' 20 10).toNat + 1)
     canonical code = true → code.toNat % 4 = 0 → n ≤ 1024 →
     ∃ v c t, exec (.clusterBind id) s = .next v ∧ v.ctx? s.fresh = some c ∧ c.asid = l.asid ∧ c.typed = (w 12).getLsbD 15 ∧
       c.place = .active ∧ c.core = 96 * l.die + o ∧ c.teams = [(0, t)] ∧ c.regs = ⟨0, 0, 0, 0x00060DE6, 1⟩ ∧ c.satcount = 0 ∧
       c.matnanpos = 0 ∧ t.index = b.first ∧ t.rank = 0 ∧ t.n = (w 12).toNat % 256 ∧ t.scrSize = ((w 13).toNat + 15) / 16 * 16 ∧
       t.scratch = [] ∧ t.fbits = [] ∧ t.launch = id ∧ t.konst = l.konst ∧ t.threads.length = n ∧
       (∀ tid < n, ∃ th, tget t.threads tid = some th ∧ th.pc = ⟨code.setWidth 56, 0⟩ ∧ th.run = .runnable ∧ th.priv = false ∧
         th.pend = [] ∧ th.flags = 0 ∧ th.view = c.regs ∧ th.bars = Vector.replicate 16 .none ∧ (∀ j < 8, th.count j = 0) ∧
         ∀ r < 128, th.get r = if r = 1 then BitVec.ofNat 32 tid else if r = 2 then BitVec.ofNat 32 b.first
           else if r = 3 then BitVec.ofNat 32 (96 * l.die + o) else 0) ∧
       tget (v.die l.die).binds k = some { b with st := 3, origin := 96 * l.die + o } ∧ (∀ j, j ≠ s.fresh → v.ctx? j = s.ctx? j))) ∧
  ∀ (s : State) (ctx tslot : Nat) (c : Ctx) (t : Team) (l : Launch), s.distinct → s.ctx? ctx = some c → tget c.teams tslot = some t →
    (∀ e ∈ t.threads, e.2.run = .ended) → s.noWork → s.noLines → (∀ r ∈ s.qreqs, r.got = none) →
    (∀ l ∈ s.landings, l.2.key.ctx = ctx → l.2.key.tslot = tslot → l.2.kind = some 7) → (∀ d, (s.die d).lanterns = [] ∧ (s.die d).leaseQ = []) → t.tail = none →
    tget s.launches t.launch = some l → l.packet.getD 4 0 = 0 → l.packet.getD 5 0 = 0 → 0 < l.teamsLeft → l.writing = false →
    ∃ v l', exec (.teamEnd ctx tslot) s = .next v ∧
      v.ctx? ctx = (if tdel c.teams tslot = [] then none else some { c with
        teams := tdel c.teams tslot, futures := tmap c.futures fun _ f => if f.tslot = tslot then { f with st := .free } else f }) ∧
      tget v.launches t.launch = some l' ∧ l' = { l with teamsLeft := l.teamsLeft - 1, done := l.done || decide (l.teamsLeft = 1) } ∧
      (∀ j, j ≠ ctx → (v.ctx? j).map (·.teams) = (s.ctx? j).map (·.teams)) ∧ ∀ j, j ≠ t.launch → tget v.launches j = tget s.launches j

/-- R192, R256 to R264, R295, R321, R322, R362, R387, R425 to R428 (log 67, 68, 69 and 87 for what they leave open): CONTEXT_SWITCH_OUT
has the active and the hot context of a core change places once every member of the hot one's gang can be restored, restores the members
of that gang in the same turn, and requests the switch-out of the active one's gang; a hot context streams out to its image, which holds
it from STREAM_OUT_COMPLETE on, and is read back from it by STREAM_IN_COMPLETE, once what it holds on other devices has been read; a
migration request starts to move the context of the most threads to the coolest island, or lapses, as it does for one whose switch-out
has been requested, and its next turn ends the move; and a move takes no thread's state away, its parked accesses being issued again. -/
def Obligations.ContextsMove : Prop :=
  (∀ (s : State) (core h : Nat), s.distinct → rising (s.core core).groups → s.inPlace core .hot = some h →
    (∀ e ∈ s.ctxs, ∀ p, e.2.left ≠ some (s.us, p)) →
    (s.gangReady h = false → exec (.contextSwitchOut core) s = .next s) ∧
    (s.gangReady h = true → ∃ v y, exec (.contextSwitchOut core) s = .next v ∧ v.ctx? h = some y ∧ y.place = .active ∧
      ∀ k ∈ s.gang h, ∀ x, s.ctx? k = some x → ∃ j ∈ s.gang h, ∃ z, v.ctx? j = some z ∧ z.place = .active ∧ z.core = x.core) ∧
    (s.gangReady h = true → s.gang h = [h] → s.inPlace core .active = none →
      ∃ v y, exec (.contextSwitchOut core) s = .next v ∧ v.ctx? h = some y ∧ y.place = .active ∧ (∀ k, k ≠ h → v.ctx? k = s.ctx? k) ∧
        ∀ k, v.thread? k = s.thread? k) ∧
    ∀ a, s.gangReady h = true → s.gang h = [h] → s.inPlace core .active = some a →
      ∃ v x y, exec (.contextSwitchOut core) s = .next v ∧ v.ctx? a = some x ∧ v.ctx? h = some y ∧ x.place = .hot ∧ y.place = .active ∧
        x.sync.isSome = true ∧ x.gangOut = false ∧ (∀ e ∈ (v.core core).groups, e.2.ctx ≠ a) ∧ (v.core core).ages = [] ∧
        (∀ k, k ≠ a → k ≠ h → v.ctx? k = (s.ctx? k).map fun x =>
          if x.place = .active ∧ k ∈ s.gang a then { x with gangOut := true } else x) ∧
        ((∀ e ∈ (s.core core).groups, e.2.ctx ≠ a) → s.ops = [] → ∀ k, v.thread? k = s.thread? k)) ∧
  (∀ (s : State) (core a : Nat) (c : Ctx) (t : Nat × Team) (l : Launch), s.inPlace core .hot = none → s.activeOf core = some (a, c) →
    (∀ e ∈ s.ctxs, ∀ p, e.2.left ≠ some (s.us, p)) →
    (∃ b ∈ (s.die (c.core / 96)).binds, b.2.st = 1) → t ∈ c.teams → tget s.launches t.2.launch = some l → (l.packet.getD 12 0).getLsbD 18 = true →
    exec (.contextSwitchOut core) s = .next s) ∧
  (∀ (s : State) (ctx : Nat) (c : Ctx) (image : Pair), s.ctx? ctx = some c → c.place = .hot → image.toNat % 65536 = 0 →
    s.streamFree c.core = true → s.persists c = false →
    ∃ v, exec (.streamOutBegin ctx image) s = .next v ∧
      v.ctxs = (s.modCtx ctx fun x => { x with place := .streamingOut, image, pages := [] }).ctxs ∧
      (∀ e ∈ v.pkg.subs, ∀ b ∈ e.2, b.ctx = ctx → b.parked = true ∧ b.queued = []) ∧ { v with ctxs := [], pkg := s.pkg } = { s with ctxs := [] }) ∧
  (∀ (s : State) (ctx : Nat) (c : Ctx), s.ctx? ctx = some c → c.place = .streamingOut → c.moving = none →
    (∀ pages u, s.imagePages c .store = (some pages, u) → let x := { c with place := .saved, pages, bases := [] }
      exec (.streamOutComplete ctx) s = .next (((u.modCtx ctx fun _ => x).writeImage x none).mapPutters ctx fun p => { p with saved := true })) ∧
    ∀ u, s.imagePages c .store = (none, u) →
      exec (.streamOutComplete ctx) s = .next { u with notices := u.notices ++ [⟨.wick, 0x100, BitVec.ofNat 64 ctx, c.image⟩] }) ∧
  (∀ (s : State) (ctx core : Nat) (c : Ctx), s.ctx? ctx = some c → c.place = .saved → c.core = core → core < 384 →
    core % 96 ∉ (s.die (core / 96)).disabled → s.streamFree core = true →
    exec (.streamInBegin ctx core) s = .next ((s.modCtx ctx fun x => { x with
      place := .streamingIn, core, bank := s.emptyBank core }).movePutters ctx core) ∧
    ((s.resident core).length < 3 → s.emptyBank core < 3 ∧ ∀ e ∈ s.resident core, e.2.bank ≠ s.emptyBank core)) ∧
  (∀ (s : State) (ctx : Nat) (c : Ctx) (p : Place), s.distinct → s.ctx? ctx = some c → c.place = .streamingIn → s.restoreBank ctx c.core = some p →
    (p = .active → s.gang ctx = [ctx]) → c.image.toNat % 65536 = 0 →
    (∀ pages u (at_ : Nat → Nat), s.imagePages c .load = (some pages, u) → s.pkg.subs = [] → (∀ q ∈ pages, s.isLocal q.2 = true) →
      (∀ off < c.imageSize, ∃ pa, pageAddr pages (c.image + BitVec.ofNat 64 off).toNat = some pa ∧ s.isLocal pa = true ∧
        inHbm (localOf pa) = true ∧ localOf pa = at_ off) →
      let rd := fun off => u.homeNat (at_ off) 4
      let word := fun off => (BitVec.ofNat 32 (rd off) : Word)
      ∃ v x, exec (.streamInComplete ctx) s = .next v ∧ v.ctx? ctx = some x ∧ x.place = p ∧ x.core = c.core ∧ x.asid = rd 0 % 2 ^ 16 ∧
        x.regs.fpctl = word 0x40 &&& 0x3F ∧ x.satcount = word 0x44 ∧ x.regs.matctl = word 0x48 &&& 1 ∧ x.matnanpos = word 0x4C &&& 0x801F0FFF ∧
        x.regs.trapvec = pairOf (word 0x50) (word 0x54) ∧ x.regs.trapdlg = word 0x58 &&& 0x000EFFF7 ∧ x.regs.dbgctl = word 0x5C &&& 3 ∧
        (∀ k < 1024, slotBack c x k (rd (0x3000 + 8 * k)) (rd (0x3004 + 8 * k))) ∧
        (∀ e ∈ c.teams, e.1 < 8 → ∃ t, v.team? ctx e.1 = some t ∧ teamBack rd e.1 e.2 t) ∧
        ∀ k, k.ctx ≠ ctx → v.thread? k = s.thread? k) ∧
    (∀ pages u off pa, s.imagePages c .load = (some pages, u) → off < c.imageSize →
      pageAddr pages (c.image + BitVec.ofNat 64 off).toNat = some pa → s.isLocal pa = false →
      ((tget s.fetched ctx).bind fun t => tget t (pa.toNat / 128)) = none →
      ∃ v, exec (.streamInComplete ctx) s = .next v ∧ v.ctxs = s.ctxs) ∧
    ∀ u, s.imagePages c .load = (none, u) →
      exec (.streamInComplete ctx) s = .next { u with notices := u.notices ++ [⟨.wick, 0x101, BitVec.ofNat 64 ctx, c.image⟩] }) ∧
  (∀ (s : State) (die k : Nat) (i : Island), s.distinct → die < 4 → (s.die die).power.islands[k]? = some i → i.migReq = true →
    s.movingFrom die k = none →
    let s' := s.modDie die fun d => { d with power := { d.power with islands := d.power.islands.modify k fun i => { i with migReq := false } } }
    (((s.die die).power.migen = false ∨ s.heaviest die k = none ∨ s.targets die = []) → exec (.migration die k) s = .next s') ∧
    ∀ ctx c g p, (s.die die).power.migen = true → s.heaviest die k = some (ctx, c) → s.coolest (s.targets die) = some g →
      s.freeBank g = some p →
      (c.gangOut = true → exec (.migration die k) s = .next s') ∧
      (c.gangOut = false → s.streamFree c.core = false → exec (.migration die k) s = .next s) ∧
      (c.gangOut = false → s.streamFree c.core = true → (∀ e ∈ (s.core c.core).groups, e.2.ctx ≠ ctx) → s.noWork →
        ∃ v x, exec (.migration die k) s = .next v ∧ v.ctx? ctx = some x ∧ x.core = c.core ∧ x.place = .streamingOut ∧ x.moving = some (g, p) ∧
          x.left = some (s.us, c.place) ∧ x.regs = c.regs ∧ (v.die die).power.islands = (s'.die die).power.islands ∧ ∀ k, v.thread? k = s.thread? k)) ∧
  (∀ (s : State) (die k ctx g : Nat) (c : Ctx) (p q : Place), s.distinct → die < 4 → s.movingFrom die k = some (ctx, c, g, p) → s.noWork →
    s.arrives g p q →
    ∃ v x, exec (.migration die k) s = .next v ∧ v.ctx? ctx = some x ∧ x.core = g ∧ x.place = q ∧ x.moving = none ∧ x.regs = c.regs ∧
      ∀ k th, s.thread? k = some th → v.thread? k = some (if k.ctx = ctx then th.replayed else th)) ∧
  ∀ (s : State) (ctx core : Nat) (c : Ctx) (p : Place), s.distinct → s.ctx? ctx = some c → s.noWork →
    ((c.place = .active ∨ c.place = .hot) → c.moving = none → c.gangOut = false → core < 384 → core / 96 ≠ c.core / 96 → core % 96 ∉ (s.die (core / 96)).disabled →
      s.streamFree c.core = true → s.freeBank core = some p → (∀ e ∈ (s.core c.core).groups, e.2.ctx ≠ ctx) →
      ∃ v x, exec (.crossDieMigration ctx core) s = .next v ∧ v.ctx? ctx = some x ∧ x.core = c.core ∧ x.place = .streamingOut ∧
        x.moving = some (core, p) ∧ x.regs = c.regs ∧ ∀ k, v.thread? k = s.thread? k) ∧
    ∀ q, c.moving = some (core, p) → s.arrives core p q →
      ∃ v x, exec (.crossDieMigration ctx core) s = .next v ∧ v.ctx? ctx = some x ∧ x.core = core ∧ x.place = q ∧ x.moving = none ∧
        x.regs = c.regs ∧ ∀ k th, s.thread? k = some th → v.thread? k = some (if k.ctx = ctx then th.replayed else th)

/-- R416, R418 to R421, R424 (an absent reading or demand counts as 0, log 10): in a CONTROL_INTERVAL that meets no trip the writes to the power control blocks take effect, each within the range of its field, the sensors
are sampled, every die is granted at most what it asks for up to its DIEMAX, and all of it where the budget of 9,600 candles
suffices; throttles follow current and temperature, and a voltage moves by at most 10 mV. At 120 °C, once armed, the package trips. -/
def Obligations.IntervalsPass : Prop :=
  ∀ (s : State), s.pkg.stage = 2 →
    let e : Env := s.env.headD { temps := [], currents := [], issue := [], demand := [] }
    let temp := fun d k => min 255 ((e.temps.getD d []).getD k 0)
    ((∀ d < 4, ∀ k < 32, temp d k < 120) →
      ∃ v, exec .controlInterval s = .next v ∧ v.us = s.us + 1 ∧ v.ns = BitVec.ofNat 64 (max s.ns.toNat (1000 * (s.us + 1))) ∧
        v.pkg.up = s.pkg.up + 1 ∧ (∀ k, v.thread? k = s.thread? k) ∧
        (let want := fun d => min (e.demand.getD d 0) (v.die d).power.diemax
         (∀ d < 4, (v.die d).power.grant ≤ want d) ∧
         (v.die 0).power.grant + (v.die 1).power.grant + (v.die 2).power.grant + (v.die 3).power.grant ≤ 9600 ∧
         (want 0 + want 1 + want 2 + want 3 ≤ 9600 → ∀ d < 4, (v.die d).power.grant = want d)) ∧
        ∀ d < 4, (v.die d).power.writes = [] ∧
          (let p := (s.die d).power
           let q := (v.die d).power
           q.diemax = lastWrite p.writes 0 (fun w => ranged 600 9600 (w.extractLsb' 16 16).toNat) p.diemax ∧
           q.lslots = lastWrite p.writes 0 (fun w => ranged 0 8 (w.extractLsb' 12 4).toNat) p.lslots ∧
           q.ctxn = lastWrite p.writes 0 (fun w => some (w.getLsbD 3)) p.ctxn ∧
           q.hostn = lastWrite p.writes 0 (fun w => some (w.getLsbD 2)) p.hostn ∧
           q.migen = lastWrite p.writes 0 (fun w => some (w.getLsbD 1)) p.migen ∧
           q.boosten = lastWrite p.writes 0 (fun w => some (w.getLsbD 0)) p.boosten ∧
           q.ilimit = lastWrite p.writes 4 (fun w => ranged 100 800 (w.extractLsb' 0 16).toNat) p.ilimit) ∧
          (∀ k < 32, (v.die d).power.temps[k]? = some (temp d k)) ∧
          ∀ k i j, k < 24 → (s.die d).power.islands[k]? = some i → (v.die d).power.islands[k]? = some j →
            let amps := (e.currents.getD d []).getD k 0
            let limit := (v.die d).power.ilimit
            (j.cur = true ↔ limit < amps ∨ (i.cur = true ∧ 9 * limit < 10 * amps)) ∧
            (j.therm = true ↔ 105 ≤ temp d k ∨ (i.therm = true ∧ 100 ≤ temp d k)) ∧
            j.mv ≤ i.mv + 10 ∧ i.mv ≤ j.mv + 10 ∧ 2 ≤ j.r ∧ (v.die d).power.thr.getLsbD k = (j.cur || j.therm)) ∧
    ((∃ d < 4, ∃ k < 32, 120 ≤ temp d k) → 20000 ≤ s.pkg.up + 1 → s.pkg.tripped = false →
      ∃ v l info, exec .controlInterval s = .next v ∧ v.pkg.stage = 1 ∧ v.pkg.disc = true ∧ v.ctxs = [] ∧ v.ops = [] ∧
        (∀ e ∈ v.launches, e.2.writing = true) ∧ v.notices = l ++ [⟨.wick, 0x151, info, 0⟩, ⟨.host, 0x151, info, 0⟩] ∧ info.getLsbD 31 = true)

/-- R326, R328, R335: with no lease queued and the die within its cap, LANTERN_LIT lights a warming lantern at some moment of the
microsecond, from which its hold counts, gives its lessee a held record and completes its LEASE with the lantern's id; SNUFF_END leaves a
snuffed one glowing, or dark where the cap snuffed it; and LANTERN_DARK darkens one that has glowed for 40 µs. (No other lantern's 40 µs
are over: it would turn dark too.) That the 40 µs are counted in control intervals, and the hold in nanoseconds, is the model's choice
(log 11). -/
def Obligations.LanternsChange : Prop :=
  ∀ (s : State) (die id : Nat), die < 4 → id < 32 → (s.die die).leaseQ = [] → (s.holders die).length ≤ (s.die die).power.cap →
    let l := s.lantern die id
    let dark : Lantern := ⟨.dark, 0, 0, false, 0, 0, 0, 0, s.us, .lease, []⟩
    (∀ j < 32, j ≠ id → (s.lantern die j).st = .glowing → s.us ≤ (s.lantern die j).since + 40) →
    (l.st = .warming → ∃ n, s.ns.toNat ≤ n ∧ n ≤ max s.ns.toNat (1000 * s.us + 999) ∧
      let u : State := { s with draws := s.draws + 1, ns := BitVec.ofNat 64 n }
      exec (.lanternLit die id) s = .next { ((u.setLantern die id { l with st := .lit, litAt := (BitVec.ofNat 64 n).toNat, since := s.us }).modTeam
        l.ctx l.tslot fun t => { t with leases := t.leases ++ [⟨id, true⟩] }) with
      ops := tmod s.ops l.op fun o => { o with result := o.result.or (some (BitVec.ofNat 32 id)) } }) ∧
    (l.st = .snuffed → exec (.snuffEnd die id) s = .next (s.setLantern die id { dark with st := if l.why = .cap then .dark else .glowing })) ∧
    (l.st = .glowing → l.since + 40 ≤ s.us → exec (.lanternDark die id) s = .next (s.setLantern die id dark))

/-- R358, R406, R408 (log 2, 3, 6, 9 and 29 for what they leave open): POWER_GOOD, and a restart requested on the management lane
(restartAsk, log 10), which is answered first, put every register at its reset value before the safe stage, but for the flash, the fuses and the cores that they
disable; FIRMWARE_VERIFY verifies the image in the safe stage; and CORE_RELEASE begins the full stage with every store zero, but for
LOG2SIZE of each queue and the mirror of the remap tables, once the image is verified. -/
def Obligations.PackageStarts : Prop :=
  (∀ (s : State) (i : Instr) (l : List MgmtResp), (i = .powerGood ∧ l = []) ∨ (∃ p, i = .restart ∧ s.restartAsk = some p ∧ (∃ write, s.asked p 5 (p.addr.toNat % 2 ^ 48) p.bytes write) ∧ l = [⟨p, false, []⟩]) →
    ∃ v, exec i s = .next v ∧ v.pkg = { Pkg.reset with stage := 0, verified := false, up := 0, flash := s.pkg.flash, fuses := s.pkg.fuses } ∧
      (∀ d, v.die d = { Die.reset with disabled := (s.die d).disabled }) ∧ v.ctxs = [] ∧ v.cores = [] ∧ v.launches = [] ∧ v.queues = [] ∧
      v.ops = [] ∧ v.loads = [] ∧ v.atoms = [] ∧ v.landings = [] ∧ v.remotes = [] ∧ v.held = [] ∧ v.qreqs = [] ∧ v.feWaits = [] ∧
      v.restartAsk = none ∧ v.mgmt = s.mgmt ++ l) ∧
  (∀ s : State, s.restartAsk = none → exec .restart s = .next s) ∧
  (∀ s : State, s.pkg.stage = 1 → s.pkg.verified = false → s.pkg.vfail = false → s.pkg.tripped = false →
    exec .firmwareVerify s = .next (s.modPkg fun p => if p.imageOk then
        { p with verified := true, measurement := sha512 (p.flashBytes 0 (1024 + leNat (p.flashBytes 8 4))) } else { p with vfail := true })) ∧
  ∀ s : State, s.pkg.stage = 1 → s.pkg.tripped = false →
    (s.pkg.verified = false → exec .coreRelease s = .next s) ∧
    (s.pkg.verified = true → s.pkg.subs = [] → ∃ v, exec .coreRelease s = .next v ∧ v.pkg.stage = 2 ∧ v.cores = [] ∧ v.us = 0 ∧ v.ns = 0 ∧
      v.pkg.windows = s.pkg.windows ∧ v.ctxs = s.ctxs ∧ v.pkg.qtbase = 0x7600000000 ∧ v.pkg.mirror = 0x7610000000 ∧
      (∀ d < 4, v.die d = { s.die d with tlb := [], tcb := { (s.die d).tcb with atbase := 0x7500000000 } }) ∧
      (∀ q < 2048, v.homeByte (0x7600000008 + 64 * q) = 0x40) ∧
      (∀ d < 4, ∀ c < 96, v.homeByte (0x7610001000 + 0x2000 * d + c) = if c ∈ (s.die d).disabled then 0 else BitVec.ofNat 8 (128 + c)) ∧
      ∀ a, (∀ q < 2048, a ≠ 0x7600000008 + 64 * q) → (∀ d < 4, a < 0x7610001000 + 0x2000 * d ∨ 0x7610001060 + 0x2000 * d ≤ a) →
        v.homeByte a = 0)

/-- R410 to R412: CORRECTED_ERROR adds 1 to CECNT, which saturates, with a notice at each nonzero multiple of CETHR; UNCORRECTABLE_ERROR
of a clean copy or of a TLB entry drops it and counts as corrected, and any other is logged under its sequence number and discards all
work, the write-backs to other devices and the records being written excepted (log 13). -/
def Obligations.ErrorsCount : Prop :=
  (∀ s : State, (s.pkg.cecnt = 0xFFFFFFFF → exec .correctedError s = .next s) ∧
    (s.pkg.cecnt ≠ 0xFFFFFFFF → let n := s.pkg.cecnt + 1
      let note := fun who => (⟨who, 0x161, n.setWidth 64, 0⟩ : Notice)
      exec .correctedError s = .next { s with
        pkg := { s.pkg with cecnt := n }
        notices := if s.pkg.cethr ≠ 0 ∧ n.toNat % s.pkg.cethr.toNat = 0 then s.notices ++ [note .wick, note .host] else s.notices })) ∧
  (∀ (s : State) (e : ErrorSite) (h : HomeSector), e.storage = .l2 → rising s.pkg.l2 → tget s.pkg.l2 (localOf e.addr / 128) = some h → h.st = .clean →
    h.sideDirty = false → s.pkg.cecnt ≠ 0xFFFFFFFF →
    ∃ v, exec (.uncorrectableError e) s = .next v ∧ tget v.pkg.l2 (localOf e.addr / 128) = none ∧ v.pkg.cecnt = s.pkg.cecnt + 1 ∧
      v.ctxs = s.ctxs ∧ v.pkg.elog = s.pkg.elog ∧ v.pkg.disc = s.pkg.disc) ∧
  (∀ (s : State) (e : ErrorSite), e.storage = .tlb → e.die < 4 → s.pkg.cecnt ≠ 0xFFFFFFFF →
    ∃ v, exec (.uncorrectableError e) s = .next v ∧ v.pkg.cecnt = s.pkg.cecnt + 1 ∧ v.ctxs = s.ctxs ∧ v.pkg.elog = s.pkg.elog ∧
      (e.core < 96 → (v.core (96 * e.die + e.core)).tlb = (s.core (96 * e.die + e.core)).tlb.eraseIdx e.offset ∧ v.dies = s.dies) ∧
      (96 ≤ e.core → (v.die e.die).tlb = (s.die e.die).tlb.eraseIdx e.offset ∧ v.cores = s.cores)) ∧
  ∀ (s : State) (e : ErrorSite), e.die < 4 → s.cleanCopy e = false →
    ∃ v x l n, exec (.uncorrectableError e) s = .next v ∧ tget v.pkg.elog (s.pkg.elput.toNat % 16) = some x ∧ x.w3 = s.pkg.elput ∧
      x.w2 = BitVec.ofNat 32 (e.die * 16 + match e.storage with
        | .hbm => 1
        | .l2 => 2
        | .l1 => 3
        | .regScratch => 4
        | .typedBuffer => 5
        | .tlb | .other => 6) ∧
      (∀ k, k ≠ s.pkg.elput.toNat % 16 → tget v.pkg.elog k = tget s.pkg.elog k) ∧
      v.pkg.elput = s.pkg.elput + 1 ∧ v.pkg.disc = true ∧ v.pkg.stage = s.pkg.stage ∧ v.ctxs = [] ∧ v.ops = [] ∧ v.loads = [] ∧ v.atoms = [] ∧
      v.landings = [] ∧ (∀ e ∈ v.launches, e.2.writing = true) ∧ (∀ e ∈ v.remotes, ∃ last op, e.2.kind = .write last op) ∧ v.pkg.subs = [] ∧
      v.pkg.discarded = some s.pkg.up ∧ (∀ d, (v.die d).lanterns = [] ∧ (v.die d).leaseQ = [] ∧ (v.die d).pending = [] ∧ (v.die d).tcb.dropped = false) ∧
      v.notices = l ++ [⟨.wick, 0x160, pairOf x.w0 x.w1, n⟩, ⟨.host, 0x160, pairOf x.w0 x.w1, n⟩]

/-- R400, R402, R408, R409, R424, R438, R439 (log 6 and 36 for what they leave open): from the safe stage on, the management lane reads and
writes control space, a write passing the checks of a thread's; it reads a die's power control block, and has a write to it take
effect at the next interval; it reads and writes the boot flash, and answers an attestation request with the report of R409. A target
that has no meaning is rejected, and so are bytes beyond the flash and a number of bytes that is no access there, which is the model's
choice; a malformed request, whose LEN does not match its BYTES among them, is dropped with a reject. MANAGEMENT_RESPONSE sends the
answer to the requester. -/
def Obligations.ManagementAnswers : Prop :=
  (∀ (s : State) (p : PacketHead) (v : Pair),
    (∀ e ∈ ctlWrites s v, s.asked p 0 e.1 (if e.2.1 then 8 else 4) true → exec (.mgmtControlSpace p e.2.1 true v) s = .next (e.2.2.answers p false [])) ∧
    (∀ w ∈ [(0x200, s.pkg.stage % 4 + (if s.pkg.vfail then 32 else 0) + (if s.pkg.unbk then 64 else 0) + if s.pkg.disc then 128 else 0),
        (0x204, s.pkg.cecnt.toNat), (0x208, s.pkg.cethr.toNat), (0x20C, s.pkg.elput.toNat)], s.asked p 0 w.1 4 false →
      exec (.mgmtControlSpace p false false v) s = .next (s.answers p false (leBytes 4 w.2))) ∧
    (∀ w < 16, ∀ f < 2, s.asked p 0 (32 * w + 8 * f) 8 true → v.toNat % 65536 ≠ 0 →
      exec (.mgmtControlSpace p true true v) s = .next (s.answers p true [])) ∧
    (∀ w < 16, s.asked p 0 (32 * w + 24) 4 true → (s.win w).en = false → v.getLsbD 0 = true → v.extractLsb' 1 2 ≠ 3 →
      s.clashes w { s.win w with fmt := v.extractLsb' 1 2 } → exec (.mgmtControlSpace p false true v) s = .next (s.answers p true [])) ∧
    (∀ off, 0x5000 ≤ off → off % 4 = 0 →
      (s.asked p 0 off 4 false → exec (.mgmtControlSpace p false false v) s = .next (s.answers p false [0, 0, 0, 0])) ∧
      (s.asked p 0 off 4 true → exec (.mgmtControlSpace p false true v) s = .next (s.answers p false []))) ∧
    ∀ off n wide write, s.asked p 0 off n write → n ≠ (if wide then 8 else 4) →
      exec (.mgmtControlSpace p wide write v) s = .next (s.answers p true [])) ∧
  (∀ (s : State) (p : PacketHead) (off n : Nat) (wide write : Bool) (v : Pair), s.asked p 1 off n write →
    let die := p.addr.toNat / 2 ^ 48 % 4
    let power := (s.die die).power
    (n ≠ 4 → exec (.mgmtControlSpace p wide write v) s = .next (s.answers p true [])) ∧
    (n = 4 → write = true → exec (.mgmtControlSpace p wide true v) s = .next ((s.modDie die fun d =>
      { d with power := { d.power with writes := d.power.writes ++ [(off, loWord v)] } }).answers p false [])) ∧
    (n = 4 → write = false → ∀ w ∈ power.words, off = w.1 → w.2 < 2 ^ 32 → exec (.mgmtControlSpace p wide false v) s = .next (s.answers p false (leBytes 4 w.2))) ∧
    (n = 4 → write = false → ∀ k < 8, off = 0x10 + 4 * k → (∀ t ∈ power.temps, t < 256) → exec (.mgmtControlSpace p wide false v) s = .next (s.answers p false
      ((List.range 4).map fun j => BitVec.ofNat 8 (power.temps.getD (4 * k + j) 0))))) ∧
  (∀ (s : State) (p : PacketHead) (t off n : Nat) (wide write : Bool) (v : Pair), s.asked p t off n write → 6 ≤ t →
    exec (.mgmtControlSpace p wide write v) s = .next (s.answers p true [])) ∧
  (∀ (s : State) (p : PacketHead) (off n : Nat) (write : Bool) (b : List Byte), s.asked p 3 off n write → 1 ≤ n → n ≤ 256 →
    (write = true → b.length = n) →
    (2 ^ 26 < off + n → exec (.mgmtBootFlash p write b) s = .next (s.answers p true [])) ∧
    (off + n ≤ 2 ^ 26 → write = false →
      exec (.mgmtBootFlash p false b) s = .next (s.answers p false ((List.range n).map fun k => mread s.pkg.flash (off + k)))) ∧
    (off + n ≤ 2 ^ 26 → write = true → Mem.wf s.pkg.flash = true → ∃ f, exec (.mgmtBootFlash p true b) s =
        .next (({ s with pkg := { s.pkg with flash := f } } : State).answers p false []) ∧
      (∀ k < n, mread f (off + k) = b.getD k 0) ∧ (∀ a, (a < off ∨ off + n ≤ a) → mread f a = mread s.pkg.flash a) ∧ Mem.wf f = true)) ∧
  (∀ (s : State) (p : PacketHead) (off n : Nat) (nonce : BitVec 256),
    (s.asked p 4 off n false → exec (.attestationRequest p none) s = .next (s.answers p false Config.identityCert)) ∧
    (s.asked p 4 off 32 true → s.pkg.measurement.length = 64 → ∃ body, exec (.attestationRequest p (some nonce)) s = .next (s.answers p false (body ++ (Config.sign body).toList)) ∧
      body.length = 256 ∧ body.take 64 = s.pkg.measurement ∧ (body.drop 64).take 64 = sha512 (s.pkg.fuses ++
          (List.range 16).flatMap (fun w => leBytes 8 (s.win w).base.toNat ++ leBytes 8 (s.win w).limit.toNat ++ leBytes 8 (s.win w).expbase.toNat ++
            leBytes 4 ((s.win w).fmt.toNat * 2 + if (s.win w).en then 1 else 0) ++ [0, 0, 0, 0]) ++
          (List.range 4).flatMap fun d => leBytes 8 (s.die d).tcb.atbase.toNat) ∧
      (body.drop 128).take 32 = leBytes 32 nonce.toNat ∧
      (body.drop 160).take 8 = leBytes 8 (s.pkg.deviceId.toNat + s.pkg.stage % 4 * 2 ^ 20) ∧
      (body.drop 168).take 8 = leBytes 8 (if s.pkg.stage = 2 then s.ns.toNat else 0) ∧ body.drop 176 = List.replicate 80 0)) ∧
  (∀ (s : State) (p : PacketHead) (i : Instr), s.pkg.stage ≠ 0 → p.dst = s.pkg.deviceId →
    let bad := fun write : Bool => p.reserved = true ∨ p.kind ≠ 0x10 ∨ p.len ≠ carried p.bytes write
    ((i = .restart ∧ s.restartAsk = some p ∧ bad false ∧ bad true) ∨ (∃ wide write v, i = .mgmtControlSpace p wide write v ∧ bad write) ∨
      (∃ write v, i = .mgmtRoutingId p write v ∧ bad write) ∨
      (∃ write v, i = .mgmtBootFlash p write v ∧ (bad write ∨ p.bytes = 0 ∨ 256 < p.bytes ∨ (write = true ∧ v.length ≠ p.bytes))) ∨
      ∃ n : Option (BitVec 256), i = .attestationRequest p n ∧ (bad n.isSome ∨ (n.isSome = true ∧ p.bytes ≠ 32))) →
    exec i s = .next { s with sent := s.sent ++ [s.replyTo p 0x07 []], restartAsk := if i = .restart then none else s.restartAsk }) ∧
  ∀ (s : State) (m : MgmtResp) (tag : Nat), s.mgmt.find? (fun x => x.head.tag.toNat == tag) = some m →
    ∃ parts : List (List Byte), parts ≠ [] ∧ parts.flatten = m.data ∧ (∀ d ∈ parts, d.length ≤ 256) ∧
      exec (.managementResponse tag) s = .next { s with
        mgmt := s.mgmt.erase m
        sent := s.sent ++ if m.reject then [s.replyTo m.head 0x07 []] else parts.map (s.replyTo m.head 0x11) }

/-- R433, R436, R437, R439, R440, R441 (log 22, 35): a FABRIC_READ, WRITE or ATOMIC that is well formed is performed at the homes of a
package in the full stage that has not discarded it, and its response returns the tag; any other packet for this device is dropped
with a reject. -/
def Obligations.FabricServes : Prop :=
  ∀ (s : State) (p : PacketHead), p.dst = s.pkg.deviceId →
    let a := p.addr.toNat % 2 ^ 45
    let dropped : State := { s with sent := s.sent ++ [s.replyTo p 0x07 []] }
    (p.reserved = true ∨ s.pkg.stage ≠ 2 → ∀ data wide bs cs, exec (.fabricRead p data) s = .next dropped ∧
      exec (.fabricWrite p data) s = .next dropped ∧ exec (.fabricAtomic p wide bs cs) s = .next dropped) ∧
    (p.kind ≠ 0x01 ∨ p.len ≠ 0 ∨ p.bytes = 0 ∨ 256 < p.bytes → ∀ rest, exec (.fabricRead p rest) s = .next dropped) ∧
    (∀ data, p.kind ≠ 0x03 ∨ p.bytes ≠ data.length ∨ p.bytes = 0 ∨ 256 < p.bytes ∨
      p.len ≠ flits data.length → exec (.fabricWrite p data) s = .next dropped) ∧
    (p.reserved = false → s.pkg.stage = 2 → (∀ d, s.pkg.discarded = some d → d + 2000 < s.pkg.up) → s.spacious →
      (p.kind = 0x01 → p.len = 0 → 1 ≤ p.bytes → p.bytes ≤ 256 → ∀ rest, ∃ v, exec (.fabricRead p rest) s = .next v ∧
        v.sent = s.sent ++ [s.replyTo p 0x02 ((List.range p.bytes).map fun k => s.homeByte (a + k))] ∧ (∀ b, v.homeByte b = s.homeByte b) ∧
        { v with sent := [], pkg := s.pkg, fresh := s.fresh } = { s with sent := [] }) ∧
      (∀ data, p.kind = 0x03 → p.bytes = data.length → 1 ≤ data.length → data.length ≤ 256 →
        p.len = flits data.length →
        a + data.length ≤ 512000000000 → ∃ v, exec (.fabricWrite p data) s = .next v ∧ v.sent = s.sent ++ [s.replyTo p 0x04 []] ∧
          (∀ k < data.length, v.homeByte (a + k) = data.getD k 0) ∧ (∀ b, (b < a ∨ a + data.length ≤ b) → v.homeByte b = s.homeByte b) ∧
          { v with sent := [], pkg := s.pkg, fresh := s.fresh } = { s with sent := [] }) ∧
      ∀ wide b c, p.kind = 0x05 → p.aop ≤ 12 → (wide = true → p.aop ≠ 11) → p.len = 0 → inHbm a = true →
        let n := if wide then 8 else 4
        a % n = 0 → p.bytes = n → ∃ v, exec (.fabricAtomic p wide [b] [c]) s = .next v ∧
          v.sent = s.sent ++ [s.replyTo p 0x06 (leBytes n (s.homeNat a n))] ∧
          s.storedAt v a n (atomResult p.aop n (s.homeNat a n) (b.toNat % 2 ^ (8 * n)) (c.toNat % 2 ^ (8 * n))) ∧
          { v with sent := [], pkg := s.pkg, fresh := s.fresh, draws := s.draws } = { s with sent := [] })

/-- R361, R362, R433, R436 to R438 (log 11, 61): READ_RESPONSE fills L1, an operation's buffer, what a streaming bank has read of an
image, a constant load's word, or Wick's wait, but not where what it brings is stale; WRITE_ACKNOWLEDGEMENT and
ATOMIC_RESPONSE end their requests, the old values being on their way to the turns of an atomic and the new one being a QDONE's; a
FABRIC_REJECT, or a REMOTE_TIMEOUT after 2 ms, ends its request with a notice, a load with 0, a QDONE with FAULT, an operation's or a
streaming bank's read with zeros. A response that is malformed is dropped with a reject, and one to no request, or too late, is discarded. -/
def Obligations.FabricAnswers : Prop :=
  (∀ (s : State) (p : PacketHead) (d : List Byte) (olds : List Pair), p.dst = s.pkg.deviceId → p.host = false →
    let dropped : State := { s with sent := s.sent ++ [s.replyTo p 0x07 []] }
    (p.reserved = true → exec (.readResponse p d) s = .next dropped ∧ exec (.writeAcknowledgement p) s = .next dropped ∧
      exec (.atomicResponse p olds) s = .next dropped ∧ exec (.fabricReject p) s = .next dropped) ∧
    (p.kind ≠ 0x04 ∨ p.len ≠ 0 → exec (.writeAcknowledgement p) s = .next dropped)) ∧
  ∀ (s : State) (p : PacketHead) (tag : Nat) (r : Remote), p.dst = s.pkg.deviceId → p.host = false → p.reserved = false →
    s.remotes.find? (fun r => r.1 % 2 ^ 16 == p.tag.toNat) = some (tag, r) → tget s.remotes tag = some r →
    (∀ e ∈ s.loads, sectorOf e.2.pa ≠ sectorOf r.pa) → s.atoms = [] → (∀ e ∈ s.launches, e.2.writing = false) →
    let u : State := { s with remotes := tdel s.remotes tag }
    (p.kind = 0x04 → p.len = 0 → r.since + 2000 < s.pkg.up → exec (.writeAcknowledgement p) s = .next s) ∧
    (s.pkg.up ≤ r.since + 2000 →
      (∀ d, p.kind = 0x02 → p.bytes = d.length → d.length ≤ 256 → p.len = flits d.length →
        (r.kind = .fill true → exec (.readResponse p d) s = .next u) ∧
        (r.kind = .fill false → (s.core r.core).l1.length < 1024 → (∀ g, tget (s.core g).l1 (sectorOf r.pa) = none) →
          ∃ v x, exec (.readResponse p d) s = .next v ∧ tget (v.core r.core).l1 (sectorOf r.pa) = some x ∧ x.data = BitVec.ofNat 1024 (leNat d) ∧
            x.valid = BitVec.allOnes 128 ∧ x.dirty = 0 ∧ (∀ g, g ≠ r.core → v.core g = u.core g) ∧ { v with cores := [] } = { u with cores := [] }) ∧
        (∀ op, r.kind = .read op false → exec (.readResponse p d) s = .next { u with
          ops := tmod s.ops op fun o => { o with buffer := tset o.buffer (sectorOf r.pa) (BitVec.ofNat 1024 (leNat d)) } }) ∧
        (∀ op, r.kind = .read op true → exec (.readResponse p d) s = .next u) ∧
        (∀ c, r.kind = .image c false → exec (.readResponse p d) s = .next { u with
          fetched := tset s.fetched c (tset ((tget s.fetched c).getD []) (sectorOf r.pa) (BitVec.ofNat 1024 (leNat d))) }) ∧
        (∀ c, r.kind = .image c true → exec (.readResponse p d) s = .next u) ∧
        (∀ q, r.kind = .konst q → d.length = q.n → q.first + q.n ≤ 4 →
          (∀ k, q.first ≤ k → k < q.first + q.n → q.word.extractLsb' (8 * k) 8 = 0#8) →
          ∃ w : Word, (∀ k < 4, w.extractLsb' (8 * k) 8 = if q.first ≤ k ∧ k < q.first + q.n then d.getD (k - q.first) 0
              else q.word.extractLsb' (8 * k) 8) ∧
            (q.rest = [] → exec (.readResponse p d) s = .next { u with landings := tset s.landings q.landing (q.landed w) }) ∧
            ∀ pa f n l, q.rest = (pa, f, n) :: l → ∃ v, exec (.readResponse p d) s = .next v ∧
              v.remotes = tset u.remotes s.fresh ⟨pa, r.asid, r.core, .konst { q with word := w, first := f, n, rest := l }, s.pkg.up⟩ ∧
              { v with remotes := [], sent := s.sent, fresh := s.fresh } = { u with remotes := [] }) ∧
        ∀ l, r.kind = .wait l → exec (.readResponse p d) s = .next { u with
          launches := tmod s.launches l fun x => { x with waited := some (leNat (d.take 4)) } }) ∧
      (∀ last op, p.kind = 0x04 → p.len = 0 → r.kind = .write last op → exec (.writeAcknowledgement p) s = .next u) ∧
      (∀ q olds, p.kind = 0x06 → p.bytes ≤ 256 → p.len = flits p.bytes →
        r.kind = .atom q → q.ord = 0 → olds.length = q.turns.length → (q.width = 4 ∨ q.width = 8) → (q.turns.map (·.landing)).Nodup →
        (∀ g, tget (s.core g).l1 (sectorOf r.pa) = none) →
        ∃ v, exec (.atomicResponse p olds) s = .next v ∧ { v with landings := [], cores := [] } = { u with landings := [], cores := [] } ∧
          (∀ g, v.core g = u.core g) ∧ ∀ (k : Nat) t, q.turns[k]? = some t → tget v.landings t.landing = some
            { key := t.key, regs := valueRegs t.dst (bytesWords q.width) (olds.getD k 0).toNat
              latch := none, latchVal := 0, kind := some 4, flags := 0, sat := 0 }) ∧
      ∀ op o va inc sent olds, p.kind = 0x06 → p.bytes ≤ 32 → p.len = 0 →
        r.kind = .qdone op → tget s.ops op = some o → o.work = .qdone va inc sent → o.result = none →
        exec (.atomicResponse p olds) s = .next { u with ops := tmod s.ops op fun o => { o with
          result := some (BitVec.ofNat 32 (((olds.headD 0).toNat + inc.toNat) % 2 ^ 28)) } }) ∧
    (s.pkg.up ≤ r.since + 2000 → exec (.remoteTimeout tag) s = .next s) ∧
    ∀ i, (i = .fabricReject p ∧ p.kind = 0x07 ∧ p.len = 0 ∧ s.pkg.up ≤ r.since + 2000) ∨ (i = .remoteTimeout tag ∧ r.since + 2000 < s.pkg.up) →
      let note := fun who => (⟨who, 0x171, BitVec.ofNat 64 (r.pa.toNat / 128 * 128), BitVec.ofNat 64 r.asid⟩ : Notice)
      let w : State := { u with notices := s.notices ++ [note .wick, note .host] }
      (∀ stale, r.kind = .fill stale → exec i s = .next w) ∧
      (∀ q, r.kind = .atom q → (q.turns.map (·.landing)).Nodup → ∃ v, exec i s = .next v ∧ ∀ t ∈ q.turns, ∃ x, tget v.landings t.landing = some x ∧
        x.key = t.key ∧ x.kind = some 4 ∧ ∀ e ∈ x.regs, e.2 = 0) ∧
      (∀ c stale, r.kind = .image c stale → exec i s = .next { w with
        fetched := tset s.fetched c (tset ((tget s.fetched c).getD []) (sectorOf r.pa) 0) }) ∧
      (∀ q t, r.kind = .konst q → s.team? q.key.ctx q.key.tslot = some t → t.live ≠ [] → t.flog.length < 16 →
        exec i s = .next (({ w with landings := tset s.landings q.landing (q.landed 0) } : State).modTeam
            q.key.ctx q.key.tslot fun t => { t with flog := t.flog ++ [⟨0, 0x10000171, q.key.tid, q.pc.wi, q.pc.h.signExtend 64⟩] })) ∧
      (∀ op stale, r.kind = .read op stale → exec i s = .next { w with ops := tmod s.ops op fun o => { o with buffer := tset o.buffer (sectorOf r.pa) 0 } }) ∧
      (∀ op, r.kind = .write none op → exec i s = .next w) ∧
      (∀ x op t, r.kind = .write (some x) op → s.team? x.key.ctx x.key.tslot = some t → t.launch = x.launch → t.live ≠ [] → t.flog.length < 16 →
        exec i s = .next (w.modTeam x.key.ctx x.key.tslot fun t => { t with
          flog := t.flog ++ [⟨0, 0x10000171, x.key.tid, 0, x.h.signExtend 64⟩] })) ∧
      (∀ l, r.kind = .wait l → exec i s = .next { w with launches := tmod s.launches l fun x => { x with waited := some 0 } }) ∧
      ∀ op, r.kind = .qdone op → exec i s = .next { w with ops := tmod s.ops op fun o => { o with result := o.result.or (some 0x10000000) } }

/-- R289, R358, R386, R401, R406, R407, R411, R424 (log 2, 3 and 29 for what the spec leaves open): after the full start stage there is no
context, no core state and no launch; the registers hold their reset values; every byte of memory is 0, but for LOG2SIZE of each queue and
the mirror of the remap tables of dies whose cores all work; and the memories are in their canonical form. -/
def Obligations.ResetState : Prop :=
  let s := State.reset
  s.ctxs = [] ∧ s.cores = [] ∧ s.launches = [] ∧ s.ops = [] ∧ s.remotes = [] ∧ s.us = 0 ∧ s.ns = 0 ∧ s.pkg.stage = 2 ∧
    s.pkg.cecnt = 0 ∧ s.pkg.cethr = 0x1000 ∧ s.pkg.elput = 0 ∧ s.pkg.windows = [] ∧ s.pkg.disc = false ∧ s.pkg.unbk = false ∧ s.pkg.vfail = false ∧
    (∀ d < 4, (s.die d).tcb.fbbase = 0 ∧ (s.die d).tcb.log2n = 8 ∧ (s.die d).tcb.note = true ∧ (s.die d).tcb.dropped = false ∧
      (s.die d).tcb.put = 0 ∧ (s.die d).tcb.get = 0 ∧ (s.die d).tcb.busy = 0 ∧ (s.die d).sysvec = 0 ∧ (s.die d).pending = [] ∧ (s.die d).tlb = [] ∧
      (s.die d).power.diemax = 3600 ∧ (s.die d).power.lslots = 8 ∧ (s.die d).power.ilimit = 480 ∧ (s.die d).power.ctxn = true ∧
      (s.die d).power.hostn = false ∧ (s.die d).power.migen = true ∧ (s.die d).power.boosten = true) ∧
    (∀ q < 2048, s.homeByte (0x7600000008 + 64 * q) = 0x40) ∧
    (∀ d < 4, ∀ c < 96, s.homeByte (0x7610001000 + 0x2000 * d + c) = BitVec.ofNat 8 (128 + c)) ∧
    (∀ a, (∀ q < 2048, a ≠ 0x7600000008 + 64 * q) → (∀ d < 4, a < 0x7610001000 + 0x2000 * d ∨ 0x7610001060 + 0x2000 * d ≤ a) → s.homeByte a = 0) ∧
    s.memWf = true

/-- R63, R68: the words that the spec writes out (03 R59 and its worked clause, R103, R108, 04 to 07, 09 to 11, 15 to 19) decode to the
instructions that they stand for, and a word whose unused bits are not 0 to none. -/
def Obligations.DecodeWords : Prop :=
  decodeTableWord 32 0x02010809 = some (.add ⟨0, true⟩ 8 9) ∧
  decodeTableWord 32 0x0B1480A2 = some (.shl ⟨10, false⟩ 0x80 0xA2) ∧
  decodeTableWord 32 0x1B060164 = some (.addi ⟨3, false⟩ 1 0x64) ∧
  decodeTableWord 64 0x000003E894060102 = some (.ialui ⟨3, false⟩ 1 2 0x3E8) ∧
  decodeTableWord 64 0x00100000860A0600 = some (.clzw ⟨5, false⟩ 6 2) ∧
  decodeTableWord 64 0x001000008B0E0809 = some (.padds ⟨7, false⟩ 8 9 2 0 false) ∧
  decodeTableWord 64 0x3FC00000980A0630 = some (.falui ⟨5, false⟩ 6 0x30 0x3FC00000) ∧
  decodeTableWord 64 0x30220000990A0607 = some (.fopr ⟨5, false⟩ 6 7 0x30 1 1) ∧
  decodeTableWord 64 0x030200009A080102 = some (.ffma ⟨4, false⟩ 1 2 3 0 1) ∧
  decodeTableWord 64 0x120200009C080500 = some (.fcvt ⟨4, false⟩ 5 1 2 0 1 false) ∧
  decodeTableWord 64 0x00000018B0400B0D = some (.br 2 0x0B 0x0D 0x18) ∧
  decodeTableWord 64 0x00000028B13C0000 = some (.call ⟨30, false⟩ 0x28) ∧
  decodeTableWord 32 0x53000002 = some (.jset 2) ∧
  decodeTableWord 32 0x58000303 = some (.rep 3 3) ∧
  decodeTableWord 32 0x680C0404 = some (.ldg ⟨6, false⟩ 4 4) ∧
  decodeTableWord 32 0x691204FE = some (.stg 9 4 0xFE) ∧
  decodeTableWord 64 0x11080006C00E0409 = some (.ldgx ⟨7, false⟩ 4 9 1 false false true 1 6) ∧
  decodeTableWord 32 0x6A0A0202 = some (.ldk ⟨5, false⟩ 2 2) ∧
  decodeTableWord 64 0x03011000C20A0408 = some (.atom ⟨5, false⟩ 4 8 3 0 4 1 0) ∧
  decodeTableWord 32 0x6B000024 = some (.fence 2 4) ∧
  decodeTableWord 32 0x60080900 = some (.ballot ⟨4, false⟩ 9) ∧
  decodeTableWord 64 0x03000005B80A06A1 = some (.shfl ⟨5, false⟩ 6 0xA1 3 5) ∧
  decodeTableWord 64 0x20020000B90E0800 = some (.redux ⟨7, false⟩ 8 2 0 0 1) ∧
  decodeTableWord 32 0x70100E80 = some (.lds ⟨8, false⟩ 0x0E 2 0) ∧
  decodeTableWord 64 0x9A020020C8100400 = some (.ldsx ⟨8, false⟩ 4 0 true 3 1 false 0 1 32) ∧
  decodeTableWord 64 0x07090500CB120604 = some (.copy ⟨9, false⟩ 6 4 7 0 1 0 4 1 2 0 0) ∧
  decodeTableWord 64 0x0055B001D0280000 = some (.mloop ⟨20, false⟩ 0 0 0 5 5 2 true true 1) ∧
  decodeTableWord 64 0x00000001D22A0600 = some (.cvtdn ⟨21, false⟩ 6 0 0 0 false 1) ∧
  decodeTableWord 64 0x08010014D8120607 = some (.gather ⟨9, false⟩ 6 7 8 0 4 false 20) ∧
  decodeTableWord 64 0x08010214DA140607 = some (.scadd ⟨10, false⟩ 6 7 8 0 4 0 true false 20) ∧
  decodeTableWord 64 0x00000000DB18140E = some (.stand ⟨12, false⟩ 0x14 0x0E 0) ∧
  decodeTableWord 64 0x01000000DD1E000E = some (.substat ⟨15, false⟩ 0x0E 1 0) ∧
  decodeTableWord 64 0x00000002E0120000 = some (.lease ⟨9, false⟩ 0 2) ∧
  decodeTableWord 64 0x00010000E2140506 = some (.mrg ⟨10, false⟩ 5 6 0 0 4 0) ∧
  decodeTableWord 64 0x00010040E6120506 = some (.nbrpair ⟨9, false⟩ 5 6 4 64) ∧
  decodeTableWord 64 0x00004000E8120506 = some (.qput ⟨9, false⟩ 5 6 1 0) ∧
  decodeTableWord 64 0x00010000E90114A1 = some (.qdone ⟨0, true⟩ 0x14 0xA1 4) ∧
  decodeTableWord 64 0x00000001EA001400 = some (.tail 0x14 true) ∧
  decodeTableWord 32 0x57000000 = some (.exit) ∧
  decodeTableWord 32 0x2F000000 = some (.reservedOpcode 0x2F000000) ∧
  decodeTableWord 32 0x57000001 = none ∧ decodeTableWord 32 0x60080901 = none

/-- 01 R16, 03 R55, R69, 09 R203: a turn in which a group issues the word at its PC is exec of the instruction that the word decodes to, at
the state with the issue's place in it, where REPIDX is 0 again for a thread that has left its REP clause. A word that stalls counts its
cycle, and one that can start issues where no group of its laneset that comes before its own is ready: the one that the laneset issued
from last, then those formed earlier; where one is, the turn passes. Around exec the step clears deferral marks (06 R140), has the laneset
go on with the group, keeps saved contexts and their images alike (12 R259), and no longer serves a queue whose EN reads 0 (19 R358). An
event of the agenda is exec of that event, and an engine's turn the next progress of its operation. Every step answers a next state. -/
def Obligations.StepRunsDecoded : Prop :=
  (∀ (s : State) (core slot : Nat) (rest : List Turn) (g : Group) (w0 w1 : Word) (i : Instr) (u v : State),
    s.agenda = .issue core slot :: rest →
    let t : State := { s with agenda := rest }
    tget (t.core core).groups slot = some g → g.started = true → t.executing g ≠ [] →
    t.fetchAll g.ctx (t.executing g) (wordVa g.h g.word) = (some w0, [], u) →
    u.fetchSecond g (t.executing g) w0 = (some w1, [], v) → decodeWords w0 w1 = .ok i →
    let x : State := ({ v with site := g.site core slot (t.executing g) w0 } : State).leaveRep g i (t.executing g)
    let last := tget (x.core core).greedy (slot / 4)
    let first := fun e : Nat × Group => e.1 / 4 = slot / 4 ∧ last ≠ some g.order ∧ (last = some e.2.order ∨ e.2.order < g.order)
    ((x.stalls i = true ∨ ∀ e ∈ (x.core core).groups, first e → x.canIssue core e.1 = false) →
      step s = mirrored t (issued x core slot (exec i x))) ∧
    (x.stalls i = false → (∃ e ∈ (x.core core).groups, first e ∧ x.canIssue core e.1 = true) → step s = mirrored t (.next t))) ∧
  (∀ (s : State) (rest : List Turn) (op : Nat), s.agenda = .engine op :: rest →
    step s = mirrored { s with agenda := rest } (.next (({ s with agenda := rest } : State).engineTurn op))) ∧
  (∀ (s : State) (rest : List Turn) (i : Instr), s.agenda = .event i :: rest → i.isTurn = true →
    step s = mirrored { s with agenda := rest } (exec i { s with agenda := rest })) ∧
  ∀ s : State, safeStep s

/-- R63, R68, R69: the words of every well-formed instruction decode to it, with every operand, whatever bytes follow, and the bytes
that follow are left. -/
def Obligations.EncodingRoundTrip : Prop :=
  ∀ (i : Instr) (rest : List Byte), i.wellFormed = true → decode ((encode i).flatMap wordBytes ++ rest) = .ok (i, rest)

/-- log 2: every step keeps every sparse memory of the package in its canonical form, in which equal memories are equal data: HBM4, the
flash, and each context's and core's scratch and typed buffers. -/
def Obligations.MemoryKept : Prop := ∀ s t : State, s.memWf = true → step s = .next t → t.memWf = true
end

