-- ==== Sys2Proof/Laws/Tab.lean ====
section
/-! SUPPORT. Sparse tables: what a key reads as after each operation; and sparse bytes: every operation keeps the canonical form, and
what a byte reads as after a write. -/

namespace Sys2Proof.Machine

variable {α : Type}

@[simp] theorem tget_nil (k : Nat) : tget ([] : Tab α) k = none := rfl

theorem tget_tset (t : Tab α) (k : Nat) (v : α) (j : Nat) : tget (tset t k v) j = if j = k then some v else tget t j := by
  induction t with
  | nil => simp [tset, tget]
  | cons e r ih =>
    obtain ⟨a, w⟩ := e
    simp only [tset]
    split
    · simp [tget]
    · split
      · subst_vars; simp only [tget]; split <;> rfl
      · rename_i h1 h2
        simp only [tget, ih]
        split
        · subst_vars; rw [if_neg (fun h => h2 h.symm)]
        · rfl

@[simp] theorem tget_tset_self (t : Tab α) (k : Nat) (v : α) : tget (tset t k v) k = some v := by simp [tget_tset]

@[simp] theorem tget_tset_ne (t : Tab α) {k j : Nat} (v : α) (h : j ≠ k) : tget (tset t k v) j = tget t j := by
  simp [tget_tset, h]

theorem tget_tmod (t : Tab α) (k : Nat) (f : α → α) (j : Nat) :
    tget (tmod t k f) j = if j = k then (tget t j).map f else tget t j := by
  induction t with
  | nil => simp [tmod]
  | cons e r ih =>
    obtain ⟨a, w⟩ := e
    simp only [tmod]
    by_cases h : k = a
    · subst h
      simp only [if_true, tget]
      by_cases hj : j = k <;> simp [hj]
    · simp only [h, if_false, tget, ih]
      by_cases hj : j = a
      · subst hj; simp [Ne.symm h]
      · simp [hj]

@[simp] theorem tget_tmod_self (t : Tab α) (k : Nat) (f : α → α) : tget (tmod t k f) k = (tget t k).map f := by
  simp [tget_tmod]

@[simp] theorem tget_tmod_ne (t : Tab α) {k j : Nat} (f : α → α) (h : j ≠ k) : tget (tmod t k f) j = tget t j := by
  simp [tget_tmod, h]

@[simp] theorem tget_tmap (t : Tab α) (f : Nat → α → α) (k : Nat) : tget (tmap t f) k = (tget t k).map (f k) := by
  induction t with
  | nil => rfl
  | cons e r ih =>
    obtain ⟨a, w⟩ := e
    simp only [tmap, List.map_cons, tget] at ih ⊢
    by_cases h : k = a
    · simp [h]
    · simpa [h] using ih

theorem tget_tdel_ne (t : Tab α) {k j : Nat} (h : j ≠ k) : tget (tdel t k) j = tget t j := by
  induction t with
  | nil => rfl
  | cons e r ih =>
    obtain ⟨a, w⟩ := e
    simp only [tdel]
    by_cases hk : k = a
    · subst hk; simp [tget, h]
    · simp only [hk, if_false, tget, ih]

/-! ## The canonical form of sparse bytes -/

theorem Mem.dwfFrom_mono {d : Nat → Byte} {lo lo' : Nat} {m : Mem} (h : Mem.dwfFrom d lo m = true) (hl : lo' ≤ lo) : Mem.dwfFrom d lo' m = true := by
  cases m with
  | nil => rfl
  | cons e r =>
    obtain ⟨k, b⟩ := e
    simp only [Mem.dwfFrom, Bool.and_eq_true, decide_eq_true_eq] at h ⊢
    exact ⟨⟨by omega, h.1.2⟩, h.2⟩

theorem tget_of_dwfFrom {d : Nat → Byte} {lo : Nat} {m : Mem} (h : Mem.dwfFrom d lo m = true) {a : Nat} (ha : a < lo) : tget m a = none := by
  induction m generalizing lo with
  | nil => rfl
  | cons e r ih =>
    obtain ⟨k, b⟩ := e
    simp only [Mem.dwfFrom, Bool.and_eq_true, decide_eq_true_eq] at h
    simp only [tget]
    rw [if_neg (by omega), ih h.2 (by omega)]

theorem Mem.dwfFrom_tset {d : Nat → Byte} {lo : Nat} {m : Mem} (h : Mem.dwfFrom d lo m = true) {a : Nat} (ha : lo ≤ a) {b : Byte} (hb : b ≠ d a) :
    Mem.dwfFrom d lo (tset m a b) = true := by
  induction m generalizing lo with
  | nil => simpa [tset, Mem.dwfFrom, ha] using hb
  | cons e r ih =>
    obtain ⟨k, c⟩ := e
    simp only [Mem.dwfFrom, Bool.and_eq_true, decide_eq_true_eq] at h
    simp only [tset]
    split
    · simp only [Mem.dwfFrom, Bool.and_eq_true, decide_eq_true_eq]
      exact ⟨⟨ha, by simpa using hb⟩, ⟨by omega, h.1.2⟩, h.2⟩
    · split
      · subst_vars
        simp only [Mem.dwfFrom, Bool.and_eq_true, decide_eq_true_eq]
        exact ⟨⟨ha, by simpa using hb⟩, h.2⟩
      · simp only [Mem.dwfFrom, Bool.and_eq_true, decide_eq_true_eq]
        exact ⟨⟨h.1.1, h.1.2⟩, ih h.2 (by omega)⟩

theorem Mem.dwfFrom_tdel {d : Nat → Byte} {lo : Nat} {m : Mem} (h : Mem.dwfFrom d lo m = true) (a : Nat) : Mem.dwfFrom d lo (tdel m a) = true := by
  induction m generalizing lo with
  | nil => rfl
  | cons e r ih =>
    obtain ⟨k, c⟩ := e
    simp only [Mem.dwfFrom, Bool.and_eq_true, decide_eq_true_eq] at h
    simp only [tdel]
    split
    · exact Mem.dwfFrom_mono h.2 (by omega)
    · simp only [Mem.dwfFrom, Bool.and_eq_true, decide_eq_true_eq]
      exact ⟨h.1, ih h.2⟩

/-- One byte written keeps the canonical form. -/
theorem dwf_dwrite {d : Nat → Byte} {m : Mem} (h : Mem.dwfFrom d 0 m = true) (a : Nat) (b : Byte) :
    Mem.dwfFrom d 0 (dwrite d m a b) = true := by
  unfold dwrite
  split
  · exact Mem.dwfFrom_tdel h a
  · exact Mem.dwfFrom_tset h (Nat.zero_le a) (by assumption)

theorem dwf_dwriteL {d : Nat → Byte} {m : Mem} (h : Mem.dwfFrom d 0 m = true) (a : Nat) (l : List Byte) :
    Mem.dwfFrom d 0 (dwriteL d m a l) = true := by
  induction l generalizing m a with
  | nil => exact h
  | cons b r ih => exact ih (dwf_dwrite h a b) (a + 1)

theorem tget_tdel_wf {d : Nat → Byte} {lo : Nat} {m : Mem} (h : Mem.dwfFrom d lo m = true) (a : Nat) : tget (tdel m a) a = none := by
  induction m generalizing lo with
  | nil => rfl
  | cons e r ih =>
    obtain ⟨k, c⟩ := e
    simp only [Mem.dwfFrom, Bool.and_eq_true, decide_eq_true_eq] at h
    simp only [tdel]
    split
    · subst_vars; exact tget_of_dwfFrom h.2 (by omega)
    · rename_i hk; simp only [tget]; rw [if_neg hk, ih h.2]

/-- A byte reads as it was written, and every other byte as before. -/
theorem dread_dwrite {d : Nat → Byte} {m : Mem} (h : Mem.dwfFrom d 0 m = true) (a : Nat) (b : Byte) (x : Nat) :
    dread d (dwrite d m a b) x = if x = a then b else dread d m x := by
  unfold dread dwrite
  by_cases hb : b = d a
  · rw [if_pos hb]
    by_cases hx : x = a
    · subst hx; rw [tget_tdel_wf h, if_pos rfl, hb]; rfl
    · rw [tget_tdel_ne m hx, if_neg hx]
  · rw [if_neg hb, tget_tset]
    by_cases hx : x = a <;> simp [hx]

/-- Bytes outside those written read as before. -/
theorem dread_dwriteL_other {d : Nat → Byte} {m : Mem} (h : Mem.dwfFrom d 0 m = true) (l : List Byte) {a x : Nat}
    (hx : x < a ∨ a + l.length ≤ x) : dread d (dwriteL d m a l) x = dread d m x := by
  induction l generalizing m a with
  | nil => rfl
  | cons b r ih =>
    simp only [List.length_cons] at hx
    rw [dwriteL, ih (dwf_dwrite h a b) (by omega), dread_dwrite h, if_neg (by omega)]

/-- The bytes written read as they were written. -/
theorem dread_dwriteL_in {d : Nat → Byte} {m : Mem} (h : Mem.dwfFrom d 0 m = true) (l : List Byte) {a k : Nat} (hk : k < l.length) :
    dread d (dwriteL d m a l) (a + k) = l[k] := by
  induction l generalizing m a k with
  | nil => simp at hk
  | cons b r ih =>
    cases k with
    | zero => rw [dwriteL, dread_dwriteL_other (dwf_dwrite h a b) _ (by omega), dread_dwrite h]; simp
    | succ j =>
      have := ih (dwf_dwrite h a b) (a := a + 1) (k := j) (by simpa using hk)
      rw [dwriteL, List.getElem_cons_succ, ← this]; congr 1; omega

/-! The same of HBM4 and of the other stores. -/

theorem hbmWf_hwrite {m : Mem} (h : Mem.hbmWf m = true) (a : Nat) (b : Byte) : Mem.hbmWf (hwrite m a b) = true := dwf_dwrite h a b
theorem hbmWf_hwriteL {m : Mem} (h : Mem.hbmWf m = true) (a : Nat) (l : List Byte) : Mem.hbmWf (hwriteL m a l) = true := dwf_dwriteL h a l
theorem hread_hwrite {m : Mem} (h : Mem.hbmWf m = true) (a : Nat) (b : Byte) (x : Nat) :
    hread (hwrite m a b) x = if x = a then b else hread m x := dread_dwrite h a b x
theorem hread_hwriteL_other {m : Mem} (h : Mem.hbmWf m = true) (l : List Byte) {a x : Nat} (hx : x < a ∨ a + l.length ≤ x) :
    hread (hwriteL m a l) x = hread m x := dread_dwriteL_other h l hx
theorem hread_hwriteL_in {m : Mem} (h : Mem.hbmWf m = true) (l : List Byte) {a k : Nat} (hk : k < l.length) :
    hread (hwriteL m a l) (a + k) = l[k] := dread_dwriteL_in h l hk

theorem wf_mwrite {m : Mem} (h : Mem.wf m = true) (a : Nat) (b : Byte) : Mem.wf (mwrite m a b) = true := dwf_dwrite h a b
theorem wf_mwriteL {m : Mem} (h : Mem.wf m = true) (a : Nat) (l : List Byte) : Mem.wf (mwriteL m a l) = true := dwf_dwriteL h a l
theorem wf_mwriteN {m : Mem} (h : Mem.wf m = true) (a n v : Nat) : Mem.wf (mwriteN m a n v) = true := dwf_dwriteL h a _
theorem mread_mwrite {m : Mem} (h : Mem.wf m = true) (a : Nat) (b : Byte) (x : Nat) :
    mread (mwrite m a b) x = if x = a then b else mread m x := dread_dwrite h a b x
theorem mread_mwriteL_other {m : Mem} (h : Mem.wf m = true) (l : List Byte) {a x : Nat} (hx : x < a ∨ a + l.length ≤ x) :
    mread (mwriteL m a l) x = mread m x := dread_dwriteL_other h l hx
theorem mread_mwriteL_in {m : Mem} (h : Mem.wf m = true) (l : List Byte) {a k : Nat} (hk : k < l.length) :
    mread (mwriteL m a l) (a + k) = l[k] := dread_dwriteL_in h l hk

/-! ## Changing a table in place -/

theorem tmod_congr {t : Tab α} {k : Nat} {f g : α → α} (h : ∀ v, tget t k = some v → f v = g v) : tmod t k f = tmod t k g := by
  induction t with
  | nil => rfl
  | cons e r ih =>
    obtain ⟨j, w⟩ := e
    by_cases hk : k = j
    · simp [tmod, hk, h w (by simp [tget, hk])]
    · simp only [tmod, if_neg hk]
      rw [ih fun v hv => h v (by simpa [tget, hk] using hv)]

theorem tmod_tmod (t : Tab α) (k : Nat) (f g : α → α) : tmod (tmod t k f) k g = tmod t k fun v => g (f v) := by
  induction t with
  | nil => rfl
  | cons e r ih =>
    obtain ⟨j, w⟩ := e
    by_cases hk : k = j <;> simp [tmod, hk, ih]

theorem tmap_tmod {t : Tab α} {k : Nat} {f : α → α} {g : Nat → α → α} (h : ∀ v, tget t k = some v → g k (f v) = g k v) :
    tmap (tmod t k f) g = tmap t g := by
  induction t with
  | nil => rfl
  | cons e r ih =>
    obtain ⟨j, w⟩ := e
    by_cases hk : k = j
    · simp [tmod, tmap, hk, ← hk ▸ h w (by simp [tget, hk])]
    · have := ih fun v hv => h v (by simpa [tget, hk] using hv)
      simpa [tmod, tmap, hk] using this

theorem tmap_tmap (t : Tab α) (f g : Nat → α → α) : tmap (tmap t f) g = tmap t fun k v => g k (f k v) := by
  simp [tmap]

theorem tmap_congr {t : Tab α} {f g : Nat → α → α} (h : ∀ e ∈ t, f e.1 e.2 = g e.1 e.2) : tmap t f = tmap t g := by
  simp only [tmap]
  exact List.map_congr_left fun e he => by rw [h e he]

/-- What a test of an optional value says. -/
theorem exists_of_any {o : Option α} {p : α → Bool} (h : o.any p = true) : ∃ x, o = some x ∧ p x = true := by
  cases o with
  | none => cases h
  | some x => exact ⟨x, rfl, h⟩

end Sys2Proof.Machine
end

