-- ==== Sys2Proof/Laws/Home.lean ====
section
/-! SUPPORT. When the data array of a home has room for a sector, so that nothing leaves it (15 R297). -/

namespace Sys2Proof.Machine

theorem tset_length_le {α : Type} (t : Tab α) (k : Nat) (v : α) : (tset t k v).length ≤ t.length + 1 := by
  induction t with
  | nil => simp [tset]
  | cons e r ih =>
    obtain ⟨a, w⟩ := e
    simp only [tset]
    split
    · simp
    · split <;> simp only [List.length_cons] <;> omega

/-- A slice holds no more lines than its data array has sectors. -/
theorem State.l2Lines_length_le (s : State) (sec : Nat) : (s.l2Lines sec).length ≤ s.pkg.l2.length := by
  unfold State.l2Lines
  suffices h : ∀ (l : Tab HomeSector) (acc : Tab Nat) (f : Tab Nat → Nat × HomeSector → Tab Nat),
      (∀ a e, (f a e).length ≤ a.length + 1) → (l.foldl f acc).length ≤ acc.length + l.length by
    refine Nat.le_trans (h _ [] _ ?_) (by simp)
    intro a e
    split
    · omega
    · split
      · exact tset_length_le ..
      · omega
  intro l
  induction l with
  | nil => intro acc f _; simp
  | cons e r ih =>
    intro acc f hf
    have := ih (f acc e) f hf
    have := hf acc e
    simp only [List.foldl_cons, List.length_cons]
    omega

/-- While fewer than sixteen sectors are held, none leaves. -/
theorem State.l2Room_of_short {s : State} (h : s.pkg.l2.length < 16) (sec : Nat) : s.l2Room sec = s := by
  have := s.l2Lines_length_le sec
  unfold State.l2Room State.roomBy
  extract_lets lines
  have hl : lines.length < 16 := Nat.lt_of_le_of_lt this h
  split
  · rfl
  · rfl

end Sys2Proof.Machine
end

