-- ==== Sys2Proof/Laws/State.lean ====
section
/-! SUPPORT. What each update of the state leaves alone, field by field, and what each accessor reads after each update. -/

namespace Sys2Proof.Machine

variable (s : State)

/-! ## modCore -/

@[simp] theorem State.modCore_pkg (g : Nat) (f : Core → Core) : (s.modCore g f).pkg = s.pkg := rfl
@[simp] theorem State.modCore_dies (g : Nat) (f : Core → Core) : (s.modCore g f).dies = s.dies := rfl
@[simp] theorem State.modCore_ctxs (g : Nat) (f : Core → Core) : (s.modCore g f).ctxs = s.ctxs := rfl
@[simp] theorem State.modCore_launches (g : Nat) (f : Core → Core) : (s.modCore g f).launches = s.launches := rfl
@[simp] theorem State.modCore_queues (g : Nat) (f : Core → Core) : (s.modCore g f).queues = s.queues := rfl
@[simp] theorem State.modCore_held (g : Nat) (f : Core → Core) : (s.modCore g f).held = s.held := rfl
@[simp] theorem State.modCore_qreqs (g : Nat) (f : Core → Core) : (s.modCore g f).qreqs = s.qreqs := rfl
@[simp] theorem State.modCore_landings (g : Nat) (f : Core → Core) : (s.modCore g f).landings = s.landings := rfl
@[simp] theorem State.modCore_loads (g : Nat) (f : Core → Core) : (s.modCore g f).loads = s.loads := rfl
@[simp] theorem State.modCore_atoms (g : Nat) (f : Core → Core) : (s.modCore g f).atoms = s.atoms := rfl
@[simp] theorem State.modCore_feWaits (g : Nat) (f : Core → Core) : (s.modCore g f).feWaits = s.feWaits := rfl
@[simp] theorem State.modCore_ops (g : Nat) (f : Core → Core) : (s.modCore g f).ops = s.ops := rfl
@[simp] theorem State.modCore_remotes (g : Nat) (f : Core → Core) : (s.modCore g f).remotes = s.remotes := rfl
@[simp] theorem State.modCore_fetched (g : Nat) (f : Core → Core) : (s.modCore g f).fetched = s.fetched := rfl
@[simp] theorem State.modCore_sent (g : Nat) (f : Core → Core) : (s.modCore g f).sent = s.sent := rfl
@[simp] theorem State.modCore_notices (g : Nat) (f : Core → Core) : (s.modCore g f).notices = s.notices := rfl
@[simp] theorem State.modCore_mgmt (g : Nat) (f : Core → Core) : (s.modCore g f).mgmt = s.mgmt := rfl
@[simp] theorem State.modCore_us (g : Nat) (f : Core → Core) : (s.modCore g f).us = s.us := rfl
@[simp] theorem State.modCore_ns (g : Nat) (f : Core → Core) : (s.modCore g f).ns = s.ns := rfl
@[simp] theorem State.modCore_agenda (g : Nat) (f : Core → Core) : (s.modCore g f).agenda = s.agenda := rfl
@[simp] theorem State.modCore_turn (g : Nat) (f : Core → Core) : (s.modCore g f).turn = s.turn := rfl
@[simp] theorem State.modCore_draws (g : Nat) (f : Core → Core) : (s.modCore g f).draws = s.draws := rfl
@[simp] theorem State.modCore_fresh (g : Nat) (f : Core → Core) : (s.modCore g f).fresh = s.fresh := rfl
@[simp] theorem State.modCore_site (g : Nat) (f : Core → Core) : (s.modCore g f).site = s.site := rfl
@[simp] theorem State.modCore_env (g : Nat) (f : Core → Core) : (s.modCore g f).env = s.env := rfl
@[simp] theorem State.modCore_restartAsk (g : Nat) (f : Core → Core) : (s.modCore g f).restartAsk = s.restartAsk := rfl

/-! ## modCtx -/

@[simp] theorem State.modCtx_pkg (c : Nat) (f : Ctx → Ctx) : (s.modCtx c f).pkg = s.pkg := rfl
@[simp] theorem State.modCtx_dies (c : Nat) (f : Ctx → Ctx) : (s.modCtx c f).dies = s.dies := rfl
@[simp] theorem State.modCtx_cores (c : Nat) (f : Ctx → Ctx) : (s.modCtx c f).cores = s.cores := rfl
@[simp] theorem State.modCtx_launches (c : Nat) (f : Ctx → Ctx) : (s.modCtx c f).launches = s.launches := rfl
@[simp] theorem State.modCtx_queues (c : Nat) (f : Ctx → Ctx) : (s.modCtx c f).queues = s.queues := rfl
@[simp] theorem State.modCtx_held (c : Nat) (f : Ctx → Ctx) : (s.modCtx c f).held = s.held := rfl
@[simp] theorem State.modCtx_qreqs (c : Nat) (f : Ctx → Ctx) : (s.modCtx c f).qreqs = s.qreqs := rfl
@[simp] theorem State.modCtx_landings (c : Nat) (f : Ctx → Ctx) : (s.modCtx c f).landings = s.landings := rfl
@[simp] theorem State.modCtx_loads (c : Nat) (f : Ctx → Ctx) : (s.modCtx c f).loads = s.loads := rfl
@[simp] theorem State.modCtx_atoms (c : Nat) (f : Ctx → Ctx) : (s.modCtx c f).atoms = s.atoms := rfl
@[simp] theorem State.modCtx_feWaits (c : Nat) (f : Ctx → Ctx) : (s.modCtx c f).feWaits = s.feWaits := rfl
@[simp] theorem State.modCtx_ops (c : Nat) (f : Ctx → Ctx) : (s.modCtx c f).ops = s.ops := rfl
@[simp] theorem State.modCtx_remotes (c : Nat) (f : Ctx → Ctx) : (s.modCtx c f).remotes = s.remotes := rfl
@[simp] theorem State.modCtx_fetched (c : Nat) (f : Ctx → Ctx) : (s.modCtx c f).fetched = s.fetched := rfl
@[simp] theorem State.modCtx_sent (c : Nat) (f : Ctx → Ctx) : (s.modCtx c f).sent = s.sent := rfl
@[simp] theorem State.modCtx_notices (c : Nat) (f : Ctx → Ctx) : (s.modCtx c f).notices = s.notices := rfl
@[simp] theorem State.modCtx_mgmt (c : Nat) (f : Ctx → Ctx) : (s.modCtx c f).mgmt = s.mgmt := rfl
@[simp] theorem State.modCtx_us (c : Nat) (f : Ctx → Ctx) : (s.modCtx c f).us = s.us := rfl
@[simp] theorem State.modCtx_ns (c : Nat) (f : Ctx → Ctx) : (s.modCtx c f).ns = s.ns := rfl
@[simp] theorem State.modCtx_agenda (c : Nat) (f : Ctx → Ctx) : (s.modCtx c f).agenda = s.agenda := rfl
@[simp] theorem State.modCtx_turn (c : Nat) (f : Ctx → Ctx) : (s.modCtx c f).turn = s.turn := rfl
@[simp] theorem State.modCtx_draws (c : Nat) (f : Ctx → Ctx) : (s.modCtx c f).draws = s.draws := rfl
@[simp] theorem State.modCtx_fresh (c : Nat) (f : Ctx → Ctx) : (s.modCtx c f).fresh = s.fresh := rfl
@[simp] theorem State.modCtx_site (c : Nat) (f : Ctx → Ctx) : (s.modCtx c f).site = s.site := rfl
@[simp] theorem State.modCtx_env (c : Nat) (f : Ctx → Ctx) : (s.modCtx c f).env = s.env := rfl
@[simp] theorem State.modCtx_restartAsk (c : Nat) (f : Ctx → Ctx) : (s.modCtx c f).restartAsk = s.restartAsk := rfl

/-! ## modTeam -/

@[simp] theorem State.modTeam_pkg (c k : Nat) (f : Team → Team) : (s.modTeam c k f).pkg = s.pkg := rfl
@[simp] theorem State.modTeam_dies (c k : Nat) (f : Team → Team) : (s.modTeam c k f).dies = s.dies := rfl
@[simp] theorem State.modTeam_cores (c k : Nat) (f : Team → Team) : (s.modTeam c k f).cores = s.cores := rfl
@[simp] theorem State.modTeam_launches (c k : Nat) (f : Team → Team) : (s.modTeam c k f).launches = s.launches := rfl
@[simp] theorem State.modTeam_queues (c k : Nat) (f : Team → Team) : (s.modTeam c k f).queues = s.queues := rfl
@[simp] theorem State.modTeam_held (c k : Nat) (f : Team → Team) : (s.modTeam c k f).held = s.held := rfl
@[simp] theorem State.modTeam_qreqs (c k : Nat) (f : Team → Team) : (s.modTeam c k f).qreqs = s.qreqs := rfl
@[simp] theorem State.modTeam_landings (c k : Nat) (f : Team → Team) : (s.modTeam c k f).landings = s.landings := rfl
@[simp] theorem State.modTeam_loads (c k : Nat) (f : Team → Team) : (s.modTeam c k f).loads = s.loads := rfl
@[simp] theorem State.modTeam_atoms (c k : Nat) (f : Team → Team) : (s.modTeam c k f).atoms = s.atoms := rfl
@[simp] theorem State.modTeam_feWaits (c k : Nat) (f : Team → Team) : (s.modTeam c k f).feWaits = s.feWaits := rfl
@[simp] theorem State.modTeam_ops (c k : Nat) (f : Team → Team) : (s.modTeam c k f).ops = s.ops := rfl
@[simp] theorem State.modTeam_remotes (c k : Nat) (f : Team → Team) : (s.modTeam c k f).remotes = s.remotes := rfl
@[simp] theorem State.modTeam_fetched (c k : Nat) (f : Team → Team) : (s.modTeam c k f).fetched = s.fetched := rfl
@[simp] theorem State.modTeam_sent (c k : Nat) (f : Team → Team) : (s.modTeam c k f).sent = s.sent := rfl
@[simp] theorem State.modTeam_notices (c k : Nat) (f : Team → Team) : (s.modTeam c k f).notices = s.notices := rfl
@[simp] theorem State.modTeam_mgmt (c k : Nat) (f : Team → Team) : (s.modTeam c k f).mgmt = s.mgmt := rfl
@[simp] theorem State.modTeam_us (c k : Nat) (f : Team → Team) : (s.modTeam c k f).us = s.us := rfl
@[simp] theorem State.modTeam_ns (c k : Nat) (f : Team → Team) : (s.modTeam c k f).ns = s.ns := rfl
@[simp] theorem State.modTeam_agenda (c k : Nat) (f : Team → Team) : (s.modTeam c k f).agenda = s.agenda := rfl
@[simp] theorem State.modTeam_turn (c k : Nat) (f : Team → Team) : (s.modTeam c k f).turn = s.turn := rfl
@[simp] theorem State.modTeam_draws (c k : Nat) (f : Team → Team) : (s.modTeam c k f).draws = s.draws := rfl
@[simp] theorem State.modTeam_fresh (c k : Nat) (f : Team → Team) : (s.modTeam c k f).fresh = s.fresh := rfl
@[simp] theorem State.modTeam_site (c k : Nat) (f : Team → Team) : (s.modTeam c k f).site = s.site := rfl
@[simp] theorem State.modTeam_env (c k : Nat) (f : Team → Team) : (s.modTeam c k f).env = s.env := rfl
@[simp] theorem State.modTeam_restartAsk (c k : Nat) (f : Team → Team) : (s.modTeam c k f).restartAsk = s.restartAsk := rfl

/-! ## modThread -/

@[simp] theorem State.modThread_pkg (k : Key) (f : Thread → Thread) : (s.modThread k f).pkg = s.pkg := rfl
@[simp] theorem State.modThread_dies (k : Key) (f : Thread → Thread) : (s.modThread k f).dies = s.dies := rfl
@[simp] theorem State.modThread_cores (k : Key) (f : Thread → Thread) : (s.modThread k f).cores = s.cores := rfl
@[simp] theorem State.modThread_launches (k : Key) (f : Thread → Thread) : (s.modThread k f).launches = s.launches := rfl
@[simp] theorem State.modThread_queues (k : Key) (f : Thread → Thread) : (s.modThread k f).queues = s.queues := rfl
@[simp] theorem State.modThread_held (k : Key) (f : Thread → Thread) : (s.modThread k f).held = s.held := rfl
@[simp] theorem State.modThread_qreqs (k : Key) (f : Thread → Thread) : (s.modThread k f).qreqs = s.qreqs := rfl
@[simp] theorem State.modThread_landings (k : Key) (f : Thread → Thread) : (s.modThread k f).landings = s.landings := rfl
@[simp] theorem State.modThread_loads (k : Key) (f : Thread → Thread) : (s.modThread k f).loads = s.loads := rfl
@[simp] theorem State.modThread_atoms (k : Key) (f : Thread → Thread) : (s.modThread k f).atoms = s.atoms := rfl
@[simp] theorem State.modThread_feWaits (k : Key) (f : Thread → Thread) : (s.modThread k f).feWaits = s.feWaits := rfl
@[simp] theorem State.modThread_ops (k : Key) (f : Thread → Thread) : (s.modThread k f).ops = s.ops := rfl
@[simp] theorem State.modThread_remotes (k : Key) (f : Thread → Thread) : (s.modThread k f).remotes = s.remotes := rfl
@[simp] theorem State.modThread_fetched (k : Key) (f : Thread → Thread) : (s.modThread k f).fetched = s.fetched := rfl
@[simp] theorem State.modThread_sent (k : Key) (f : Thread → Thread) : (s.modThread k f).sent = s.sent := rfl
@[simp] theorem State.modThread_notices (k : Key) (f : Thread → Thread) : (s.modThread k f).notices = s.notices := rfl
@[simp] theorem State.modThread_mgmt (k : Key) (f : Thread → Thread) : (s.modThread k f).mgmt = s.mgmt := rfl
@[simp] theorem State.modThread_us (k : Key) (f : Thread → Thread) : (s.modThread k f).us = s.us := rfl
@[simp] theorem State.modThread_ns (k : Key) (f : Thread → Thread) : (s.modThread k f).ns = s.ns := rfl
@[simp] theorem State.modThread_agenda (k : Key) (f : Thread → Thread) : (s.modThread k f).agenda = s.agenda := rfl
@[simp] theorem State.modThread_turn (k : Key) (f : Thread → Thread) : (s.modThread k f).turn = s.turn := rfl
@[simp] theorem State.modThread_draws (k : Key) (f : Thread → Thread) : (s.modThread k f).draws = s.draws := rfl
@[simp] theorem State.modThread_fresh (k : Key) (f : Thread → Thread) : (s.modThread k f).fresh = s.fresh := rfl
@[simp] theorem State.modThread_site (k : Key) (f : Thread → Thread) : (s.modThread k f).site = s.site := rfl
@[simp] theorem State.modThread_env (k : Key) (f : Thread → Thread) : (s.modThread k f).env = s.env := rfl
@[simp] theorem State.modThread_restartAsk (k : Key) (f : Thread → Thread) : (s.modThread k f).restartAsk = s.restartAsk := rfl

/-! ## mapMembers -/

@[simp] theorem State.mapMembers_pkg (c : Nat) (ms : List (Nat × Nat)) (f : Nat → Team → Nat → Thread → Thread) : (s.mapMembers c ms f).pkg = s.pkg := rfl
@[simp] theorem State.mapMembers_dies (c : Nat) (ms : List (Nat × Nat)) (f : Nat → Team → Nat → Thread → Thread) : (s.mapMembers c ms f).dies = s.dies := rfl
@[simp] theorem State.mapMembers_cores (c : Nat) (ms : List (Nat × Nat)) (f : Nat → Team → Nat → Thread → Thread) : (s.mapMembers c ms f).cores = s.cores := rfl
@[simp] theorem State.mapMembers_launches (c : Nat) (ms : List (Nat × Nat)) (f : Nat → Team → Nat → Thread → Thread) : (s.mapMembers c ms f).launches = s.launches := rfl
@[simp] theorem State.mapMembers_queues (c : Nat) (ms : List (Nat × Nat)) (f : Nat → Team → Nat → Thread → Thread) : (s.mapMembers c ms f).queues = s.queues := rfl
@[simp] theorem State.mapMembers_held (c : Nat) (ms : List (Nat × Nat)) (f : Nat → Team → Nat → Thread → Thread) : (s.mapMembers c ms f).held = s.held := rfl
@[simp] theorem State.mapMembers_qreqs (c : Nat) (ms : List (Nat × Nat)) (f : Nat → Team → Nat → Thread → Thread) : (s.mapMembers c ms f).qreqs = s.qreqs := rfl
@[simp] theorem State.mapMembers_landings (c : Nat) (ms : List (Nat × Nat)) (f : Nat → Team → Nat → Thread → Thread) : (s.mapMembers c ms f).landings = s.landings := rfl
@[simp] theorem State.mapMembers_loads (c : Nat) (ms : List (Nat × Nat)) (f : Nat → Team → Nat → Thread → Thread) : (s.mapMembers c ms f).loads = s.loads := rfl
@[simp] theorem State.mapMembers_atoms (c : Nat) (ms : List (Nat × Nat)) (f : Nat → Team → Nat → Thread → Thread) : (s.mapMembers c ms f).atoms = s.atoms := rfl
@[simp] theorem State.mapMembers_feWaits (c : Nat) (ms : List (Nat × Nat)) (f : Nat → Team → Nat → Thread → Thread) : (s.mapMembers c ms f).feWaits = s.feWaits := rfl
@[simp] theorem State.mapMembers_ops (c : Nat) (ms : List (Nat × Nat)) (f : Nat → Team → Nat → Thread → Thread) : (s.mapMembers c ms f).ops = s.ops := rfl
@[simp] theorem State.mapMembers_remotes (c : Nat) (ms : List (Nat × Nat)) (f : Nat → Team → Nat → Thread → Thread) : (s.mapMembers c ms f).remotes = s.remotes := rfl
@[simp] theorem State.mapMembers_fetched (c : Nat) (ms : List (Nat × Nat)) (f : Nat → Team → Nat → Thread → Thread) : (s.mapMembers c ms f).fetched = s.fetched := rfl
@[simp] theorem State.mapMembers_sent (c : Nat) (ms : List (Nat × Nat)) (f : Nat → Team → Nat → Thread → Thread) : (s.mapMembers c ms f).sent = s.sent := rfl
@[simp] theorem State.mapMembers_notices (c : Nat) (ms : List (Nat × Nat)) (f : Nat → Team → Nat → Thread → Thread) : (s.mapMembers c ms f).notices = s.notices := rfl
@[simp] theorem State.mapMembers_mgmt (c : Nat) (ms : List (Nat × Nat)) (f : Nat → Team → Nat → Thread → Thread) : (s.mapMembers c ms f).mgmt = s.mgmt := rfl
@[simp] theorem State.mapMembers_us (c : Nat) (ms : List (Nat × Nat)) (f : Nat → Team → Nat → Thread → Thread) : (s.mapMembers c ms f).us = s.us := rfl
@[simp] theorem State.mapMembers_ns (c : Nat) (ms : List (Nat × Nat)) (f : Nat → Team → Nat → Thread → Thread) : (s.mapMembers c ms f).ns = s.ns := rfl
@[simp] theorem State.mapMembers_agenda (c : Nat) (ms : List (Nat × Nat)) (f : Nat → Team → Nat → Thread → Thread) : (s.mapMembers c ms f).agenda = s.agenda := rfl
@[simp] theorem State.mapMembers_turn (c : Nat) (ms : List (Nat × Nat)) (f : Nat → Team → Nat → Thread → Thread) : (s.mapMembers c ms f).turn = s.turn := rfl
@[simp] theorem State.mapMembers_draws (c : Nat) (ms : List (Nat × Nat)) (f : Nat → Team → Nat → Thread → Thread) : (s.mapMembers c ms f).draws = s.draws := rfl
@[simp] theorem State.mapMembers_fresh (c : Nat) (ms : List (Nat × Nat)) (f : Nat → Team → Nat → Thread → Thread) : (s.mapMembers c ms f).fresh = s.fresh := rfl
@[simp] theorem State.mapMembers_site (c : Nat) (ms : List (Nat × Nat)) (f : Nat → Team → Nat → Thread → Thread) : (s.mapMembers c ms f).site = s.site := rfl
@[simp] theorem State.mapMembers_env (c : Nat) (ms : List (Nat × Nat)) (f : Nat → Team → Nat → Thread → Thread) : (s.mapMembers c ms f).env = s.env := rfl
@[simp] theorem State.mapMembers_restartAsk (c : Nat) (ms : List (Nat × Nat)) (f : Nat → Team → Nat → Thread → Thread) : (s.mapMembers c ms f).restartAsk = s.restartAsk := rfl

/-! ## modDie -/

@[simp] theorem State.modDie_pkg (d : Nat) (f : Die → Die) : (s.modDie d f).pkg = s.pkg := rfl
@[simp] theorem State.modDie_cores (d : Nat) (f : Die → Die) : (s.modDie d f).cores = s.cores := rfl
@[simp] theorem State.modDie_ctxs (d : Nat) (f : Die → Die) : (s.modDie d f).ctxs = s.ctxs := rfl
@[simp] theorem State.modDie_launches (d : Nat) (f : Die → Die) : (s.modDie d f).launches = s.launches := rfl
@[simp] theorem State.modDie_queues (d : Nat) (f : Die → Die) : (s.modDie d f).queues = s.queues := rfl
@[simp] theorem State.modDie_held (d : Nat) (f : Die → Die) : (s.modDie d f).held = s.held := rfl
@[simp] theorem State.modDie_qreqs (d : Nat) (f : Die → Die) : (s.modDie d f).qreqs = s.qreqs := rfl
@[simp] theorem State.modDie_landings (d : Nat) (f : Die → Die) : (s.modDie d f).landings = s.landings := rfl
@[simp] theorem State.modDie_loads (d : Nat) (f : Die → Die) : (s.modDie d f).loads = s.loads := rfl
@[simp] theorem State.modDie_atoms (d : Nat) (f : Die → Die) : (s.modDie d f).atoms = s.atoms := rfl
@[simp] theorem State.modDie_feWaits (d : Nat) (f : Die → Die) : (s.modDie d f).feWaits = s.feWaits := rfl
@[simp] theorem State.modDie_ops (d : Nat) (f : Die → Die) : (s.modDie d f).ops = s.ops := rfl
@[simp] theorem State.modDie_remotes (d : Nat) (f : Die → Die) : (s.modDie d f).remotes = s.remotes := rfl
@[simp] theorem State.modDie_fetched (d : Nat) (f : Die → Die) : (s.modDie d f).fetched = s.fetched := rfl
@[simp] theorem State.modDie_sent (d : Nat) (f : Die → Die) : (s.modDie d f).sent = s.sent := rfl
@[simp] theorem State.modDie_notices (d : Nat) (f : Die → Die) : (s.modDie d f).notices = s.notices := rfl
@[simp] theorem State.modDie_mgmt (d : Nat) (f : Die → Die) : (s.modDie d f).mgmt = s.mgmt := rfl
@[simp] theorem State.modDie_us (d : Nat) (f : Die → Die) : (s.modDie d f).us = s.us := rfl
@[simp] theorem State.modDie_ns (d : Nat) (f : Die → Die) : (s.modDie d f).ns = s.ns := rfl
@[simp] theorem State.modDie_agenda (d : Nat) (f : Die → Die) : (s.modDie d f).agenda = s.agenda := rfl
@[simp] theorem State.modDie_turn (d : Nat) (f : Die → Die) : (s.modDie d f).turn = s.turn := rfl
@[simp] theorem State.modDie_draws (d : Nat) (f : Die → Die) : (s.modDie d f).draws = s.draws := rfl
@[simp] theorem State.modDie_fresh (d : Nat) (f : Die → Die) : (s.modDie d f).fresh = s.fresh := rfl
@[simp] theorem State.modDie_site (d : Nat) (f : Die → Die) : (s.modDie d f).site = s.site := rfl
@[simp] theorem State.modDie_env (d : Nat) (f : Die → Die) : (s.modDie d f).env = s.env := rfl
@[simp] theorem State.modDie_restartAsk (d : Nat) (f : Die → Die) : (s.modDie d f).restartAsk = s.restartAsk := rfl

/-! ## modPkg -/

@[simp] theorem State.modPkg_dies (f : Pkg → Pkg) : (s.modPkg f).dies = s.dies := rfl
@[simp] theorem State.modPkg_cores (f : Pkg → Pkg) : (s.modPkg f).cores = s.cores := rfl
@[simp] theorem State.modPkg_ctxs (f : Pkg → Pkg) : (s.modPkg f).ctxs = s.ctxs := rfl
@[simp] theorem State.modPkg_launches (f : Pkg → Pkg) : (s.modPkg f).launches = s.launches := rfl
@[simp] theorem State.modPkg_queues (f : Pkg → Pkg) : (s.modPkg f).queues = s.queues := rfl
@[simp] theorem State.modPkg_held (f : Pkg → Pkg) : (s.modPkg f).held = s.held := rfl
@[simp] theorem State.modPkg_qreqs (f : Pkg → Pkg) : (s.modPkg f).qreqs = s.qreqs := rfl
@[simp] theorem State.modPkg_landings (f : Pkg → Pkg) : (s.modPkg f).landings = s.landings := rfl
@[simp] theorem State.modPkg_loads (f : Pkg → Pkg) : (s.modPkg f).loads = s.loads := rfl
@[simp] theorem State.modPkg_atoms (f : Pkg → Pkg) : (s.modPkg f).atoms = s.atoms := rfl
@[simp] theorem State.modPkg_feWaits (f : Pkg → Pkg) : (s.modPkg f).feWaits = s.feWaits := rfl
@[simp] theorem State.modPkg_ops (f : Pkg → Pkg) : (s.modPkg f).ops = s.ops := rfl
@[simp] theorem State.modPkg_remotes (f : Pkg → Pkg) : (s.modPkg f).remotes = s.remotes := rfl
@[simp] theorem State.modPkg_fetched (f : Pkg → Pkg) : (s.modPkg f).fetched = s.fetched := rfl
@[simp] theorem State.modPkg_sent (f : Pkg → Pkg) : (s.modPkg f).sent = s.sent := rfl
@[simp] theorem State.modPkg_notices (f : Pkg → Pkg) : (s.modPkg f).notices = s.notices := rfl
@[simp] theorem State.modPkg_mgmt (f : Pkg → Pkg) : (s.modPkg f).mgmt = s.mgmt := rfl
@[simp] theorem State.modPkg_us (f : Pkg → Pkg) : (s.modPkg f).us = s.us := rfl
@[simp] theorem State.modPkg_ns (f : Pkg → Pkg) : (s.modPkg f).ns = s.ns := rfl
@[simp] theorem State.modPkg_agenda (f : Pkg → Pkg) : (s.modPkg f).agenda = s.agenda := rfl
@[simp] theorem State.modPkg_turn (f : Pkg → Pkg) : (s.modPkg f).turn = s.turn := rfl
@[simp] theorem State.modPkg_draws (f : Pkg → Pkg) : (s.modPkg f).draws = s.draws := rfl
@[simp] theorem State.modPkg_fresh (f : Pkg → Pkg) : (s.modPkg f).fresh = s.fresh := rfl
@[simp] theorem State.modPkg_site (f : Pkg → Pkg) : (s.modPkg f).site = s.site := rfl
@[simp] theorem State.modPkg_env (f : Pkg → Pkg) : (s.modPkg f).env = s.env := rfl
@[simp] theorem State.modPkg_restartAsk (f : Pkg → Pkg) : (s.modPkg f).restartAsk = s.restartAsk := rfl

/-! ## What the accessors read -/

@[simp] theorem State.core_modCore (g : Nat) (f : Core → Core) (j : Nat) :
    (s.modCore g f).core j = if j = g then f (s.core g) else s.core j := by
  unfold State.core State.modCore
  rw [tget_tset]
  split <;> rfl

@[simp] theorem State.core_modCtx (c : Nat) (f : Ctx → Ctx) (j : Nat) : (s.modCtx c f).core j = s.core j := rfl
@[simp] theorem State.core_modTeam (c k : Nat) (f : Team → Team) (j : Nat) : (s.modTeam c k f).core j = s.core j := rfl
@[simp] theorem State.core_modThread (k : Key) (f : Thread → Thread) (j : Nat) : (s.modThread k f).core j = s.core j := rfl
@[simp] theorem State.core_mapMembers (c : Nat) (ms : List (Nat × Nat)) (f : Nat → Team → Nat → Thread → Thread) (j : Nat) :
    (s.mapMembers c ms f).core j = s.core j := rfl
@[simp] theorem State.core_modDie (d : Nat) (f : Die → Die) (j : Nat) : (s.modDie d f).core j = s.core j := rfl
@[simp] theorem State.core_modPkg (f : Pkg → Pkg) (j : Nat) : (s.modPkg f).core j = s.core j := rfl

@[simp] theorem State.die_modCore (g : Nat) (f : Core → Core) (j : Nat) : (s.modCore g f).die j = s.die j := rfl
@[simp] theorem State.die_modCtx (c : Nat) (f : Ctx → Ctx) (j : Nat) : (s.modCtx c f).die j = s.die j := rfl
@[simp] theorem State.die_modTeam (c k : Nat) (f : Team → Team) (j : Nat) : (s.modTeam c k f).die j = s.die j := rfl
@[simp] theorem State.die_modThread (k : Key) (f : Thread → Thread) (j : Nat) : (s.modThread k f).die j = s.die j := rfl
@[simp] theorem State.die_mapMembers (c : Nat) (ms : List (Nat × Nat)) (f : Nat → Team → Nat → Thread → Thread) (j : Nat) :
    (s.mapMembers c ms f).die j = s.die j := rfl
@[simp] theorem State.die_modPkg (f : Pkg → Pkg) (j : Nat) : (s.modPkg f).die j = s.die j := rfl

theorem State.die_modDie (d : Nat) (f : Die → Die) (j : Nat) :
    (s.modDie d f).die j = if j % 4 = d % 4 then f (s.die d) else s.die j := by
  unfold State.die State.modDie
  simp only [Vector.getElem_set]
  split <;> simp_all [eq_comm, State.die]

@[simp] theorem State.die_modDie_self (d : Nat) (f : Die → Die) : (s.modDie d f).die d = f (s.die d) := by
  simp [State.die_modDie]

theorem State.ctx?_modCtx (c : Nat) (f : Ctx → Ctx) (j : Nat) :
    (s.modCtx c f).ctx? j = if j = c then (s.ctx? j).map f else s.ctx? j := tget_tmod s.ctxs c f j

@[simp] theorem State.ctx?_modCtx_self (c : Nat) (f : Ctx → Ctx) : (s.modCtx c f).ctx? c = (s.ctx? c).map f := by
  simp [State.ctx?_modCtx]

@[simp] theorem State.ctx?_modCore (g : Nat) (f : Core → Core) (j : Nat) : (s.modCore g f).ctx? j = s.ctx? j := rfl
@[simp] theorem State.ctx?_modDie (d : Nat) (f : Die → Die) (j : Nat) : (s.modDie d f).ctx? j = s.ctx? j := rfl
@[simp] theorem State.ctx?_modPkg (f : Pkg → Pkg) (j : Nat) : (s.modPkg f).ctx? j = s.ctx? j := rfl
@[simp] theorem State.team?_modCore (g : Nat) (f : Core → Core) (c k : Nat) : (s.modCore g f).team? c k = s.team? c k := rfl
@[simp] theorem State.team?_modDie (d : Nat) (f : Die → Die) (c k : Nat) : (s.modDie d f).team? c k = s.team? c k := rfl
@[simp] theorem State.team?_modPkg (f : Pkg → Pkg) (c k : Nat) : (s.modPkg f).team? c k = s.team? c k := rfl
@[simp] theorem State.thread?_modCore (g : Nat) (f : Core → Core) (k : Key) : (s.modCore g f).thread? k = s.thread? k := rfl
@[simp] theorem State.thread?_modDie (d : Nat) (f : Die → Die) (k : Key) : (s.modDie d f).thread? k = s.thread? k := rfl
@[simp] theorem State.thread?_modPkg (f : Pkg → Pkg) (k : Key) : (s.modPkg f).thread? k = s.thread? k := rfl

theorem State.team?_modTeam (c k : Nat) (f : Team → Team) (d j : Nat) :
    (s.modTeam c k f).team? d j = if d = c ∧ j = k then (s.team? d j).map f else s.team? d j := by
  unfold State.team? State.modTeam
  rw [State.ctx?_modCtx]
  by_cases hd : d = c <;> simp only [hd, if_true, if_false, true_and, false_and]
  cases s.ctx? c with
  | none => simp
  | some x =>
    simp only [Option.map_some, Option.bind_some, tget_tmod]

theorem State.thread?_modThread (k : Key) (f : Thread → Thread) (j : Key) :
    (s.modThread k f).thread? j = if j = k then (s.thread? j).map f else s.thread? j := by
  unfold State.thread? State.modThread
  rw [State.team?_modTeam]
  by_cases hc : j.ctx = k.ctx ∧ j.tslot = k.tslot
  · simp only [hc, and_self, if_true]
    cases h : s.team? k.ctx k.tslot with
    | none => simp
    | some t =>
      simp only [Option.map_some, Option.bind_some, tget_tmod]
      have : (j = k) = (j.tid = k.tid) := by
        cases j; cases k; simp_all
      simp [this]
  · have : j ≠ k := fun h => hc (h ▸ ⟨rfl, rfl⟩)
    simp [hc, this]

@[simp] theorem State.thread?_modThread_self (k : Key) (f : Thread → Thread) :
    (s.modThread k f).thread? k = (s.thread? k).map f := by simp [State.thread?_modThread]

/-- Changing threads leaves where a context runs alone. -/
@[simp] theorem State.ctxCore_modThread (k : Key) (f : Thread → Thread) (j : Nat) :
    ((s.modThread k f).ctx? j).map (·.core) = (s.ctx? j).map (·.core) := by
  unfold State.modThread State.modTeam
  rw [State.ctx?_modCtx]
  split
  · cases s.ctx? j <;> rfl
  · rfl

/-- A member of a group as its thread. -/
theorem State.member?_eq (m : Nat × Nat) (t : Team) (th : Thread) (h : s.member? m = some (t, th)) :
    s.team? s.site.ctx m.1 = some t ∧ tget t.threads m.2 = some th ∧ s.thread? ⟨s.site.ctx, m.1, m.2⟩ = some th := by
  unfold State.member? at h
  cases ht : s.team? s.site.ctx m.1 with
  | none => simp [ht] at h
  | some t' =>
    simp only [ht, Option.bind_some, Option.map_eq_some_iff] at h
    obtain ⟨x, hx, he⟩ := h
    cases he
    exact ⟨rfl, hx, by simp [State.thread?, ht, hx]⟩

end Sys2Proof.Machine
end

