-- ==== Sys2Proof/Laws/Issue.lean ====
section
/-! SUPPORT. What the issue of a word does and leaves alone: `State.alike` through the steps that end an issue, and one lemma for
each way of issuing. -/

namespace Sys2Proof.Machine

variable {α β : Type} {s t u : State}

/-! ## `alike` -/

theorem State.alike_refl (s : State) : s.alike s := ⟨fun _ => rfl, fun _ _ _ => rfl, rfl, rfl⟩

theorem State.alike_site (h : s.alike t) : t.site = s.site := by
  have := congrArg State.site h.2.2.2
  exact this

theorem State.alike_trans (h : s.alike t) (h' : t.alike u) : s.alike u := by
  have hs := State.alike_site h
  refine ⟨fun g => (h'.1 g).trans (h.1 g), fun g k hk => (h'.2.1 g k (by rwa [hs])).trans (h.2.1 g k hk), ?_, h'.2.2.2.trans h.2.2.2⟩
  exact h'.2.2.1.trans h.2.2.1

/-- The group of the issue may change at will. -/
theorem State.alike_groups (s : State) (f : Tab Group → Tab Group)
    (hf : ∀ k, k ≠ s.site.slot → ∀ t, tget (f t) k = tget t k) :
    s.alike (s.modCore s.site.core fun c => { c with groups := f c.groups }) := by
  refine ⟨fun g => ?_, fun g k hk => ?_, rfl, rfl⟩
  · rw [State.core_modCore]
    split <;> simp_all
  · rw [State.core_modCore]
    split
    · rename_i hg
      exact hg ▸ hf k (by rintro rfl; exact hk (by rw [hg])) _
    · rfl

/-- Members of the issuing group may come to stand elsewhere. -/
theorem State.alike_mapMembers (s : State) (ms : List (Nat × Nat)) (f : Nat → Team → Nat → Thread → Thread)
    (hm : ∀ m ∈ ms, m ∈ s.site.all) (hf : ∀ a b c th, (f a b c th).still = th.still) :
    s.alike (s.mapMembers s.site.ctx ms f) := by
  refine ⟨fun g => rfl, fun g k hk => rfl, ?_, rfl⟩
  show tmod (tmod s.ctxs s.site.ctx _) s.site.ctx _ = tmod s.ctxs s.site.ctx _
  rw [tmod_tmod]
  refine tmod_congr fun x _ => ?_
  simp only [tmap_tmap, Ctx.mk.injEq, true_and, and_true, State.mapMembers_site]
  refine tmap_congr fun e _ => ?_
  simp only [Team.mk.injEq, true_and, and_true]
  refine tmap_congr fun e' _ => ?_
  by_cases h : ms.contains (e.1, e'.1) = true
  · simp only [h, if_true, List.contains_iff_mem.mpr (hm _ (List.contains_iff_mem.mp h)), hf]
  · simp only [h, if_false, Bool.false_eq_true]

theorem State.alike_modThread (s : State) (m : Nat × Nat) (f : Thread → Thread) (hm : m ∈ s.site.all)
    (hf : ∀ th, s.thread? (s.key m) = some th → (f th).still = th.still) : s.alike (s.modThread (s.key m) f) := by
  refine ⟨fun g => rfl, fun g k hk => rfl, ?_, rfl⟩
  show tmod (tmod s.ctxs s.site.ctx _) s.site.ctx _ = tmod s.ctxs s.site.ctx _
  rw [tmod_tmod]
  refine tmod_congr fun x hx => ?_
  simp only [Ctx.mk.injEq, true_and, and_true, State.modThread_site]
  refine tmap_tmod fun t ht => ?_
  simp only [Team.mk.injEq, true_and, and_true]
  refine tmap_tmod fun th hth => ?_
  have hc : s.site.all.contains (m.1, m.2) = true := List.contains_iff_mem.mpr hm
  have : s.thread? (s.key m) = some th := by
    have h1 : tget s.ctxs s.site.ctx = some x := hx
    have h2 : tget x.teams m.1 = some t := ht
    have h3 : tget t.threads m.2 = some th := hth
    simp [State.thread?, State.team?, State.ctx?, State.key, h1, h2, h3]
  simp only [State.key, hc, if_true, hf th this]

/-! ## How an issue ends -/

@[simp] theorem Thread.still_pc (th : Thread) (pc : PC) : { th with pc }.still = th.still := rfl
@[simp] theorem Thread.still_rep (th : Thread) (repidx : BitVec 6) (pc : PC) : { th with repidx, pc }.still = th.still := rfl
@[simp] theorem Thread.still_noLatches (th : Thread) : th.noLatches.still = th.still := rfl

theorem State.site_modThread (s : State) (k : Key) (f : Thread → Thread) : (s.modThread k f).site = s.site := rfl

/-- Members that go on, wherever to. -/
def Out.goes : Out → Bool
  | .next | .jump _ | .back _ | .resume _ => true
  | _ => false

theorem State.alike_settle (s : State) (i : Instr) (m : Nat × Nat) (o : Out) (ho : o.goes = true) (hm : m ∈ s.site.all) :
    s.alike (s.settle i m o) := by
  unfold State.settle
  simp only
  split
  · exact State.alike_refl s
  · cases o <;> simp only [Out.goes, Bool.false_eq_true] at ho
    · refine State.alike_modThread s m _ hm fun th _ => ?_
      split
      · rfl
      · split <;> rfl
    all_goals exact State.alike_modThread s m _ hm fun th _ => rfl

theorem State.alike_settleAll (s : State) (i : Instr) (outs : List ((Nat × Nat) × Out)) (h : ∀ o ∈ outs, o.2.goes = true ∧ o.1 ∈ s.site.all) :
    s.alike (outs.foldl (fun s o => s.settle i o.1 o.2) s) := by
  induction outs generalizing s with
  | nil => exact State.alike_refl s
  | cons o r ih =>
    have h1 := State.alike_settle s i o.1 o.2 (h o (by simp)).1 (h o (by simp)).2
    refine State.alike_trans h1 (ih _ fun x hx => ?_)
    rw [State.alike_site h1]
    exact h x (by simp [hx])

/-- The group that issues stands in its slot with its members among those of the site. -/
def State.groupHere (s : State) : Prop :=
  ∀ g, tget (s.core s.site.core).groups s.site.slot = some g → g.ctx = s.site.ctx ∧ ∀ m ∈ g.members, m ∈ s.site.all

theorem State.alike_dissolve (s : State) (h : s.groupHere) : s.alike (s.dissolve s.site.core s.site.slot) := by
  unfold State.dissolve
  split
  · exact State.alike_refl s
  · rename_i g hg
    obtain ⟨hc, hm⟩ := h g hg
    simp only [hc]
    refine State.alike_trans (State.alike_mapMembers s g.members _ hm fun a b c th => ?_)
      (State.alike_groups _ (tdel · s.site.slot) fun k hk t => tget_tdel_ne t hk)
    simp only [Thread.still, Thread.noLatches]
    split <;> simp_all

theorem State.alike_regroup (s : State) (h : s.groupHere) (broke left : Bool) :
    s.alike (s.regroup s.site.core s.site.slot broke left) := by
  have put : ∀ g' : Group, s.alike (s.modCore s.site.core fun c => { c with groups := tset c.groups s.site.slot g' }) :=
    fun g' => State.alike_groups s (tset · s.site.slot g') fun k hk t => tget_tset_ne t g' hk
  unfold State.regroup
  split
  · exact State.alike_refl s
  · rename_i g hg
    simp only
    split
    · exact State.alike_groups s (tdel · s.site.slot) fun k hk t => tget_tdel_ne t hk
    · split
      · exact State.alike_dissolve s h
      · have hg1 : (if broke = true then { g with dissolve := true } else g).ctx = g.ctx ∧
            (if broke = true then { g with dissolve := true } else g).members = g.members := by split <;> exact ⟨rfl, rfl⟩
        generalize (if broke = true then { g with dissolve := true } else g) = g1 at *
        split
        · exact put _
        · split
          · exact put _
          · split
            · exact State.alike_dissolve s h
            · split
              · exact put _
              · split
                · refine State.alike_trans (put g1) (State.alike_dissolve _ fun g' hg' => ?_)
                  obtain rfl : g1 = g' := by simpa using hg'
                  exact ⟨hg1.1.trans (h g hg).1, fun m hm => (h g hg).2 m (hg1.2 ▸ hm)⟩
                · exact put _

theorem Group.drop_members (g : Group) (f : Nat × Nat → Bool) : (g.drop f).ctx = g.ctx ∧ ∀ m ∈ (g.drop f).members, m ∈ g.members := by
  refine ⟨rfl, fun m hm => ?_⟩
  simp only [Group.drop, List.mem_map, List.mem_filter] at hm
  obtain ⟨x, ⟨hx, _⟩, rfl⟩ := hm
  exact (List.of_mem_zip hx).1

theorem State.groupHere_of_alike {s t : State} (h : s.groupHere) (ha : t.site = s.site)
    (hg : (t.core s.site.core).groups = (s.core s.site.core).groups) : t.groupHere := by
  intro g h'
  rw [ha] at h' ⊢
  exact h g (hg ▸ h')

/-- Settling members that go on leaves the groups as they are. -/
theorem State.settle_groups (s : State) (i : Instr) (m : Nat × Nat) (o : Out) (ho : o.goes = true) (g : Nat) :
    (s.settle i m o).core g = s.core g := by
  unfold State.settle
  simp only
  split
  · rfl
  · cases o <;> simp only [Out.goes, Bool.false_eq_true] at ho <;> rfl

theorem State.settleAll_groups (s : State) (i : Instr) (outs : List ((Nat × Nat) × Out)) (h : ∀ o ∈ outs, o.2.goes = true) (g : Nat) :
    (outs.foldl (fun s o => s.settle i o.1 o.2) s).core g = s.core g := by
  induction outs generalizing s with
  | nil => rfl
  | cons o r ih =>
    rw [List.foldl_cons, ih _ fun x hx => h x (by simp [hx])]
    exact State.settle_groups s i o.1 o.2 (h o (by simp)) g

/-- The end of an issue whose members all go on. -/
theorem State.alike_retire (s : State) (hs : s.groupHere) (i : Instr) (outs : List ((Nat × Nat) × Out))
    (h : ∀ o ∈ outs, o.2.goes = true ∧ o.1 ∈ s.site.all) : s.alike (s.retire i outs) := by
  have h1 := State.alike_settleAll s i outs h
  have hg := State.settleAll_groups s i outs (fun o ho => (h o ho).1) s.site.core
  have hsite := State.alike_site h1
  unfold State.retire
  simp only
  generalize outs.foldl (fun s o => s.settle i o.1 o.2) s = s1 at *
  let d : Group → Group := fun g => g.drop fun m => outs.any fun o => o.1 == m && o.2.leaves
  have h2 := State.alike_groups s1 (fun c => tmod c s.site.slot d) fun k hk t => tget_tmod_ne t d (by rwa [hsite] at hk)
  rw [hsite] at h2
  refine State.alike_trans h1 (State.alike_trans h2 ?_)
  have := State.alike_regroup (s1.modCore s.site.core fun c => { c with groups := tmod c.groups s.site.slot d }) ?_ (outs.any fun o => o.2.breaks) (outs.any fun o => o.2.returns)
  · simpa only [State.modCore_site, hsite] using this
  · intro g' hg'
    simp only [State.modCore_site, hsite, State.core_modCore, if_true, tget_tmod_self, Option.map_eq_some_iff] at hg' ⊢
    obtain ⟨g, hg0, rfl⟩ := hg'
    obtain ⟨hc, hm⟩ := hs g (hg ▸ hg0)
    have hd := Group.drop_members g fun m => outs.any fun o => o.1 == m && o.2.leaves
    exact ⟨hd.1.trans hc, fun m h' => hm m (hd.2 m h')⟩

theorem State.groupHere_of_sited (h : s.sited = true) : s.groupHere ∧ ∀ m ∈ s.site.members, m ∈ s.site.all := by
  obtain ⟨g, hg, h'⟩ := exists_of_any h
  rw [Bool.and_eq_true, beq_iff_eq, List.all_eq_true] at h'
  obtain ⟨hsite, hm⟩ := h'
  have hc : s.site.ctx = g.ctx := by rw [hsite]; rfl
  have ha : s.site.all = g.members := by rw [hsite]; rfl
  refine ⟨fun g' hg' => ?_, fun m h' => ha ▸ List.contains_iff_mem.mp (hm m h')⟩
  cases hg.symm.trans hg'
  exact ⟨hc.symm, fun m h' => ha ▸ h'⟩

/-- What `State.executes` says of a member. -/
theorem State.executes_elim {i : Instr} {m : Nat × Nat} (h : s.executes i m = true) :
    ∃ t th, s.member? m = some (t, th) ∧ th.run = .issuing ∧ wordFault i s.site th t.n = none := by
  obtain ⟨⟨t, th⟩, hm, h'⟩ := exists_of_any h
  rw [Bool.and_eq_true, beq_iff_eq, Option.isNone_iff_eq_none] at h'
  exact ⟨t, th, hm, h'.1, h'.2⟩

/-- What `State.ready` says. -/
theorem State.ready_elim {i : Instr} (h : s.ready i = true) :
    s.sited = true ∧ s.site.members.Nodup ∧ s.stalls i = false ∧ ∀ m ∈ s.site.members,
      ∃ t th, s.member? m = some (t, th) ∧ th.run = .issuing ∧ wordFault i s.site th t.n = none := by
  simp only [State.ready, Bool.and_eq_true, decide_eq_true_eq, Bool.not_eq_true', List.all_eq_true] at h
  exact ⟨h.1.1.1, h.1.1.2, h.1.2, fun m hm => State.executes_elim (h.2 m hm)⟩

/-! ## Issuing a word whose effect is confined to its own thread -/

theorem State.modThread_congr (s : State) (k : Key) {f g : Thread → Thread} (h : ∀ th, s.thread? k = some th → f th = g th) :
    s.modThread k f = s.modThread k g := by
  unfold State.modThread State.modTeam State.modCtx
  congr 1
  refine tmod_congr fun x hx => ?_
  congr 1
  refine tmod_congr fun t ht => ?_
  congr 1
  refine tmod_congr fun th hth => h th ?_
  simp [State.thread?, State.team?, State.ctx?, hx, ht, hth]

theorem State.key_inj {s : State} {m n : Nat × Nat} (h : s.key m = s.key n) : m = n := by
  cases m; cases n; simp_all [State.key]

/-- Changing members by what each was before is changing each in turn. -/
theorem State.onMembers_eq (s : State) (ms : List (Nat × Nat)) (hn : ms.Nodup) (f : Nat × Nat → Thread → Thread) (g : Thread → Thread)
    (u : State) (h : ∀ m ∈ ms, ∀ th, u.thread? (s.key m) = some th → f m th = g th) :
    ms.foldl (fun u m => u.modThread (s.key m) (f m)) u = ms.foldl (fun u m => u.modThread (s.key m) g) u := by
  induction ms generalizing u with
  | nil => rfl
  | cons m r ih =>
    rw [List.foldl_cons, List.foldl_cons, State.modThread_congr u (s.key m) (h m (by simp))]
    refine ih (List.nodup_cons.mp hn).2 _ fun n hnr th hth => h n (by simp [hnr]) th ?_
    rwa [State.thread?_modThread, if_neg] at hth
    intro he
    exact (List.nodup_cons.mp hn).1 (State.key_inj he ▸ hnr)

theorem State.foldl_modThread_site (s : State) (ms : List α) (k : α → Key) (f : α → Thread → Thread) :
    (ms.foldl (fun u m => u.modThread (k m) (f m)) s).site = s.site ∧ (ms.foldl (fun u m => u.modThread (k m) (f m)) s).cores = s.cores := by
  induction ms generalizing s with
  | nil => exact ⟨rfl, rfl⟩
  | cons m r ih => exact ih (s.modThread (k m) (f m))

/-- The members of a word that is ready, with their threads. -/
theorem State.ready_members (s : State) (i : Instr) (ms : List (Nat × Nat)) (h : ∀ m ∈ ms, ∃ t th, s.member? m = some (t, th) ∧ th.run = .issuing ∧ wordFault i s.site th t.n = none) (F : Team → Thread → β) :
    ∃ ths : Nat × Nat → Team × Thread, (∀ m ∈ ms, s.member? m = some (ths m)) ∧
      (ms.filterMap fun m => (s.member? m).map fun x => (m, F x.1 x.2)) = ms.map fun m => (m, F (ths m).1 (ths m).2) := by
  induction ms with
  | nil => exact ⟨fun _ => ⟨⟨0, 0, 0, 0, 0, 0, 0, [], [], [], 0, [], 0, [], none, none, ConstSpace.none, false⟩, probeThread CtxRegs.reset⟩, by simp, rfl⟩
  | cons m r ih =>
    obtain ⟨ths, h1, h2⟩ := ih fun n hn => h n (by simp [hn])
    obtain ⟨t, th, hm, _⟩ := h m (by simp)
    refine ⟨fun n => (s.member? n).getD (ths n), fun n hn => ?_, ?_⟩
    · obtain ⟨t', th', hm', _⟩ := h n hn
      simp [hm']
    · rw [List.filterMap_cons, hm]
      simp only [Option.map_some, List.map_cons, hm, Option.getD_some, h2, List.cons.injEq, true_and]
      refine List.map_congr_left fun n hn => ?_
      simp [h1 n hn]

theorem State.issueLocal_goes (s : State) (i : Instr) (f : Thread → Eff) (h : s.ready i = true)
    (hf : ∀ m ∈ s.site.members, ∀ t th, s.member? m = some (t, th) → (f th).out.goes = true) :
    ∃ n, ((s.onMembers fun th => th.apply s.site (f th)).clamped n).alike (s.issueLocal i f) ∧
      n = ((s.site.members.filterMap fun m => (s.member? m).map fun x => (f x.2).sat)).sum := by
  obtain ⟨hsite, hn, hst, hex⟩ := State.ready_elim h
  obtain ⟨hgh, hall⟩ := State.groupHere_of_sited hsite
  obtain ⟨ths, hths, heff⟩ := State.ready_members s i s.site.members hex (effOf i s.site f)
  have he : ∀ m ∈ s.site.members, effOf i s.site f (ths m).1 (ths m).2 = f (ths m).2 := fun m hm => by
    obtain ⟨t, th, h1, _, h2⟩ := hex m hm
    have e : ths m = (t, th) := Option.some.inj ((hths m hm).symm.trans h1)
    simp only [effOf, e, h2]
  have hsat : (s.site.members.filterMap fun m => (s.member? m).map fun x => (f x.2).sat) = s.site.members.map fun m => (f (ths m).2).sat := by
    generalize s.site.members = ms at hths
    clear heff he hn hall hex hf
    induction ms with
    | nil => rfl
    | cons m r ih => simp [hths m (by simp), ih fun n hn => hths n (by simp [hn])]
  refine ⟨_, ?_, rfl⟩
  rw [hsat]
  unfold State.issueLocal
  simp only [hst, Bool.false_eq_true, if_false, heff, List.foldl_map, List.map_map, Function.comp_def]
  have hon : s.site.members.foldl (fun u m => u.modThread ⟨s.site.ctx, m.1, m.2⟩ (·.apply s.site (effOf i s.site f (ths m).1 (ths m).2))) s =
      s.onMembers fun th => th.apply s.site (f th) := by
    refine State.onMembers_eq s _ hn _ _ s fun m hm th hth => ?_
    have e : s.thread? (s.key m) = some (ths m).2 := (State.member?_eq s m (ths m).1 (ths m).2 (hths m hm)).2.2
    rw [hth] at e
    rw [he m hm, Option.some.inj e]
  rw [hon, List.map_congr_left fun m hm => congrArg Eff.sat (he m hm), List.map_congr_left fun m hm => congrArg (fun e => (m, Eff.out e)) (he m hm)]
  have hs2 := State.foldl_modThread_site s s.site.members s.key fun _ th => th.apply s.site (f th)
  have hsite' : ((s.onMembers fun th => th.apply s.site (f th)).clamped ((s.site.members.map fun m => (f (ths m).2).sat).sum)).site = s.site := hs2.1
  have hctx : (s.onMembers fun th => th.apply s.site (f th)).site.ctx = s.site.ctx := congrArg Site.ctx hs2.1
  have key := State.alike_retire ((s.onMembers fun th => th.apply s.site (f th)).clamped ((s.site.members.map fun m => (f (ths m).2).sat).sum))
    (fun g hg => by
      have hcore : ∀ c, State.core ((s.onMembers fun th => th.apply s.site (f th)).clamped ((s.site.members.map fun m => (f (ths m).2).sat).sum)) c = s.core c := by
        intro c
        show (tget (s.onMembers _).cores c).getD Core.reset = _
        rw [show (s.onMembers fun th => th.apply s.site (f th)).cores = s.cores from hs2.2]
        rfl
      rw [hsite', hcore] at hg
      rw [hsite']
      exact hgh g hg) i (s.site.members.map fun m => (m, (f (ths m).2).out)) ?_
  · simpa only [State.clamped, hctx] using key
  · intro o ho
    obtain ⟨m, hm, rfl⟩ := List.mem_map.mp ho
    rw [hsite']
    exact ⟨hf m hm _ _ (hths m hm), hall m hm⟩

/-! ## Issuing a word that one member executes -/

theorem State.issueEach_one (s : State) (i : Instr) (f : State → Key → Team → Thread → State × Out) {m : Nat × Nat} {t : Team}
    {th : Thread} (h : s.readyOne i m t th) :
    s.issueEach i f = (f s (s.key m) t th).1.retire i [(m, (f s (s.key m) t th).2)] := by
  obtain ⟨hr, hms, hm⟩ := h
  obtain ⟨_, _, hst, hex⟩ := State.ready_elim hr
  obtain ⟨t', th', h1, hi, hw⟩ := hex m (by simp [hms])
  obtain ⟨rfl, rfl⟩ : t' = t ∧ th' = th := by simpa [h1] using hm
  unfold State.issueEach
  simp only [hst, Bool.false_eq_true, if_false, hms, List.foldl_cons, List.foldl_nil, h1, hi, hw, reduceCtorEq, List.nil_append,
    State.key]

theorem State.retire_one (s : State) (i : Instr) (m : Nat × Nat) (o : Out) (hs : s.groupHere)
    (h1 : (s.settle i m o).site = s.site) (h2 : ((s.settle i m o).core s.site.core).groups = (s.core s.site.core).groups) :
    (s.settle i m o).alike (s.retire i [(m, o)]) := by
  unfold State.retire
  simp only [List.foldl_cons, List.foldl_nil]
  generalize s.settle i m o = s1 at *
  let d : Group → Group := fun g => g.drop fun n => [(m, o)].any fun o => o.1 == n && o.2.leaves
  have a1 := State.alike_groups s1 (fun c => tmod c s.site.slot d) fun k hk t => tget_tmod_ne t d (by rwa [h1] at hk)
  rw [h1] at a1
  refine State.alike_trans a1 ?_
  have := State.alike_regroup (s1.modCore s.site.core fun c => { c with groups := tmod c.groups s.site.slot d }) ?_
    ([(m, o)].any fun o => o.2.breaks) ([(m, o)].any fun o => o.2.returns)
  · simpa only [State.modCore_site, h1] using this
  · intro g' hg'
    simp only [State.modCore_site, h1, State.core_modCore, if_true, tget_tmod_self, Option.map_eq_some_iff] at hg' ⊢
    obtain ⟨g, hg0, rfl⟩ := hg'
    obtain ⟨hc, hm⟩ := hs g (h2 ▸ hg0)
    have hd := Group.drop_members g fun n => [(m, o)].any fun o => o.1 == n && o.2.leaves
    exact ⟨hd.1.trans hc, fun n h' => hm n (hd.2 n h')⟩

/-- A word that one member executes and goes on from. -/
theorem State.issueEach_goes (s : State) (i : Instr) (f : State → Key → Team → Thread → State × Out) {m : Nat × Nat} {t : Team}
    {th : Thread} (h : s.readyOne i m t th) {u : State} {o : Out} (hf : f s (s.key m) t th = (u, o)) (ho : o.goes = true)
    (hsite : u.site = s.site) (hg : (u.core s.site.core).groups = (s.core s.site.core).groups) : u.alike (s.issueEach i f) := by
  rw [State.issueEach_one s i f h, hf]
  obtain ⟨h1, h2⟩ := State.groupHere_of_sited (State.ready_elim h.1).1
  refine State.alike_retire u (State.groupHere_of_alike h1 hsite hg) i _ fun x hx => ?_
  obtain rfl := List.mem_singleton.mp hx
  exact ⟨ho, hsite ▸ h2 m (by simp [h.2.1])⟩

/-! ## Members that leave -/

theorem tmod_id {α : Type} {t : Tab α} {k : Nat} {f : α → α} (h : ∀ v, tget t k = some v → f v = v) : tmod t k f = t := by
  induction t with
  | nil => rfl
  | cons e r ih =>
    obtain ⟨j, w⟩ := e
    by_cases hk : k = j
    · simp [tmod, hk, h w (by simp [tget, hk])]
    · simp only [tmod, if_neg hk]
      rw [ih fun v hv => h v (by simpa [tget, hk] using hv)]

theorem State.thread?_mapMembers (s : State) (c : Nat) (ms : List (Nat × Nat)) (f : Nat → Team → Nat → Thread → Thread) (k : Key)
    (h : k.ctx ≠ c ∨ ms.contains (k.tslot, k.tid) = false) : (s.mapMembers c ms f).thread? k = s.thread? k := by
  unfold State.thread? State.team? State.mapMembers
  rw [State.ctx?_modCtx]
  split
  · rename_i hc
    cases s.ctx? k.ctx with
    | none => rfl
    | some x =>
      simp only [Option.map_some, Option.bind_some, tget_tmap]
      cases tget x.teams k.tslot with
      | none => rfl
      | some t =>
        simp only [Option.map_some, Option.bind_some, tget_tmap, h.resolve_left (· hc), Bool.false_eq_true, if_false]
        cases tget t.threads k.tid <;> rfl
  · rfl

theorem State.dissolve_thread? (s : State) (core slot : Nat) (k : Key)
    (h : ∀ g, tget (s.core core).groups slot = some g → k.ctx ≠ g.ctx ∨ g.members.contains (k.tslot, k.tid) = false) :
    (s.dissolve core slot).thread? k = s.thread? k := by
  unfold State.dissolve
  split
  · rfl
  · rename_i g hg
    exact State.thread?_mapMembers s g.ctx g.members _ k (h g hg)

theorem State.regroup_thread? (s : State) (core slot : Nat) (broke left : Bool) (k : Key)
    (h : ∀ g, tget (s.core core).groups slot = some g → k.ctx ≠ g.ctx ∨ g.members.contains (k.tslot, k.tid) = false) :
    (s.regroup core slot broke left).thread? k = s.thread? k := by
  unfold State.regroup
  split
  · rfl
  · rename_i g hg
    simp only
    split
    · rfl
    · split
      · exact State.dissolve_thread? s core slot k h
      · have hg1 : (if broke = true then { g with dissolve := true } else g).ctx = g.ctx ∧
            (if broke = true then { g with dissolve := true } else g).members = g.members := by split <;> exact ⟨rfl, rfl⟩
        generalize (if broke = true then { g with dissolve := true } else g) = g1 at *
        split
        · rfl
        · split
          · rfl
          · split
            · exact State.dissolve_thread? s core slot k h
            · split
              · rfl
              · split
                · refine State.dissolve_thread? _ core slot k fun g' hg' => ?_
                  obtain rfl : g1 = g' := by simpa using hg'
                  rw [hg1.1, hg1.2]
                  exact h g hg
                · rfl

theorem Group.drop_not_mem (g : Group) (f : Nat × Nat → Bool) (m : Nat × Nat) (h : f m = true) : (g.drop f).members.contains m = false := by
  rw [Bool.eq_false_iff, Ne, List.contains_iff_mem]
  simp only [Group.drop, List.mem_map, List.mem_filter, not_exists, not_and]
  rintro x ⟨_, hx⟩ rfl
  simp [h] at hx

/-- A member that leaves stands as it was settled. -/
theorem State.retire_left (s : State) (i : Instr) (m : Nat × Nat) (o : Out) (ho : o.leaves = true) :
    (s.retire i [(m, o)]).thread? (s.key m) = (s.settle i m o).thread? (s.key m) := by
  unfold State.retire
  simp only [List.foldl_cons, List.foldl_nil]
  rw [State.regroup_thread?, State.thread?_modCore]
  intro g hg
  rw [State.core_modCore, if_pos rfl] at hg
  simp only [tget_tmod_self, Option.map_eq_some_iff] at hg
  obtain ⟨g0, _, rfl⟩ := hg
  exact .inr (Group.drop_not_mem g0 _ m (by simp [ho]))

/-! ## Where a member stands after an issue -/

theorem State.mapMembers_thread? (s : State) (c : Nat) (ms : List (Nat × Nat)) (f : Thread → Thread) (k : Key) {x : Thread}
    (h : (s.mapMembers c ms fun _ _ _ th => f th).thread? k = some x) : ∃ y, s.thread? k = some y ∧ (x = y ∨ x = f y) := by
  unfold State.thread? State.team? State.mapMembers at h
  unfold State.thread? State.team?
  rw [State.ctx?_modCtx] at h
  split at h
  · cases hx : s.ctx? k.ctx with
    | none => simp [hx] at h
    | some c' =>
      simp only [hx, Option.map_some, Option.bind_some, tget_tmap] at h ⊢
      cases ht : tget c'.teams k.tslot with
      | none => simp [ht] at h
      | some t =>
        simp only [ht, Option.map_some, Option.bind_some, tget_tmap] at h ⊢
        cases hth : tget t.threads k.tid with
        | none => simp [hth] at h
        | some y =>
          simp only [hth, Option.map_some, Option.some.injEq] at h
          refine ⟨y, rfl, ?_⟩
          split at h
          · exact .inr h.symm
          · exact .inl h.symm
  · exact ⟨x, h, .inl rfl⟩

/-- Standing where it stood, or at the start of the same clause. -/
def PC.orStart (p q : PC) : Prop := p = q ∨ p = { q with wi := 0 }

theorem interruptedPC_orStart (g : Group) (pc : PC) (r : BitVec 6) : (interruptedPC g pc r).orStart pc := by
  unfold interruptedPC
  split
  · exact .inr rfl
  · exact .inl rfl

theorem State.dissolve_pc (s : State) (core slot : Nat) (k : Key) {x : Thread} (h : (s.dissolve core slot).thread? k = some x) :
    ∃ y, s.thread? k = some y ∧ x.pc.orStart y.pc ∧ x.regs = y.regs := by
  unfold State.dissolve at h
  split at h
  · exact ⟨x, h, .inl rfl, rfl⟩
  · rename_i g _
    rw [State.thread?_modCore] at h
    obtain ⟨y, hy, hx⟩ := State.mapMembers_thread? s g.ctx g.members _ k h
    refine ⟨y, hy, ?_⟩
    rcases hx with rfl | rfl
    · exact ⟨.inl rfl, rfl⟩
    · have key : ∀ a : Thread, (if a.run = .issuing then { a with run := .runnable } else a).pc = a.pc ∧
          (if a.run = .issuing then { a with run := .runnable } else a).regs = a.regs := by
        intro a
        split <;> exact ⟨rfl, rfl⟩
      exact ⟨(congrArg (PC.orStart · y.pc) (key _).1).mpr (interruptedPC_orStart g y.pc y.repidx), (key _).2⟩

theorem State.regroup_pc (s : State) (core slot : Nat) (broke left : Bool) (k : Key) {x : Thread}
    (h : (s.regroup core slot broke left).thread? k = some x) : ∃ y, s.thread? k = some y ∧ x.pc.orStart y.pc ∧ x.regs = y.regs := by
  have same : ∀ f : Core → Core, (s.modCore core f).thread? k = some x → ∃ y, s.thread? k = some y ∧ x.pc.orStart y.pc ∧ x.regs = y.regs :=
    fun f hu => ⟨x, by rw [← hu, State.thread?_modCore], .inl rfl, rfl⟩
  unfold State.regroup at h
  split at h
  · exact ⟨x, h, .inl rfl, rfl⟩
  · rename_i g _
    simp only at h
    split at h
    · exact same _ h
    · split at h
      · exact State.dissolve_pc s core slot k h
      · generalize (if broke = true then { g with dissolve := true } else g) = g1 at h
        split at h
        · exact same _ h
        · split at h
          · exact same _ h
          · split at h
            · exact State.dissolve_pc s core slot k h
            · split at h
              · exact same _ h
              · split at h
                · obtain ⟨y, hy, hx⟩ := State.dissolve_pc _ core slot k h
                  exact ⟨y, by rw [← hy, State.thread?_modCore], hx⟩
                · exact same _ h

/-- A member's place after an issue is where it was settled, or the start of the same clause. -/
theorem State.retire_pc (s : State) (i : Instr) (m : Nat × Nat) (o : Out) (k : Key) {x : Thread}
    (h : (s.retire i [(m, o)]).thread? k = some x) :
    ∃ y, (s.settle i m o).thread? k = some y ∧ x.pc.orStart y.pc ∧ x.regs = y.regs := by
  unfold State.retire at h
  simp only [List.foldl_cons, List.foldl_nil] at h
  obtain ⟨y, hy, hx⟩ := State.regroup_pc _ _ _ _ _ k h
  exact ⟨y, by rw [← hy, State.thread?_modCore], hx⟩

/-- Threads that exist go on existing. -/
theorem State.alike_thread? {k : Key} {th : Thread} (h : s.alike t) (hk : s.thread? k = some th) :
    ∃ x, t.thread? k = some x ∧ (x.still = th.still ∨ x = th) := by
  have hst := h.2.2.1
  have hsite := State.alike_site h
  have e1 : ({ t with ctxs := t.stood } : State).thread? k = ({ s with ctxs := s.stood } : State).thread? k := by
    unfold State.thread? State.team? State.ctx?
    simp only [hst]
  have lhs : ∀ u : State, ({ u with ctxs := u.stood } : State).thread? k =
      (u.mapMembers u.site.ctx u.site.all fun _ _ _ th => th.still).thread? k := fun _ => rfl
  rw [lhs, lhs, hsite] at e1
  have fwd : ∀ u : State, u.thread? k = some th → ∃ y, (u.mapMembers s.site.ctx s.site.all fun _ _ _ th => th.still).thread? k = some y ∧
      (y = th ∨ y = th.still) := by
    intro u hu
    cases hy : (u.mapMembers s.site.ctx s.site.all fun _ _ _ th => th.still).thread? k with
    | some y =>
      obtain ⟨z, hz, hyz⟩ := State.mapMembers_thread? u s.site.ctx s.site.all Thread.still k hy
      obtain rfl : th = z := Option.some.inj (hu.symm.trans hz)
      exact ⟨y, rfl, hyz⟩
    | none =>
      exfalso
      unfold State.thread? State.team? State.mapMembers at hy
      unfold State.thread? State.team? at hu
      rw [State.ctx?_modCtx] at hy
      split at hy
      · cases hx : u.ctx? k.ctx with
        | none => simp [hx] at hu
        | some c =>
          simp only [hx, Option.map_some, Option.bind_some, tget_tmap] at hy hu
          cases ht : tget c.teams k.tslot with
          | none => simp [ht] at hu
          | some tm =>
            simp only [ht, Option.map_some, Option.bind_some, tget_tmap] at hy hu
            simp [hu] at hy
      · simp_all
  obtain ⟨y, hy, hyth⟩ := fwd s hk
  rw [← e1] at hy
  obtain ⟨x, hx, hxy⟩ := State.mapMembers_thread? t s.site.ctx s.site.all Thread.still k hy
  refine ⟨x, hx, ?_⟩
  have still_still : ∀ z : Thread, z.still.still = z.still := by
    intro z
    cases hz : z.run <;> simp [Thread.still, Thread.noLatches, hz]
  rcases hxy with rfl | rfl <;> rcases hyth with e | e
  · exact .inr e
  · exact .inl (by rw [e, still_still])
  · exact .inl (by rw [← e, still_still])
  · exact .inl e

end Sys2Proof.Machine
end

