-- ==== Sys2Proof/Laws/Local.lean ====
section
/-! SUPPORT. What a word whose effect is confined to its own thread does: one lemma for each shape of result. -/

namespace Sys2Proof.Machine

/-- Registers are written before anything else of a thread changes. -/
theorem Thread.writes_pair (th : Thread) (r : Nat) (v : Pair) :
    th.writes (pairWrites r v) = if r = 0 then th else (th.set r (loWord v)).set (r + 1) (hiWord v) := by
  unfold pairWrites
  split <;> rfl

theorem Thread.set_flags (th : Thread) (r : Nat) (v : Word) : (th.set r v).flags = th.flags := by
  unfold Thread.set
  split <;> rfl

theorem Thread.writes_flags (th : Thread) (ws : List (Nat × Word)) : (th.writes ws).flags = th.flags := by
  induction ws generalizing th with
  | nil => rfl
  | cons w r ih => exact (ih (th.set w.1 w.2)).trans (Thread.set_flags th w.1 w.2)

/-- The effect of a word with register writes, a latch and flags, its registers first. -/
theorem Thread.apply_eq (th : Thread) (st : Site) (e : Eff) : th.apply st e =
    let t := match e.latch with
      | some w => if st.cls.latched then { th.writes e.regs with latches := (th.writes e.regs).latches.setIfInBounds st.latch (.value w) }
          else th.writes e.regs
      | none => th.writes e.regs
    { t with flags := t.flags ||| e.flags } := by
  unfold Thread.apply
  cases e.latch with
  | none => simp only [Thread.writes_flags]
  | some w => cases st.cls.latched <;> simp only [Thread.writes_flags, Bool.false_eq_true, if_false, if_true]

theorem Thread.flags_or_zero (th : Thread) : { th with flags := th.flags ||| 0 } = th := by
  have : th.flags ||| 0 = th.flags := by simp
  rw [this]

theorem Thread.apply_res32 (th : Thread) (st : Site) (d : Dst) (v : Word) :
    th.apply st (res32 st.rep th d v) = th.gotWord st d v := by
  rw [Thread.apply_eq]
  refine (Thread.flags_or_zero _).trans ?_
  unfold res32 Thread.gotWord dst32
  cases d.nw <;> rfl

theorem Thread.apply_res64 (th : Thread) (st : Site) (d : Dst) (v : Pair) :
    th.apply st (res64 st.rep th d v) = th.gotPair st d v := by
  rw [Thread.apply_eq]
  refine (Thread.flags_or_zero _).trans ?_
  unfold res64 Thread.gotPair dst64
  cases d.nw
  · simp only [Bool.false_eq_true, if_false, Thread.writes_pair, Bool.false_or, beq_iff_eq]
  · rfl

/-- A delivered result of one or two registers. -/
theorem Thread.apply_resCond (th : Thread) (st : Site) (d : Dst) (words : Nat) (r : FRes) (h : r.delivered th.view.fpctl = true) :
    th.apply st (resCond st.rep th st.w0 d words r) = th.gotResult st d words r ∧ (resCond st.rep th st.w0 d words r).out = .next ∧
      (resCond st.rep th st.w0 d words r).sat = r.sat := by
  have hd : ∀ regs latch, deliver th.view.fpctl st.w0 r.flags r.sat r.trap regs latch = ⟨regs, latch, r.flags, r.sat, .next⟩ := by
    intro regs latch
    simp only [FRes.delivered, Bool.and_eq_true, Option.isNone_iff_eq_none, beq_iff_eq] at h
    have he : enabledTrap th.view.fpctl r.flags = none := by
      unfold enabledTrap
      rw [Option.map_eq_none_iff, List.find?_eq_none]
      intro k hk
      have hk6 : k < 6 := List.mem_range.mp hk
      have := congrArg (fun x : BitVec 6 => x.getLsbD k) h.2
      simpa [hk6] using this
    simp [deliver, h.1, he]
  unfold resCond Thread.gotResult
  split
  · rename_i hw
    rw [hd]
    refine ⟨?_, rfl, rfl⟩
    rw [Thread.apply_eq]
    unfold Thread.gotPair dst64
    cases d.nw
    · simp only [Bool.false_eq_true, if_false, Thread.writes_pair, Bool.false_or, beq_iff_eq]
    · rfl
  · rw [hd]
    refine ⟨?_, rfl, rfl⟩
    rw [Thread.apply_eq]
    unfold Thread.gotWord dst32
    cases d.nw <;> rfl

theorem satAdd_zero (w : Word) : satAdd w 0 = w := by
  have := w.isLt
  have h : min (w.toNat + 0) 0xFFFFFFFF = w.toNat := by omega
  rw [satAdd, h]
  simp

theorem State.clamped_zero (s : State) : s.clamped 0 = s := by
  unfold State.clamped State.modCtx
  have : tmod s.ctxs s.site.ctx (fun c => { c with satcount := satAdd c.satcount 0 }) = s.ctxs :=
    tmod_id fun c _ => by rw [satAdd_zero]
  rw [this]

theorem sum_filterMap_zero {α β : Type} (l : List α) (f : α → Option β) (g : β → Nat) (h : ∀ b, g b = 0) :
    ((l.filterMap fun m => (f m).map g)).sum = 0 := by
  induction l with
  | nil => rfl
  | cons a r ih =>
    cases hf : f a <;> simp [hf, ih, h]

/-- A word with a 32-bit result and no condition. -/
theorem State.word_next (s : State) (i : Instr) (d : Dst) (v : Thread → Word) (h : s.ready i = true) :
    (s.onMembers fun th => th.gotWord s.site d (v th)).alike (s.issueLocal i fun th => res32 s.site.rep th d (v th)) := by
  obtain ⟨n, ha, hn⟩ := State.issueLocal_goes s i (fun th => res32 s.site.rep th d (v th)) h fun _ _ _ _ _ => rfl
  rw [sum_filterMap_zero s.site.members s.member? (fun x => (res32 s.site.rep x.2 d (v x.2)).sat) fun _ => rfl] at hn
  subst hn
  simpa only [State.clamped_zero, Thread.apply_res32] using ha

/-- A word with a 64-bit result and no condition. -/
theorem State.pair_next (s : State) (i : Instr) (d : Dst) (v : Thread → Pair) (h : s.ready i = true) :
    (s.onMembers fun th => th.gotPair s.site d (v th)).alike (s.issueLocal i fun th => res64 s.site.rep th d (v th)) := by
  obtain ⟨n, ha, hn⟩ := State.issueLocal_goes s i (fun th => res64 s.site.rep th d (v th)) h fun _ _ _ _ _ => rfl
  rw [sum_filterMap_zero s.site.members s.member? (fun x => (res64 s.site.rep x.2 d (v x.2)).sat) fun _ => rfl] at hn
  subst hn
  simpa only [State.clamped_zero, Thread.apply_res64] using ha

/-- A word whose result may meet conditions, none of which keeps it back. -/
theorem State.cond_next (s : State) (i : Instr) (d : Dst) (words : Nat) (f : Thread → FRes) (h : s.ready i = true)
    (hf : ∀ m ∈ s.site.members, ∀ t th, s.member? m = some (t, th) → (f th).delivered th.view.fpctl = true) :
    ((s.onMembers fun th => th.gotResult s.site d words (f th)).clamped (s.clamps f)).alike
      (s.issueLocal i fun th => resCond s.site.rep th s.site.w0 d words (f th)) := by
  have hr := (State.ready_elim h).2
  obtain ⟨n, ha, hn⟩ := State.issueLocal_goes s i (fun th => resCond s.site.rep th s.site.w0 d words (f th)) h fun m hm t th ht => by
    rw [(Thread.apply_resCond th s.site d words (f th) (hf m hm t th ht)).2.1]
    rfl
  have hon : (s.onMembers fun th => th.apply s.site (resCond s.site.rep th s.site.w0 d words (f th))) =
      s.onMembers fun th => th.gotResult s.site d words (f th) := by
    refine State.onMembers_eq s s.site.members hr.1 _ _ s fun m hm th hth => ?_
    obtain ⟨t, th', hm', _⟩ := hr.2.2 m hm
    have e := (State.member?_eq s m t th' hm').2.2
    obtain rfl : th' = th := Option.some.inj (e.symm.trans hth)
    exact (Thread.apply_resCond th' s.site d words (f th') (hf m hm t th' hm')).1
  have hsum : n = s.clamps f := by
    rw [hn]
    unfold State.clamps
    congr 1
    have hx : ∀ m ∈ s.site.members, (s.member? m).map (fun x => (resCond s.site.rep x.2 s.site.w0 d words (f x.2)).sat) =
        (s.member? m).map fun x => (f x.2).sat := fun m hm => by
      obtain ⟨t, th', hm', _⟩ := hr.2.2 m hm
      rw [hm']
      exact congrArg some (Thread.apply_resCond th' s.site d words (f th') (hf m hm t th' hm')).2.2
    generalize s.site.members = ms at hx
    clear hn ha hon hf hr h
    induction ms with
    | nil => rfl
    | cons m r ih => simp only [List.filterMap_cons, hx m (by simp), ih fun a ha => hx a (by simp [ha])]
  rw [hon, hsum] at ha
  exact ha

end Sys2Proof.Machine
end

