-- ==== Sys2Proof/Laws/PerInstr.lean ====
section
/-! SUPPORT. Laws made per instruction. Words: an instruction has one word where its opcode is below 0x80 and two where it is not
(03 R63), whatever its operands; an event has none. -/

namespace Sys2Proof.Laws.Words

/-- The number of words of an instruction's encoding is what its opcode says (03 R63). -/
def Statement (i : Instr) : Prop := ∀ op, Machine.opcode i = some op → (encode i).length = if op < 0x80 then 1 else 2

theorem nop : Statement (.nop) := by rintro op ⟨⟩; rfl
theorem mov (d : Dst) (a : Sel) : Statement (.mov d a) := by rintro op ⟨⟩; rfl
theorem add (d : Dst) (a b : Sel) : Statement (.add d a b) := by rintro op ⟨⟩; rfl
theorem sub (d : Dst) (a b : Sel) : Statement (.sub d a b) := by rintro op ⟨⟩; rfl
theorem mullo (d : Dst) (a b : Sel) : Statement (.mullo d a b) := by rintro op ⟨⟩; rfl
theorem mulhi (d : Dst) (a b : Sel) : Statement (.mulhi d a b) := by rintro op ⟨⟩; rfl
theorem mulhiu (d : Dst) (a b : Sel) : Statement (.mulhiu d a b) := by rintro op ⟨⟩; rfl
theorem and (d : Dst) (a b : Sel) : Statement (.and d a b) := by rintro op ⟨⟩; rfl
theorem or (d : Dst) (a b : Sel) : Statement (.or d a b) := by rintro op ⟨⟩; rfl
theorem xor (d : Dst) (a b : Sel) : Statement (.xor d a b) := by rintro op ⟨⟩; rfl
theorem andn (d : Dst) (a b : Sel) : Statement (.andn d a b) := by rintro op ⟨⟩; rfl
theorem shl (d : Dst) (a b : Sel) : Statement (.shl d a b) := by rintro op ⟨⟩; rfl
theorem shr (d : Dst) (a b : Sel) : Statement (.shr d a b) := by rintro op ⟨⟩; rfl
theorem sar (d : Dst) (a b : Sel) : Statement (.sar d a b) := by rintro op ⟨⟩; rfl
theorem rol (d : Dst) (a b : Sel) : Statement (.rol d a b) := by rintro op ⟨⟩; rfl
theorem min (d : Dst) (a b : Sel) : Statement (.min d a b) := by rintro op ⟨⟩; rfl
theorem max (d : Dst) (a b : Sel) : Statement (.max d a b) := by rintro op ⟨⟩; rfl
theorem minu (d : Dst) (a b : Sel) : Statement (.minu d a b) := by rintro op ⟨⟩; rfl
theorem maxu (d : Dst) (a b : Sel) : Statement (.maxu d a b) := by rintro op ⟨⟩; rfl
theorem slt (d : Dst) (a b : Sel) : Statement (.slt d a b) := by rintro op ⟨⟩; rfl
theorem sltu (d : Dst) (a b : Sel) : Statement (.sltu d a b) := by rintro op ⟨⟩; rfl
theorem seq (d : Dst) (a b : Sel) : Statement (.seq d a b) := by rintro op ⟨⟩; rfl
theorem absd (d : Dst) (a b : Sel) : Statement (.absd d a b) := by rintro op ⟨⟩; rfl
theorem clz (d : Dst) (a : Sel) : Statement (.clz d a) := by rintro op ⟨⟩; rfl
theorem ffs (d : Dst) (a : Sel) : Statement (.ffs d a) := by rintro op ⟨⟩; rfl
theorem popc (d : Dst) (a : Sel) : Statement (.popc d a) := by rintro op ⟨⟩; rfl
theorem brev (d : Dst) (a : Sel) : Statement (.brev d a) := by rintro op ⟨⟩; rfl
theorem addi (d : Dst) (a : Sel) (imm : BitVec 8) : Statement (.addi d a imm) := by rintro op ⟨⟩; rfl
theorem shli (d : Dst) (a : Sel) (imm : BitVec 8) : Statement (.shli d a imm) := by rintro op ⟨⟩; rfl
theorem shri (d : Dst) (a : Sel) (imm : BitVec 8) : Statement (.shri d a imm) := by rintro op ⟨⟩; rfl
theorem sari (d : Dst) (a : Sel) (imm : BitVec 8) : Statement (.sari d a imm) := by rintro op ⟨⟩; rfl
theorem andi (d : Dst) (a : Sel) (imm : BitVec 8) : Statement (.andi d a imm) := by rintro op ⟨⟩; rfl
theorem lea (d : Dst) (a b : Sel) : Statement (.lea d a b) := by rintro op ⟨⟩; rfl
theorem rqadd (d : Dst) (a b : Sel) : Statement (.rqadd d a b) := by rintro op ⟨⟩; rfl
theorem rqsub (d : Dst) (a b : Sel) : Statement (.rqsub d a b) := by rintro op ⟨⟩; rfl
theorem rqmul (d : Dst) (a b : Sel) : Statement (.rqmul d a b) := by rintro op ⟨⟩; rfl
theorem rqdec (d : Dst) (a : Sel) : Statement (.rqdec d a) := by rintro op ⟨⟩; rfl
theorem fadd (d : Dst) (a b : Sel) : Statement (.fadd d a b) := by rintro op ⟨⟩; rfl
theorem fsub (d : Dst) (a b : Sel) : Statement (.fsub d a b) := by rintro op ⟨⟩; rfl
theorem fmul (d : Dst) (a b : Sel) : Statement (.fmul d a b) := by rintro op ⟨⟩; rfl
theorem fmin (d : Dst) (a b : Sel) : Statement (.fmin d a b) := by rintro op ⟨⟩; rfl
theorem fmax (d : Dst) (a b : Sel) : Statement (.fmax d a b) := by rintro op ⟨⟩; rfl
theorem fslt (d : Dst) (a b : Sel) : Statement (.fslt d a b) := by rintro op ⟨⟩; rfl
theorem fsle (d : Dst) (a b : Sel) : Statement (.fsle d a b) := by rintro op ⟨⟩; rfl
theorem fseq (d : Dst) (a b : Sel) : Statement (.fseq d a b) := by rintro op ⟨⟩; rfl
theorem fsun (d : Dst) (a b : Sel) : Statement (.fsun d a b) := by rintro op ⟨⟩; rfl
theorem fneg (d : Dst) (a : Sel) : Statement (.fneg d a) := by rintro op ⟨⟩; rfl
theorem fabs (d : Dst) (a : Sel) : Statement (.fabs d a) := by rintro op ⟨⟩; rfl
theorem fclass (d : Dst) (a : Sel) : Statement (.fclass d a) := by rintro op ⟨⟩; rfl
theorem frcp (d : Dst) (a : Sel) : Statement (.frcp d a) := by rintro op ⟨⟩; rfl
theorem frsq (d : Dst) (a : Sel) : Statement (.frsq d a) := by rintro op ⟨⟩; rfl
theorem fex2 (d : Dst) (a : Sel) : Statement (.fex2 d a) := by rintro op ⟨⟩; rfl
theorem flg2 (d : Dst) (a : Sel) : Statement (.flg2 d a) := by rintro op ⟨⟩; rfl
theorem fsin (d : Dst) (a : Sel) : Statement (.fsin d a) := by rintro op ⟨⟩; rfl
theorem fcos (d : Dst) (a : Sel) : Statement (.fcos d a) := by rintro op ⟨⟩; rfl
theorem hadd2 (d : Dst) (a b : Sel) : Statement (.hadd2 d a b) := by rintro op ⟨⟩; rfl
theorem hmul2 (d : Dst) (a b : Sel) : Statement (.hmul2 d a b) := by rintro op ⟨⟩; rfl
theorem flags (d : Dst) (sc : BitVec 8) : Statement (.flags d sc) := by rintro op ⟨⟩; rfl
theorem flgclr (mask : BitVec 8) : Statement (.flgclr mask) := by rintro op ⟨⟩; rfl
theorem movi (d : Dst) (imm : BitVec 32) : Statement (.movi d imm) := by rintro op ⟨⟩; rfl
theorem mad (d : Dst) (a b c : Sel) (w : BitVec 2) (u : Bool) : Statement (.mad d a b c w u) := by rintro op ⟨⟩; rfl
theorem sel (d : Dst) (a b c : Sel) : Statement (.sel d a b c) := by rintro op ⟨⟩; rfl
theorem bfe (d : Dst) (a : Sel) (sx : Bool) (lenm1 pos : BitVec 5) : Statement (.bfe d a sx lenm1 pos) := by rintro op ⟨⟩; rfl
theorem bfi (d : Dst) (a b : Sel) (lenm1 pos : BitVec 5) : Statement (.bfi d a b lenm1 pos) := by rintro op ⟨⟩; rfl
theorem leax (d : Dst) (a b : Sel) (ix : BitVec 2) (sh : BitVec 4) (imm : BitVec 12) : Statement (.leax d a b ix sh imm) := by rintro op ⟨⟩; rfl
theorem clzw (d : Dst) (a : Sel) (w : BitVec 2) : Statement (.clzw d a w) := by rintro op ⟨⟩; rfl
theorem ffsw (d : Dst) (a : Sel) (w : BitVec 2) : Statement (.ffsw d a w) := by rintro op ⟨⟩; rfl
theorem popcw (d : Dst) (a : Sel) (w : BitVec 2) : Statement (.popcw d a w) := by rintro op ⟨⟩; rfl
theorem padd (d : Dst) (a b : Sel) (w : BitVec 2) : Statement (.padd d a b w) := by rintro op ⟨⟩; rfl
theorem psub (d : Dst) (a b : Sel) (w : BitVec 2) : Statement (.psub d a b w) := by rintro op ⟨⟩; rfl
theorem padds (d : Dst) (a b : Sel) (w ovf : BitVec 2) (u : Bool) : Statement (.padds d a b w ovf u) := by rintro op ⟨⟩; rfl
theorem psubs (d : Dst) (a b : Sel) (w ovf : BitVec 2) (u : Bool) : Statement (.psubs d a b w ovf u) := by rintro op ⟨⟩; rfl
theorem pmin (d : Dst) (a b : Sel) (w : BitVec 2) (u : Bool) : Statement (.pmin d a b w u) := by rintro op ⟨⟩; rfl
theorem pmax (d : Dst) (a b : Sel) (w : BitVec 2) (u : Bool) : Statement (.pmax d a b w u) := by rintro op ⟨⟩; rfl
theorem pmul (d : Dst) (a b : Sel) (w : BitVec 2) (hi u : Bool) : Statement (.pmul d a b w hi u) := by rintro op ⟨⟩; rfl
theorem pdot4 (d : Dst) (a b c : Sel) (w : BitVec 2) (ub ua : Bool) : Statement (.pdot4 d a b c w ub ua) := by rintro op ⟨⟩; rfl
theorem rqmad (d : Dst) (a b c : Sel) : Statement (.rqmad d a b c) := by rintro op ⟨⟩; rfl
theorem rqenc (d : Dst) (a : Sel) (ovf : BitVec 2) : Statement (.rqenc d a ovf) := by rintro op ⟨⟩; rfl
theorem cvti (d : Dst) (a : Sel) (dt st : BitVec 4) (ovf : BitVec 2) : Statement (.cvti d a dt st ovf) := by rintro op ⟨⟩; rfl
theorem ialui (d : Dst) (a : Sel) (base : BitVec 8) (imm : BitVec 32) : Statement (.ialui d a base imm) := by rintro op ⟨⟩; rfl
theorem falui (d : Dst) (a : Sel) (base : BitVec 8) (imm : BitVec 32) : Statement (.falui d a base imm) := by rintro op ⟨⟩; rfl
theorem fopr (d : Dst) (a b c : Sel) (rm : BitVec 3) (ovf : BitVec 2) : Statement (.fopr d a b c rm ovf) := by rintro op ⟨⟩; rfl
theorem ffma (d : Dst) (a b c : Sel) (rm : BitVec 3) (ovf : BitVec 2) : Statement (.ffma d a b c rm ovf) := by rintro op ⟨⟩; rfl
theorem frnd (d : Dst) (a : Sel) (rm : BitVec 3) (w : BitVec 2) : Statement (.frnd d a rm w) := by rintro op ⟨⟩; rfl
theorem fcvt (d : Dst) (a : Sel) (dt st : BitVec 4) (rm : BitVec 3) (ovf : BitVec 2) (hi : Bool) : Statement (.fcvt d a dt st rm ovf hi) := by rintro op ⟨⟩; rfl
theorem ftoi (d : Dst) (a : Sel) (dt st : BitVec 4) (rm : BitVec 3) (ovf : BitVec 2) (hi : Bool) : Statement (.ftoi d a dt st rm ovf hi) := by rintro op ⟨⟩; rfl
theorem itof (d : Dst) (a : Sel) (dt st : BitVec 4) (rm : BitVec 3) (ovf : BitVec 2) : Statement (.itof d a dt st rm ovf) := by rintro op ⟨⟩; rfl
theorem fdiv (d : Dst) (a b : Sel) (rm : BitVec 3) (w ovf : BitVec 2) : Statement (.fdiv d a b rm w ovf) := by rintro op ⟨⟩; rfl
theorem fsqrt (d : Dst) (a : Sel) (rm : BitVec 3) (w ovf : BitVec 2) : Statement (.fsqrt d a rm w ovf) := by rintro op ⟨⟩; rfl
theorem dadd (d : Dst) (a b : Sel) (rm : BitVec 3) (ovf : BitVec 2) : Statement (.dadd d a b rm ovf) := by rintro op ⟨⟩; rfl
theorem dsub (d : Dst) (a b : Sel) (rm : BitVec 3) (ovf : BitVec 2) : Statement (.dsub d a b rm ovf) := by rintro op ⟨⟩; rfl
theorem dmul (d : Dst) (a b : Sel) (rm : BitVec 3) (ovf : BitVec 2) : Statement (.dmul d a b rm ovf) := by rintro op ⟨⟩; rfl
theorem dfma (d : Dst) (a b c : Sel) (rm : BitVec 3) (ovf : BitVec 2) : Statement (.dfma d a b c rm ovf) := by rintro op ⟨⟩; rfl
theorem dcmp (d : Dst) (a b c : Sel) : Statement (.dcmp d a b c) := by rintro op ⟨⟩; rfl
theorem hfma2 (d : Dst) (a b c : Sel) (rm : BitVec 3) (ovf : BitVec 2) (fmt : Bool) : Statement (.hfma2 d a b c rm ovf fmt) := by rintro op ⟨⟩; rfl
theorem hopr (d : Dst) (a b c : Sel) (rm : BitVec 3) (ovf : BitVec 2) (fmt : Bool) : Statement (.hopr d a b c rm ovf fmt) := by rintro op ⟨⟩; rfl
theorem brx (a : Sel) : Statement (.brx a) := by rintro op ⟨⟩; rfl
theorem callx (d : Dst) (a : Sel) : Statement (.callx d a) := by rintro op ⟨⟩; rfl
theorem ret (a : Sel) : Statement (.ret a) := by rintro op ⟨⟩; rfl
theorem jset (bar : BitVec 8) : Statement (.jset bar) := by rintro op ⟨⟩; rfl
theorem jwait (bar : BitVec 8) : Statement (.jwait bar) := by rintro op ⟨⟩; rfl
theorem jdrop (bar : BitVec 8) : Statement (.jdrop bar) := by rintro op ⟨⟩; rfl
theorem yield : Statement (.yield) := by rintro op ⟨⟩; rfl
theorem exit : Statement (.exit) := by rintro op ⟨⟩; rfl
theorem rep (cnt : BitVec 6) (st : BitVec 4) : Statement (.rep cnt st) := by rintro op ⟨⟩; rfl
theorem waitf (d : Dst) (a : Sel) (chk : Bool) : Statement (.waitf d a chk) := by rintro op ⟨⟩; rfl
theorem testf (d : Dst) (a : Sel) : Statement (.testf d a) := by rintro op ⟨⟩; rfl
theorem cancelf (a : Sel) (rel : Bool) : Statement (.cancelf a rel) := by rintro op ⟨⟩; rfl
theorem movf (d : Dst) (a : Sel) : Statement (.movf d a) := by rintro op ⟨⟩; rfl
theorem br (cond : BitVec 3) (a b : Sel) (disp : BitVec 32) : Statement (.br cond a b disp) := by rintro op ⟨⟩; rfl
theorem call (d : Dst) (disp : BitVec 32) : Statement (.call d disp) := by rintro op ⟨⟩; rfl
theorem ballot (d : Dst) (a : Sel) : Statement (.ballot d a) := by rintro op ⟨⟩; rfl
theorem any (d : Dst) (a : Sel) : Statement (.any d a) := by rintro op ⟨⟩; rfl
theorem all (d : Dst) (a : Sel) : Statement (.all d a) := by rintro op ⟨⟩; rfl
theorem gpos (d : Dst) : Statement (.gpos d) := by rintro op ⟨⟩; rfl
theorem gsize (d : Dst) : Statement (.gsize d) := by rintro op ⟨⟩; rfl
theorem member (d : Dst) (a : Sel) : Statement (.member d a) := by rintro op ⟨⟩; rfl
theorem shfl (d : Dst) (a b : Sel) (mode : BitVec 2) (seg : BitVec 3) : Statement (.shfl d a b mode seg) := by rintro op ⟨⟩; rfl
theorem redux (d : Dst) (a : Sel) (ty : BitVec 2) (op : BitVec 4) (rm : BitVec 3) (ovf : BitVec 2) : Statement (.redux d a ty op rm ovf) := by rintro op ⟨⟩; rfl
theorem ldg (d : Dst) (a : Sel) (off : BitVec 8) : Statement (.ldg d a off) := by rintro op ⟨⟩; rfl
theorem stg (rs : BitVec 7) (a : Sel) (off : BitVec 8) : Statement (.stg rs a off) := by rintro op ⟨⟩; rfl
theorem ldk (d : Dst) (a : Sel) (off : BitVec 8) : Statement (.ldk d a off) := by rintro op ⟨⟩; rfl
theorem fence (ord : BitVec 2) (scope : BitVec 3) : Statement (.fence ord scope) := by rintro op ⟨⟩; rfl
theorem flush (a : Sel) (scope : BitVec 3) : Statement (.flush a scope) := by rintro op ⟨⟩; rfl
theorem inval (a : Sel) (scope : BitVec 3) : Statement (.inval a scope) := by rintro op ⟨⟩; rfl
theorem pref (a : Sel) (lv : BitVec 8) : Statement (.pref a lv) := by rintro op ⟨⟩; rfl
theorem ldgx (d : Dst) (a b : Sel) (scl : BitVec 2) (na xs sx : Bool) (w : BitVec 2) (imm : BitVec 12) : Statement (.ldgx d a b scl na xs sx w imm) := by rintro op ⟨⟩; rfl
theorem stgx (rs : BitVec 7) (a b : Sel) (scl : BitVec 2) (na xs : Bool) (w : BitVec 2) (imm : BitVec 12) : Statement (.stgx rs a b scl na xs w imm) := by rintro op ⟨⟩; rfl
theorem atom (d : Dst) (a b : Sel) (op : BitVec 4) (w : BitVec 2) (scope : BitVec 3) (ord : BitVec 2) (imm : BitVec 12) : Statement (.atom d a b op w scope ord imm) := by rintro op ⟨⟩; rfl
theorem cas (d : Dst) (a b c : Sel) (w : BitVec 2) (scope : BitVec 3) (ord : BitVec 2) (imm : BitVec 12) : Statement (.cas d a b c w scope ord imm) := by rintro op ⟨⟩; rfl
theorem lds (d : Dst) (a : Sel) (mode : BitVec 2) (off : BitVec 6) : Statement (.lds d a mode off) := by rintro op ⟨⟩; rfl
theorem sts (rs : BitVec 7) (fill : Bool) (a : Sel) (off : BitVec 8) : Statement (.sts rs fill a off) := by rintro op ⟨⟩; rfl
theorem feset (clr : Bool) (a b : Sel) : Statement (.feset clr a b) := by rintro op ⟨⟩; rfl
theorem fetest (d : Dst) (a : Sel) : Statement (.fetest d a) := by rintro op ⟨⟩; rfl
theorem stf (rs : BitVec 7) (a : Sel) (off : BitVec 8) : Statement (.stf rs a off) := by rintro op ⟨⟩; rfl
theorem ldf (d : Dst) (a : Sel) (off : BitVec 8) : Statement (.ldf d a off) := by rintro op ⟨⟩; rfl
theorem ldt (d : Dst) (a : Sel) (buf : BitVec 2) (xs : Bool) (off : BitVec 5) : Statement (.ldt d a buf xs off) := by rintro op ⟨⟩; rfl
theorem stt (rs : BitVec 7) (a : Sel) (buf : BitVec 2) (xs : Bool) (off : BitVec 5) : Statement (.stt rs a buf xs off) := by rintro op ⟨⟩; rfl
theorem qpop (d : Dst) : Statement (.qpop d) := by rintro op ⟨⟩; rfl
theorem trap (a : Sel) (code : BitVec 8) : Statement (.trap a code) := by rintro op ⟨⟩; rfl
theorem tret : Statement (.tret) := by rintro op ⟨⟩; rfl
theorem sysrd (d : Dst) (srn : BitVec 16) : Statement (.sysrd d srn) := by rintro op ⟨⟩; rfl
theorem syswr (rs : BitVec 7) (srn : BitVec 16) : Statement (.syswr rs srn) := by rintro op ⟨⟩; rfl
theorem flogpop (rs : BitVec 7) : Statement (.flogpop rs) := by rintro op ⟨⟩; rfl
theorem abort (rs : BitVec 7) : Statement (.abort rs) := by rintro op ⟨⟩; rfl
theorem clock (d : Dst) (ctr : BitVec 8) : Statement (.clock d ctr) := by rintro op ⟨⟩; rfl
theorem bkpt (code : BitVec 8) : Statement (.bkpt code) := by rintro op ⟨⟩; rfl
theorem ldsx (d : Dst) (a b : Sel) (peer : Bool) (rank : BitVec 4) (mode : BitVec 2) (sx : Bool) (w qw : BitVec 2) (imm : BitVec 12) : Statement (.ldsx d a b peer rank mode sx w qw imm) := by rintro op ⟨⟩; rfl
theorem stsx (rs : BitVec 7) (a b : Sel) (peer : Bool) (rank : BitVec 4) (mode w qw : BitVec 2) (imm : BitVec 12) : Statement (.stsx rs a b peer rank mode w qw imm) := by rintro op ⟨⟩; rfl
theorem atoms (d : Dst) (a b c : Sel) (w : BitVec 2) (scope : BitVec 3) (ord : BitVec 2) (op : BitVec 4) (peer : Bool) (rank : BitVec 4) : Statement (.atoms d a b c w scope ord op peer rank) := by rintro op ⟨⟩; rfl
theorem copy (d : Dst) (a b c : Sel) (rm : BitVec 3) (w ovf : BitVec 2) (scope : BitVec 3) (mode : BitVec 2) (dsp ssp : BitVec 3) (pfmt : BitVec 2) : Statement (.copy d a b c rm w ovf scope mode dsp ssp pfmt) := by rintro op ⟨⟩; rfl
theorem mloop (d : Dst) (a b : Sel) (ct : BitVec 8) (ainc winc : BitVec 4) (fmt : BitVec 2) (fin zero : Bool) (steps : BitVec 12) : Statement (.mloop d a b ct ainc winc fmt fin zero steps) := by rintro op ⟨⟩; rfl
theorem mfold (d : Dst) (t : BitVec 8) : Statement (.mfold d t) := by rintro op ⟨⟩; rfl
theorem cvtdn (d : Dst) (a : Sel) (t : BitVec 8) (rm : BitVec 3) (ovf : BitVec 2) (dsp : Bool) (pfmt : BitVec 2) : Statement (.cvtdn d a t rm ovf dsp pfmt) := by rintro op ⟨⟩; rfl
theorem mzero (d : Dst) (t : BitVec 8) (km1 : BitVec 4) : Statement (.mzero d t km1) := by rintro op ⟨⟩; rfl
theorem gather (d : Dst) (a b c : Sel) (w : BitVec 2) (scope : BitVec 3) (sx : Bool) (base : BitVec 7) : Statement (.gather d a b c w scope sx base) := by rintro op ⟨⟩; rfl
theorem scatter (d : Dst) (a b c : Sel) (w : BitVec 2) (scope : BitVec 3) (sx : Bool) (base : BitVec 7) : Statement (.scatter d a b c w scope sx base) := by rintro op ⟨⟩; rfl
theorem scadd (d : Dst) (a b c : Sel) (w : BitVec 2) (scope : BitVec 3) (ops : BitVec 2) (ft sx : Bool) (base : BitVec 7) : Statement (.scadd d a b c w scope ops ft sx base) := by rintro op ⟨⟩; rfl
theorem stand (d : Dst) (a b : Sel) (imm : BitVec 12) : Statement (.stand d a b imm) := by rintro op ⟨⟩; rfl
theorem unstand (d : Dst) (b : Sel) (imm : BitVec 12) : Statement (.unstand d b imm) := by rintro op ⟨⟩; rfl
theorem substat (d : Dst) (b : Sel) (clr : BitVec 8) (imm : BitVec 12) : Statement (.substat d b clr imm) := by rintro op ⟨⟩; rfl
theorem lease (d : Dst) (kind : BitVec 8) (pri : BitVec 2) : Statement (.lease d kind pri) := by rintro op ⟨⟩; rfl
theorem unlease (d : Dst) (a : Sel) : Statement (.unlease d a) := by rintro op ⟨⟩; rfl
theorem mrg (d : Dst) (a b : Sel) (op : BitVec 8) (w : BitVec 2) (scope : BitVec 3) (imm : BitVec 12) : Statement (.mrg d a b op w scope imm) := by rintro op ⟨⟩; rfl
theorem lstat (d : Dst) (a : Sel) : Statement (.lstat d a) := by rintro op ⟨⟩; rfl
theorem nbrgrid (d : Dst) (a b : Sel) (scope : BitVec 3) (imm : BitVec 12) : Statement (.nbrgrid d a b scope imm) := by rintro op ⟨⟩; rfl
theorem nbrbin (d : Dst) (a b : Sel) (scope : BitVec 3) (imm : BitVec 12) : Statement (.nbrbin d a b scope imm) := by rintro op ⟨⟩; rfl
theorem nbrpair (d : Dst) (a b : Sel) (scope : BitVec 3) (imm : BitVec 12) : Statement (.nbrpair d a b scope imm) := by rintro op ⟨⟩; rfl
theorem nbrchk (d : Dst) (a b : Sel) (scope : BitVec 3) (imm : BitVec 12) : Statement (.nbrchk d a b scope imm) := by rintro op ⟨⟩; rfl
theorem qput (d : Dst) (a b : Sel) (scope : BitVec 3) (imm : BitVec 12) : Statement (.qput d a b scope imm) := by rintro op ⟨⟩; rfl
theorem qdone (d : Dst) (a b : Sel) (scope : BitVec 3) : Statement (.qdone d a b scope) := by rintro op ⟨⟩; rfl
theorem tail (a : Sel) (retain : Bool) : Statement (.tail a retain) := by rintro op ⟨⟩; rfl
theorem clauseStart (core slot : Nat) : Statement (.clauseStart core slot) := by rintro op ⟨⟩
theorem groupFormation (core laneset : Nat) : Statement (.groupFormation core laneset) := by rintro op ⟨⟩
theorem stallDissolution (core slot : Nat) : Statement (.stallDissolution core slot) := by rintro op ⟨⟩
theorem registerResultLands (id : Nat) : Statement (.registerResultLands id) := by rintro op ⟨⟩
theorem futureCompletion (op : Nat) : Statement (.futureCompletion op) := by rintro op ⟨⟩
theorem l1Fill (core sector : Nat) : Statement (.l1Fill core sector) := by rintro op ⟨⟩
theorem homeWriteBack (core sector : Nat) (evict : Bool) : Statement (.homeWriteBack core sector evict) := by rintro op ⟨⟩
theorem atomicAtHome (id : Nat) : Statement (.atomicAtHome id) := by rintro op ⟨⟩
theorem hbmFill (sector : Nat) (victim : Option Nat) : Statement (.hbmFill sector victim) := by rintro op ⟨⟩
theorem scaddUpdate (op pos : Nat) : Statement (.scaddUpdate op pos) := by rintro op ⟨⟩
theorem pushDelivery (sub : Nat) : Statement (.pushDelivery sub) := by rintro op ⟨⟩
theorem typedBufferHandover (core ctx : Nat) (buf : Nat) : Statement (.typedBufferHandover core ctx buf) := by rintro op ⟨⟩
theorem matrixOpBegin (ctx : Nat) : Statement (.matrixOpBegin ctx) := by rintro op ⟨⟩
theorem mloopStepBoundary (ctx : Nat) (handover : Bool) : Statement (.mloopStepBoundary ctx handover) := by rintro op ⟨⟩
theorem tlbWalkComplete (die asid : Nat) (va : BitVec 64) : Statement (.tlbWalkComplete die asid va) := by rintro op ⟨⟩
theorem replayAll (die : Nat) : Statement (.replayAll die) := by rintro op ⟨⟩
theorem refuse (die : Nat) : Statement (.refuse die) := by rintro op ⟨⟩
theorem invPage (die : Nat) : Statement (.invPage die) := by rintro op ⟨⟩
theorem invAsid (die : Nat) : Statement (.invAsid die) := by rintro op ⟨⟩
theorem invAll (die : Nat) : Statement (.invAll die) := by rintro op ⟨⟩
theorem registerWrite (off : Nat) (wide : Bool) (val : BitVec 64) : Statement (.registerWrite off wide val) := by rintro op ⟨⟩
theorem windowFieldWrite (win field : Nat) (val : BitVec 64) : Statement (.windowFieldWrite win field val) := by rintro op ⟨⟩
theorem windowEnable (win : Nat) (val : BitVec 32) : Statement (.windowEnable win val) := by rintro op ⟨⟩
theorem queueEnable (q : Nat) : Statement (.queueEnable q) := by rintro op ⟨⟩
theorem queueSlotTaken (q : Nat) : Statement (.queueSlotTaken q) := by rintro op ⟨⟩
theorem launchBind (die : Nat) : Statement (.launchBind die) := by rintro op ⟨⟩
theorem clusterBind (launch : Nat) : Statement (.clusterBind launch) := by rintro op ⟨⟩
theorem taskDelivery (q : Nat) : Statement (.taskDelivery q) := by rintro op ⟨⟩
theorem teamEnd (ctx tslot : Nat) : Statement (.teamEnd ctx tslot) := by rintro op ⟨⟩
theorem contextSwitchOut (core : Nat) : Statement (.contextSwitchOut core) := by rintro op ⟨⟩
theorem streamOutComplete (ctx : Nat) : Statement (.streamOutComplete ctx) := by rintro op ⟨⟩
theorem streamInComplete (ctx : Nat) : Statement (.streamInComplete ctx) := by rintro op ⟨⟩
theorem migration (die island : Nat) : Statement (.migration die island) := by rintro op ⟨⟩
theorem crossDieMigration (ctx core : Nat) : Statement (.crossDieMigration ctx core) := by rintro op ⟨⟩
theorem controlInterval : Statement (.controlInterval) := by rintro op ⟨⟩
theorem powerControlWrite (die off : Nat) (val : BitVec 32) : Statement (.powerControlWrite die off val) := by rintro op ⟨⟩
theorem lanternLit (die id : Nat) : Statement (.lanternLit die id) := by rintro op ⟨⟩
theorem snuffEnd (die id : Nat) : Statement (.snuffEnd die id) := by rintro op ⟨⟩
theorem lanternDark (die id : Nat) : Statement (.lanternDark die id) := by rintro op ⟨⟩
theorem powerGood : Statement (.powerGood) := by rintro op ⟨⟩
theorem firmwareVerify : Statement (.firmwareVerify) := by rintro op ⟨⟩
theorem coreRelease : Statement (.coreRelease) := by rintro op ⟨⟩
theorem restart : Statement .restart := by rintro op ⟨⟩
theorem correctedError : Statement (.correctedError) := by rintro op ⟨⟩
theorem uncorrectableError (err : ErrorSite) : Statement (.uncorrectableError err) := by rintro op ⟨⟩
theorem mgmtControlSpace (p : PacketHead) (wide write : Bool) (v : BitVec 64) : Statement (.mgmtControlSpace p wide write v) := by rintro op ⟨⟩
theorem mgmtRoutingId (p : PacketHead) (write : Bool) (v : BitVec 32) : Statement (.mgmtRoutingId p write v) := by rintro op ⟨⟩
theorem mgmtBootFlash (p : PacketHead) (write : Bool) (v : List (BitVec 8)) : Statement (.mgmtBootFlash p write v) := by rintro op ⟨⟩
theorem attestationRequest (p : PacketHead) (nonce : Option (BitVec 256)) : Statement (.attestationRequest p nonce) := by rintro op ⟨⟩
theorem fabricRead (p : PacketHead) (rest : List (BitVec 8)) : Statement (.fabricRead p rest) := by rintro op ⟨⟩
theorem readResponse (p : PacketHead) (data : List (BitVec 8)) : Statement (.readResponse p data) := by rintro op ⟨⟩
theorem fabricWrite (p : PacketHead) (data : List (BitVec 8)) : Statement (.fabricWrite p data) := by rintro op ⟨⟩
theorem writeAcknowledgement (p : PacketHead) : Statement (.writeAcknowledgement p) := by rintro op ⟨⟩
theorem fabricAtomic (p : PacketHead) (wide : Bool) (bs cs : List (BitVec 64)) : Statement (.fabricAtomic p wide bs cs) := by rintro op ⟨⟩
theorem atomicResponse (p : PacketHead) (olds : List (BitVec 64)) : Statement (.atomicResponse p olds) := by rintro op ⟨⟩
theorem fabricReject (p : PacketHead) : Statement (.fabricReject p) := by rintro op ⟨⟩
theorem managementResponse (tag : Nat) : Statement (.managementResponse tag) := by rintro op ⟨⟩
theorem remoteTimeout (tag : Nat) : Statement (.remoteTimeout tag) := by rintro op ⟨⟩
theorem reservedOpcode (word : BitVec 32) : Statement (.reservedOpcode word) := by rintro op ⟨⟩
theorem engineDelivery (op : Nat) : Statement (.engineDelivery op) := by rintro op ⟨⟩
theorem elementRequest (op pos : Nat) : Statement (.elementRequest op pos) := by rintro op ⟨⟩
theorem streamOutBegin (ctx : Nat) (image : BitVec 64) : Statement (.streamOutBegin ctx image) := by rintro op ⟨⟩
theorem streamInBegin (ctx core : Nat) : Statement (.streamInBegin ctx core) := by rintro op ⟨⟩

end Sys2Proof.Laws.Words
end

