-- ==== Sys2Proof/Laws/Trap.lean ====
section
/-! SUPPORT. Taking a trap: what a trap of one member leaves, whatever word raised it. -/

namespace Sys2Proof.Machine

variable {s : State}

theorem State.modThread_modThread (s : State) (k : Key) (f g : Thread → Thread) :
    (s.modThread k f).modThread k g = s.modThread k fun th => g (f th) := by
  unfold State.modThread State.modTeam State.modCtx
  simp only [tmod_tmod]

/-- A trap whose handler can be entered is one change of its thread. -/
theorem State.takeTrap_eq {k : Key} {th : Thread} {core : Nat} (hk : s.thread? k = some th)
    (hcore : (s.ctx? k.ctx).map (·.core) = some core)
    (hr : th.run ≠ .ended) (cause fwi : Nat) (resume : PC) (einfo : Word) (eaddr : Pair) (ht : s.takes core th cause = true) :
    s.takeTrap k cause fwi resume einfo eaddr =
      s.modThread k fun _ => th.trapped cause fwi resume einfo eaddr (s.vector core th cause) := by
  obtain ⟨c, hc, rfl⟩ := Option.map_eq_some_iff.mp hcore
  simp only [State.takes, Bool.and_eq_true, Bool.not_eq_true', bne_iff_ne, ne_eq] at ht
  obtain ⟨⟨hi, hv⟩, ha⟩ := ht
  unfold State.takeTrap
  simp only [hk, hc, hr, if_false, hi, Bool.false_eq_true]
  unfold State.vector at hv ha ⊢
  split at hv
  · rename_i hd
    simp only [hd, if_true] at ha ⊢
    simp only [if_neg hv, if_pos ha, State.modThread_modThread, Bool.not_true]
    rfl
  · rename_i hd
    simp only [hd, if_false, Bool.false_eq_true, Bool.not_false] at ha ⊢
    simp only [if_neg hv, if_pos ha, State.modThread_modThread]
    rfl

/-- The trap of the one member that executes a word. -/
theorem State.retire_trap (i : Instr) (m : Nat × Nat) {th : Thread} {core : Nat} (hg : s.groupHere)
    (hk : s.thread? (s.key m) = some th) (hc : (s.ctx? s.site.ctx).map (·.core) = some core) (hr : th.run = .issuing)
    (cause : Nat) (einfo : Word) (eaddr : Pair) (ht : s.takes core th cause = true) :
    s.trapsTo (s.retire i [(m, .trap cause einfo eaddr)]) i m th core cause einfo eaddr := by
  have hne : th.run ≠ .ended := by rw [hr]; exact Run.noConfusion
  have hset : s.settle i m (.trap cause einfo eaddr) = s.modThread (s.key m) fun _ =>
      th.trapped cause s.site.wi (s.resumePC i cause) einfo eaddr (s.vector core th cause) := by
    have halive : s.alive (s.key m) = true := by simp [State.alive, hk, hne]
    have ht := State.takeTrap_eq hk hc hne cause s.site.wi (s.resumePC i cause) einfo eaddr ht
    rw [← ht]
    unfold State.settle
    simp only [State.key] at halive
    simp only [halive, Bool.not_true, Bool.false_eq_true, if_false]
    rfl
  refine ⟨?_, ?_⟩
  · rw [← hset]
    exact State.retire_one s i m _ hg (by rw [hset]; rfl) (by rw [hset]; rfl)
  · rw [State.retire_left s i m _ rfl, hset, State.thread?_modThread_self, hk]
    rfl

/-! ## Words whose trap is their own effect, or their operands' -/

/-- A word confined to its own thread that one member executes. -/
theorem State.issueLocal_one (s : State) (i : Instr) (f : Thread → Eff) {m : Nat × Nat} {t : Team} {th : Thread}
    (h : s.readyOne i m t th) : s.issueLocal i f =
      ((s.modThread (s.key m) (·.apply s.site (f th))).clamped (f th).sat).retire i [(m, (f th).out)] := by
  obtain ⟨hr, hms, hm⟩ := h
  obtain ⟨_, _, hst, hex⟩ := State.ready_elim hr
  obtain ⟨t', th', h1, _, hw⟩ := hex m (by simp [hms])
  obtain ⟨rfl, rfl⟩ : t' = t ∧ th' = th := by simpa [h1] using hm
  unfold State.issueLocal
  simp only [hst, Bool.false_eq_true, if_false, hms, List.filterMap_cons, List.filterMap_nil, h1, Option.map_some, List.foldl_cons,
    List.foldl_nil, List.map_cons, List.map_nil, List.sum_cons, List.sum_nil, Nat.add_zero, effOf, hw]
  rfl

/-- The one member that executes a word, as its thread. -/
theorem State.readyOne_thread {i : Instr} {m : Nat × Nat} {t : Team} {th : Thread} (h : s.readyOne i m t th) :
    s.thread? (s.key m) = some th ∧ th.run = .issuing ∧ s.groupHere ∧ m ∈ s.site.all := by
  obtain ⟨hs, _, _, hex⟩ := State.ready_elim h.1
  obtain ⟨_, th', h1, hi, _⟩ := hex m (by simp [h.2.1])
  obtain ⟨_, rfl⟩ : _ = t ∧ th' = th := by simpa [h1] using h.2.2
  have hg := State.groupHere_of_sited hs
  exact ⟨(State.member?_eq s m _ _ h.2.2).2.2, hi, hg.1, hg.2 m (by simp [h.2.1])⟩

/-- A trap of a member whose thread has been changed before it, but for what decides the trap. -/
theorem State.trapsTo_of_modThread {u : State} {i : Instr} {m : Nat × Nat} {f : Thread → Thread} {x : Thread} {core cause : Nat}
    {einfo : Word} {eaddr : Pair} (h : (s.modThread (s.key m) f).trapsTo u i m x core cause einfo eaddr) :
    s.trapsTo u i m x core cause einfo eaddr := by
  obtain ⟨h1, h2⟩ := h
  refine ⟨?_, h2⟩
  rw [show (s.modThread (s.key m) f).key m = s.key m from rfl, State.modThread_modThread] at h1
  exact h1

/-- A trap that a word raises for the one member that executes it: its flags join the thread's, and nothing else is written. -/
theorem State.issueLocal_trap (s : State) (i : Instr) (f : Thread → Eff) {m : Nat × Nat} {t : Team} {th : Thread} {core : Nat}
    (h : s.readyOne i m t th) (hc : (s.ctx? s.site.ctx).map (·.core) = some core) {cause : Nat} {einfo : Word} {flags : BitVec 6}
    (hf : f th = ⟨[], none, flags, 0, .trap cause einfo 0⟩) (ht : s.takes core th cause = true) :
    s.trapsTo (s.issueLocal i f) i m { th with flags := th.flags ||| flags } core cause einfo 0 := by
  obtain ⟨hk, hrun, hg, _⟩ := State.readyOne_thread h
  rw [State.issueLocal_one s i f h, hf]
  have happ : (s.modThread (s.key m) (·.apply s.site ⟨[], none, flags, 0, .trap cause einfo 0⟩)).clamped 0 =
      s.modThread (s.key m) fun x => { x with flags := x.flags ||| flags } := State.clamped_zero _
  rw [happ]
  refine State.trapsTo_of_modThread (State.retire_trap (s := s.modThread (s.key m) fun x => { x with flags := x.flags ||| flags })
    (th := { th with flags := th.flags ||| flags }) i m (State.groupHere_of_alike hg rfl rfl) ?_ ?_ hrun cause einfo 0 ht)
  · exact (State.thread?_modThread_self s (s.key m) _).trans (by rw [hk]; rfl)
  · exact (State.ctxCore_modThread s (s.key m) _ s.site.ctx).trans hc

/-- The same of a word that may also do something else than go on with its own thread. -/
theorem State.issueEach_trap (s : State) (i : Instr) (f : State → Key → Team → Thread → State × Out) {m : Nat × Nat} {t : Team}
    {th : Thread} {core : Nat} (h : s.readyOne i m t th) (hc : (s.ctx? s.site.ctx).map (·.core) = some core) {cause : Nat}
    {einfo : Word} {eaddr : Pair} (hf : f s (s.key m) t th = (s, .trap cause einfo eaddr)) (ht : s.takes core th cause = true) :
    s.trapsTo (s.issueEach i f) i m th core cause einfo eaddr := by
  obtain ⟨hk, hrun, hg, _⟩ := State.readyOne_thread h
  rw [State.issueEach_one s i f h, hf]
  exact State.retire_trap i m hg hk hc hrun cause einfo eaddr ht

end Sys2Proof.Machine
end

