-- ==== Sys2Proof/Laws/Steady.lean ====
section
/-! SUPPORT. What the memory system leaves as it is: translation, fetch, caches and homes change no thread, no group, and not the
issue in progress. -/

namespace Sys2Proof.Machine

variable {s t u : State}

/-- The issue in progress, the contexts and the groups are the same. -/
def State.steady (s t : State) : Prop :=
  t.site = s.site ∧ t.ctxs = s.ctxs ∧ (∀ g, (t.core g).groups = (s.core g).groups) ∧ ∀ d, (t.die d).sysvec = (s.die d).sysvec

theorem State.steady_refl (s : State) : s.steady s := ⟨rfl, rfl, fun _ => rfl, fun _ => rfl⟩

theorem State.steady_trans (h : s.steady t) (h' : t.steady u) : s.steady u :=
  ⟨h'.1.trans h.1, h'.2.1.trans h.2.1, fun g => (h'.2.2.1 g).trans (h.2.2.1 g), fun d => (h'.2.2.2 d).trans (h.2.2.2 d)⟩

/-- A change of fields that a steady state leaves open. -/
theorem State.steady_of (h1 : t.site = s.site) (h2 : t.ctxs = s.ctxs) (h3 : t.cores = s.cores) (h4 : t.dies = s.dies) : s.steady t :=
  ⟨h1, h2, fun g => by unfold State.core; rw [h3], fun d => by unfold State.die; simp only [h4]⟩

theorem State.steady_modCore (h : s.steady t) {g : Nat} {f : Core → Core} (hf : ∀ x, (f x).groups = x.groups := by intro _; rfl) :
    s.steady (t.modCore g f) := by
  refine State.steady_trans h ⟨rfl, rfl, fun j => ?_, fun _ => rfl⟩
  rw [State.core_modCore]
  split
  · rename_i e
    rw [hf, e]
  · rfl

theorem State.steady_modDie (h : s.steady t) {d : Nat} {f : Die → Die} (hf : ∀ x, (f x).sysvec = x.sysvec := by intro _; rfl) :
    s.steady (t.modDie d f) := by
  refine State.steady_trans h ⟨rfl, rfl, fun _ => rfl, fun j => ?_⟩
  rw [State.die_modDie]
  split
  · rename_i e
    rw [hf]
    unfold State.die
    simp only [e]
  · rfl

theorem State.steady_modPkg (h : s.steady t) {f : Pkg → Pkg} : s.steady (t.modPkg f) :=
  State.steady_trans h ⟨rfl, rfl, fun _ => rfl, fun _ => rfl⟩

/-- A fold whose steps are steady. -/
theorem State.steady_foldl {α : Type} {l : List α} {f : State → α → State} (hf : ∀ (s : State) a, s.steady (f s a)) (h : s.steady t) :
    s.steady (l.foldl f t) := by
  induction l generalizing t with
  | nil => exact h
  | cons a r ih => exact ih (State.steady_trans h (hf t a))

/-- A fold over a pair whose second part is a state. -/
theorem State.steady_foldl_snd {α β : Type} {l : List α} {f : β × State → α → β × State} (hf : ∀ (x : β × State) a, x.2.steady (f x a).2)
    {x : β × State} (h : s.steady x.2) : s.steady (l.foldl f x).2 := by
  induction l generalizing x with
  | nil => exact h
  | cons a r ih => exact ih (State.steady_trans h (hf x a))

theorem State.steady_drawNat (h : s.steady t) : s.steady t.drawNat.2 := State.steady_trans h (State.steady_of rfl rfl rfl rfl)
theorem State.steady_drawBool (h : s.steady t) : s.steady t.drawBool.2 := State.steady_trans h (State.steady_of rfl rfl rfl rfl)
theorem State.steady_freshId (h : s.steady t) : s.steady t.freshId.2 := State.steady_trans h (State.steady_of rfl rfl rfl rfl)
theorem State.steady_notify (h : s.steady t) {c : Nat} {a b : BitVec 64} : s.steady (t.notify c a b) :=
  State.steady_trans h (State.steady_of rfl rfl rfl rfl)
theorem State.steady_setUnbk (h : s.steady t) : s.steady t.setUnbk := State.steady_modPkg h

/-! ## Homes -/

theorem State.steady_noteConst (h : s.steady t) {sec : Nat} : s.steady (t.noteConst sec) := by
  unfold State.noteConst
  split
  · exact h
  · exact State.steady_modPkg h

/-- An eviction that is steady. -/
def evictSteady (evict : State → Nat → State) : Prop := ∀ (s : State) sec, s.steady (evict s sec)

theorem State.steady_roomBy {evict : State → Nat → State} (he : evictSteady evict) (h : s.steady t) {sec : Nat} :
    s.steady (t.roomBy evict sec) := by
  unfold State.roomBy
  extract_lets lines set
  split
  · exact h
  · split
    · exact h
    · split
      · exact h
      · split
        · exact State.steady_foldl (fun s k => by
            split
            · exact he s k
            · exact State.steady_refl s) h
        · exact h

theorem State.steady_expPutBy {evict : State → Nat → State} (he : evictSteady evict) (h : s.steady t) {a : Nat} {b : Byte} :
    s.steady (t.expPutBy evict a b) := by
  unfold State.expPutBy
  extract_lets s1
  have h1 : s.steady s1 := by
    show s.steady (if _ then t.roomBy evict _ else t)
    split
    · exact State.steady_roomBy he h
    · exact h
  split
  · exact State.steady_setUnbk h
  · refine State.steady_noteConst ?_
    split <;> exact State.steady_modPkg h1

theorem State.steady_cleanBy {evict : State → Nat → State} (he : evictSteady evict) (h : s.steady t) {sec : Nat} :
    s.steady (t.cleanBy evict sec) := by
  unfold State.cleanBy
  split
  · exact h
  · dsimp only
    split
    · split
      · split
        · exact State.steady_foldl (fun s k => State.steady_expPutBy he (State.steady_refl s)) (State.steady_modPkg h)
        · exact State.steady_modPkg h
      · exact State.steady_modPkg h
    · exact State.steady_modPkg h

theorem State.steady_evictDeep (n : Nat) : evictSteady (State.evictDeep n) := by
  induction n with
  | zero => exact fun s _ => State.steady_refl s
  | succ n ih => exact fun s _ => State.steady_modPkg (State.steady_cleanBy ih (State.steady_refl s))

theorem State.steady_cleanHome (h : s.steady t) {sec : Nat} : s.steady (t.cleanHome sec) :=
  State.steady_cleanBy (State.steady_evictDeep _) h

theorem State.steady_evictHome (h : s.steady t) {sec : Nat} : s.steady (t.evictHome sec) :=
  State.steady_trans h (State.steady_evictDeep _ _ _)

theorem State.steady_l2Room (h : s.steady t) {sec : Nat} : s.steady (t.l2Room sec) :=
  State.steady_roomBy (fun s _ => State.steady_evictHome (State.steady_refl s)) h

theorem State.steady_filled (h : s.steady t) {sec : Nat} : s.steady (t.filled sec) := by
  unfold State.filled
  split
  · split
    · exact h
    · exact State.steady_setUnbk h
  · exact h

theorem State.steady_homeGet (h : s.steady t) {sec : Nat} : s.steady (t.homeGet sec).2 :=
  State.steady_modPkg (State.steady_freshId (State.steady_filled (State.steady_l2Room h)))

theorem State.steady_mergeUpdate (h : s.steady t) {sec : Nat} : s.steady (t.mergeUpdate sec) := by
  unfold State.mergeUpdate
  split
  · exact State.steady_homeGet h
  · exact h

theorem State.steady_pushes (h : s.steady t) {sec : Nat} {mask : SectorMask} {scope : Nat} : s.steady (t.pushes sec mask scope) := by
  unfold State.pushes
  refine State.steady_foldl (fun s k => ?_) h
  dsimp only
  split
  · exact State.steady_refl s
  · split
    · exact State.steady_refl s
    · exact State.steady_modPkg (State.steady_refl s)

theorem State.steady_mergeHome (h : s.steady t) {sec : Nat} {mask : SectorMask} {data : SectorData} :
    s.steady (t.mergeHome sec mask data) := by
  unfold State.mergeHome
  split
  · exact h
  · split
    · exact State.steady_setUnbk h
    · exact State.steady_noteConst (State.steady_modPkg (State.steady_homeGet h))

theorem State.steady_homeStore (h : s.steady t) {sec : Nat} {mask : SectorMask} {data : SectorData} :
    s.steady (t.homeStore sec mask data) := State.steady_pushes (State.steady_mergeHome h)

theorem State.steady_homeWrite (h : s.steady t) {a n v : Nat} : s.steady (t.homeWrite a n v) := State.steady_homeStore h

theorem State.steady_homeWriteRel (h : s.steady t) {a n v scope : Nat} : s.steady (t.homeWriteRel a n v scope) :=
  State.steady_pushes (State.steady_mergeHome h)

theorem State.steady_homeWriteL (h : s.steady t) {a : Nat} {l : List Byte} : s.steady (t.homeWriteL a l) := by
  induction l generalizing t a with
  | nil => exact h
  | cons b r ih => exact ih (State.steady_homeWrite h)

theorem State.steady_homeLoad (h : s.steady t) {a n : Nat} : s.steady (t.homeLoad a n).2 := by
  unfold State.homeLoad
  split
  · exact State.steady_homeGet h
  · exact State.steady_setUnbk h

theorem State.steady_sideLoad (h : s.steady t) {a : Nat} : s.steady (t.sideLoad a).2 := by
  unfold State.sideLoad
  split
  · exact State.steady_setUnbk h
  · exact State.steady_homeGet h

theorem State.steady_sideStore (h : s.steady t) {a : Nat} {mask : BitVec 4} {v : Word} : s.steady (t.sideStore a mask v) := by
  unfold State.sideStore
  split
  · exact State.steady_setUnbk h
  · dsimp only
    split
    · exact State.steady_homeGet h
    · exact State.steady_modPkg (State.steady_homeGet h)

/-! ## Translation -/

theorem State.steady_tlbInstall (h : s.steady t) {core : Option Nat} {die : Nat} {e : TlbEntry} : s.steady (t.tlbInstall core die e) := by
  unfold State.tlbInstall
  cases core with
  | none => exact State.steady_modDie h
  | some g => exact State.steady_modCore (State.steady_modDie h)

theorem State.steady_walked (h : s.steady t) {die asid : Nat} {va : Pair} : s.steady (t.walked die asid va) := by
  unfold State.walked
  dsimp only
  split
  · exact State.steady_setUnbk h
  · exact h

theorem State.steady_lookup (h : s.steady t) {core : Option Nat} {die asid : Nat} {va : Pair} :
    s.steady (t.lookup core die asid va).2 := by
  unfold State.lookup
  dsimp only
  split
  · split
    · exact h
    · split
      · exact State.steady_drawBool h
      · split
        · exact State.steady_tlbInstall (State.steady_walked (State.steady_drawBool h))
        · exact State.steady_walked (State.steady_drawBool h)
  · split
    · exact State.steady_tlbInstall (State.steady_walked h)
    · exact State.steady_walked h

theorem State.steady_translate (h : s.steady t) {core : Option Nat} {die asid : Nat} {va : Pair} {acc : Acc} {sup : Bool} :
    s.steady (t.translate core die asid va acc sup).2 := State.steady_lookup h

theorem State.steady_faultRecord (h : s.steady t) {die asid vpage level kind tid core : Nat} :
    s.steady (t.faultRecord die asid vpage level kind tid core) := by
  unfold State.faultRecord
  extract_lets d a v w2 w3 bytes s1 s2
  split
  · exact State.steady_notify (State.steady_modDie (State.steady_homeWriteL h))
  · exact State.steady_modDie (State.steady_homeWriteL h)

theorem State.steady_pendFault (h : s.steady t) {die asid : Nat} {va : Pair} {level kind tid core : Nat} :
    s.steady (t.pendFault die asid va level kind tid core) := by
  unfold State.pendFault
  dsimp only
  split
  · exact h
  · split
    · exact State.steady_modDie h
    · split
      · exact State.steady_modDie (State.steady_modDie h)
      · exact State.steady_faultRecord (State.steady_modDie h)

theorem State.steady_threadAns (h : s.steady t) {k : Key} {c : Ctx} {va : Pair} {acc : Acc} {r : Tr} :
    s.steady (t.threadAns k c va acc r).2 := by
  unfold State.threadAns
  cases r with
  | missing l => exact State.steady_pendFault h
  | ok | reserved | perm => exact h

theorem State.steady_threadTr (h : s.steady t) {k : Key} {va : Pair} {acc : Acc} : s.steady (t.threadTr k va acc).2 := by
  unfold State.threadTr
  split
  · rename_i th c _ _
    exact State.steady_threadAns (t := (t.translate (some c.core) (dieOf c.core) c.asid va acc th.priv).2) (State.steady_translate h)
  · exact h

/-! ## L1s -/

theorem State.steady_setL1 (h : s.steady t) {core sec : Nat} {x : L1Sector} : s.steady (t.setL1 core sec x) :=
  State.steady_modCore h
theorem State.steady_delL1 (h : s.steady t) {core sec : Nat} : s.steady (t.delL1 core sec) := State.steady_modCore h

theorem State.steady_staleFills (h : s.steady t) {cores : List Nat} {sel : Nat → Bool} : s.steady (t.staleFills cores sel) :=
  State.steady_trans h (State.steady_of rfl rfl rfl rfl)
theorem State.steady_staleReads (h : s.steady t) {cores : List Nat} {sec : Nat} : s.steady (t.staleReads cores sec) :=
  State.steady_trans h (State.steady_of rfl rfl rfl rfl)
theorem State.steady_staleImages (h : s.steady t) {sec : Nat} : s.steady (t.staleImages sec) :=
  State.steady_trans h (State.steady_of rfl rfl rfl rfl)

theorem State.steady_staleBefore (h : s.steady t) {r : Remote} : s.steady (t.staleBefore r) := by
  unfold State.staleBefore
  split
  · exact h
  · exact State.steady_staleImages (State.steady_staleReads (State.steady_staleFills h))

theorem State.steady_send (h : s.steady t) {kind : Nat} {pa : Pair} {n : Nat} {data : List Byte} {r : Remote} :
    s.steady (t.send kind pa n data r) :=
  State.steady_trans (State.steady_freshId (State.steady_staleBefore h)) (State.steady_of rfl rfl rfl rfl)

theorem State.steady_remoteWrite (h : s.steady t) {core asid sec : Nat} {mask : SectorMask} {data : SectorData}
    {last : Option LastStore} {op : Option Nat} : s.steady (t.remoteWrite core asid sec mask data last op) := by
  unfold State.remoteWrite
  exact State.steady_foldl (fun s r => State.steady_send (State.steady_refl s)) h

theorem State.steady_writeBack (h : s.steady t) {core sec : Nat} : s.steady (t.writeBack core sec) := by
  unfold State.writeBack
  split
  · exact h
  · split
    · exact h
    · have h1 : ∀ (l : List Nat) (p : Nat → L1Sector → Prop) [∀ g y, Decidable (p g y)], s.steady (l.foldl (fun s g =>
          match s.l1 g sec with
          | some y => if p g y then s.setL1 g sec { y with dirty := 0, hold := .clean } else s
          | none => s) t) := fun l p _ => State.steady_foldl (fun s g => by
        split
        · split
          · exact State.steady_setL1 (State.steady_refl s)
          · exact State.steady_refl s
        · exact State.steady_refl s) h
      dsimp only
      split
      · exact State.steady_homeStore (h1 _ _)
      · exact State.steady_remoteWrite (h1 _ _)

theorem State.steady_evictL1 (h : s.steady t) {core sec : Nat} : s.steady (t.evictL1 core sec) :=
  State.steady_delL1 (State.steady_writeBack h)

theorem State.steady_cleanL1s (h : s.steady t) {cores : List Nat} {drop : Bool} {sel : Nat → Bool} :
    s.steady (t.cleanL1s cores drop sel) := by
  unfold State.cleanL1s
  refine State.steady_foldl (fun s g => State.steady_foldl (fun s e => ?_) (State.steady_refl s)) h
  split
  · split
    · exact State.steady_evictL1 (State.steady_refl s)
    · exact State.steady_writeBack (State.steady_refl s)
  · exact State.steady_refl s

theorem State.steady_releaseAt (h : s.steady t) {cores : List Nat} {scope : Nat} : s.steady (t.releaseAt cores scope) := by
  unfold State.releaseAt
  split
  · exact h
  · exact State.steady_cleanL1s h

theorem State.steady_dropClean (h : s.steady t) {cores : List Nat} {sel : Nat → Bool} : s.steady (t.dropClean cores sel) := by
  unfold State.dropClean
  refine State.steady_foldl (fun s g => State.steady_foldl (fun s e => ?_) (State.steady_refl s)) h
  split
  · exact State.steady_refl s
  · split
    · exact State.steady_evictL1 (State.steady_refl s)
    · exact State.steady_setL1 (State.steady_refl s)

theorem State.steady_acquireBy (h : s.steady t) {cores : List Nat} {scope : Nat} {late : Bool} :
    s.steady (t.acquireBy cores scope late) := by
  unfold State.acquireBy
  extract_lets dom sel s1
  have h1 : s.steady s1 := by
    show s.steady (if _ then t.dropClean dom sel else t.cleanL1s dom true sel)
    split
    · exact State.steady_dropClean h
    · exact State.steady_cleanL1s h
  split
  · exact State.steady_staleFills h1
  · exact h1

theorem State.steady_acquireAt (h : s.steady t) {cores : List Nat} {scope : Nat} : s.steady (t.acquireAt cores scope) := by
  unfold State.acquireAt
  split
  · exact h
  · split
    · exact State.steady_acquireBy (State.steady_drawBool h)
    · exact State.steady_acquireBy h

theorem State.steady_l1Room (h : s.steady t) {core sec : Nat} : s.steady (t.l1Room core sec) := by
  unfold State.l1Room
  dsimp only
  split
  · exact h
  · exact State.steady_evictL1 (State.steady_evictL1 (State.steady_drawNat h))

theorem State.steady_obtain (h : s.steady t) {core sec : Nat} {na : Bool} {asid : Nat} : s.steady (t.obtain core sec na asid).2 := by
  unfold State.obtain
  dsimp only
  refine State.steady_foldl_snd (fun x g => ?_) (State.steady_l1Room h)
  split
  · exact State.steady_refl _
  · exact State.steady_delL1 (State.steady_refl _)

theorem State.steady_l1Store (h : s.steady t) {k : Key} {core sec asid : Nat} {hd : BitVec 56} {na : Bool} {mask : SectorMask}
    {data : SectorData} : s.steady (t.l1Store k core sec asid hd na mask data) := State.steady_setL1 (State.steady_obtain h)

theorem State.steady_share (h : s.steady t) {core sec : Nat} : s.steady (t.share core sec) :=
  State.steady_foldl (fun s e => by
    split
    · exact State.steady_refl s
    · exact State.steady_setL1 (State.steady_refl s)) h

theorem State.steady_l1Load (h : s.steady t) {core sec asid : Nat} {na : Bool} {mask : SectorMask} :
    s.steady (t.l1Load core sec asid na mask).2 := by
  unfold State.l1Load
  split
  · split <;> exact h
  · split
    · exact h
    · exact State.steady_setL1 (State.steady_l1Room (State.steady_share h))

theorem State.steady_l1Fill (h : s.steady t) {core sec asid : Nat} {na : Bool} {home : SectorData} :
    s.steady (t.l1Fill core sec asid na home) := by
  unfold State.l1Fill
  extract_lets s1 s2
  have h1 : s.steady s1 := State.steady_share (State.steady_l1Room h)
  have h2 : s.steady s2 := by
    show s.steady (match s1.l1 core sec with
      | none => s1.setL1 core sec (L1Sector.empty na asid)
      | some _ => s1)
    split
    · exact State.steady_setL1 h1
    · exact h1
  exact State.steady_foldl (fun s g => by
    split
    · exact State.steady_setL1 (State.steady_refl s)
    · exact State.steady_refl s) h2

theorem State.steady_homeSector (h : s.steady t) {sec : Nat} : s.steady (t.homeSector sec).2 := by
  unfold State.homeSector
  dsimp only
  split
  · exact State.steady_homeGet h
  · exact h

theorem State.steady_purge (h : s.steady t) {cores : List Nat} {sec : Nat} : s.steady (t.purge cores sec) :=
  State.steady_foldl (fun s _ => State.steady_evictL1 (State.steady_refl s)) h

/-! ## Fetch -/

theorem State.steady_keepCode (h : s.steady t) {core : Nat} {pa : Pair} {w : Word} : s.steady (t.keepCode core pa w) :=
  State.steady_modCore h

theorem State.steady_codeWord (h : s.steady t) {core : Nat} {pa : Pair} {now : Word} : s.steady (t.codeWord core pa now).2 := by
  unfold State.codeWord
  split
  · exact State.steady_keepCode h
  · split
    · exact h
    · dsimp only
      split
      · exact State.steady_drawBool h
      · exact State.steady_keepCode (State.steady_drawBool h)

theorem State.steady_wantSector (h : s.steady t) {core asid sec : Nat} : s.steady (t.wantSector core asid sec) := by
  unfold State.wantSector
  split
  · exact h
  · exact State.steady_send h

theorem State.steady_readCode (h : s.steady t) {core asid : Nat} {pa va : Pair} : s.steady (t.readCode core asid pa va).2 := by
  unfold State.readCode
  split
  · split
    · exact State.steady_codeWord h
    · exact State.steady_setUnbk h
  · split
    · exact h
    · split
      · split
        · exact State.steady_codeWord h
        · exact State.steady_wantSector h
      · exact State.steady_wantSector h

theorem State.steady_fetch (h : s.steady t) {k : Key} {va : Pair} : s.steady (t.fetch k va).2 := by
  have h1 := State.steady_threadTr h (k := k) (va := va) (acc := .fetch)
  unfold State.fetch
  split
  · exact h
  · split
    · rename_i e; rw [e] at h1; exact h1
    · rename_i e; rw [e] at h1; exact State.steady_readCode h1

theorem State.steady_target (h : s.steady t) {k : Key} {w0 : Word} {a : Pair} : s.steady (t.target k w0 a).2 := by
  have h1 := State.steady_fetch h (k := k) (va := a)
  unfold State.target
  split
  · exact h
  · split <;> (rename_i e; rw [e] at h1; exact h1)

/-! ## Cache maintenance and constants -/

theorem State.steady_prefetch (h : s.steady t) {core asid sec : Nat} {l1 : Bool} : s.steady (t.prefetch core asid sec l1) := by
  unfold State.prefetch
  split
  · exact h
  · dsimp only
    split
    · exact State.steady_l1Fill (State.steady_homeSector h)
    · exact State.steady_homeSector h

theorem State.steady_lineAct (h : s.steady t) {k : Key} {ea : Pair} {inv : Bool} {scope : Nat} :
    s.steady (t.lineAct k ea inv scope).1 := by
  have h1 := State.steady_threadTr h (k := k) (va := ea) (acc := .store)
  unfold State.lineAct
  split
  · exact h
  · split
    · rename_i e; rw [e] at h1; exact h1
    · rename_i e
      rw [e] at h1
      have h2 : ∀ (inv : Bool) (cores l : List Nat) (t : State), s.steady t → s.steady (l.foldl (fun s sec =>
          cores.foldl (fun s g => if inv = true then s.evictL1 g sec else s.writeBack g sec) s) t) := fun inv cores l t ht =>
        State.steady_foldl (fun s sec => State.steady_foldl (fun s g => by
          split
          · exact State.steady_evictL1 (State.steady_refl s)
          · exact State.steady_writeBack (State.steady_refl s)) (State.steady_refl s)) ht
      extract_lets cores s1 s2
      have h3 : s.steady s2 := by
        show s.steady (if _ then s1.setUnbk else s1)
        split
        · exact State.steady_setUnbk (h2 inv cores _ _ h1)
        · exact h2 inv cores _ _ h1
      split
      · exact h3
      · refine State.steady_foldl (fun s sec => ?_) h3
        extract_lets l s3
        split
        · exact State.steady_evictHome (State.steady_mergeUpdate (State.steady_refl s))
        · exact State.steady_cleanHome (State.steady_mergeUpdate (State.steady_refl s))

theorem State.steady_constByte (h : s.steady t) {l : ConstSpace} {e : Nat} : s.steady (t.constByte l e).2 := by
  unfold State.constByte
  extract_lets s1 vs
  have h1 : s.steady s1 := by
    show s.steady (if _ then t else t.setUnbk)
    split
    · exact h
    · exact State.steady_setUnbk h
  split
  · exact h
  · split
    · exact h1
    · exact State.steady_drawNat h1

theorem State.steady_constWord (h : s.steady t) {l : ConstSpace} {e : Nat} : s.steady (t.constWord l e).2 :=
  State.steady_constByte (State.steady_constByte (State.steady_constByte (State.steady_constByte h)))

/-! ## What a steady state keeps -/

theorem State.steady_team? (h : s.steady t) (c k : Nat) : t.team? c k = s.team? c k := by
  unfold State.team? State.ctx?
  rw [h.2.1]

theorem State.steady_thread? (h : s.steady t) (k : Key) : t.thread? k = s.thread? k := by
  unfold State.thread?
  rw [State.steady_team? h]

theorem State.steady_member? (h : s.steady t) (m : Nat × Nat) : t.member? m = s.member? m := by
  unfold State.member?
  rw [h.1, State.steady_team? h]

theorem State.steady_sited (h : s.steady t) : t.sited = s.sited := by
  unfold State.sited
  rw [h.1, h.2.2.1]

theorem State.steady_faultOf (h : s.steady t) (i : Instr) (m : Nat × Nat) : t.faultOf i m = s.faultOf i m := by
  unfold State.faultOf
  rw [State.steady_member? h, h.1]

theorem State.steady_stalls (h : s.steady t) (i : Instr) : t.stalls i = s.stalls i := by
  unfold State.stalls
  simp only [State.steady_member? h, State.steady_faultOf h, h.1]

theorem State.steady_ready (h : s.steady t) (i : Instr) : t.ready i = s.ready i := by
  unfold State.ready State.executes
  simp only [State.steady_member? h, State.steady_stalls h, State.steady_sited h, h.1]

theorem State.steady_readyOne (h : s.steady t) {i : Instr} {m : Nat × Nat} {tm : Team} {th : Thread} (hr : s.readyOne i m tm th) :
    t.readyOne i m tm th := by
  unfold State.readyOne at hr ⊢
  rwa [State.steady_ready h, State.steady_member? h, h.1]

theorem State.steady_takes (h : s.steady t) (core : Nat) (th : Thread) (cause : Nat) : t.takes core th cause = s.takes core th cause := by
  unfold State.takes State.vector
  simp only [h.2.2.2]

/-! ## Words of one member whose effect is not confined to its own thread -/

/-- The issue in progress and the groups are the same. -/
def State.rooted (s t : State) : Prop := t.site = s.site ∧ (t.core s.site.core).groups = (s.core s.site.core).groups

theorem State.steady_rooted (h : s.steady t) : s.rooted t := ⟨h.1, h.2.2.1 _⟩

theorem State.rooted_refl (s : State) : s.rooted s := ⟨rfl, rfl⟩

theorem State.rooted_modThread (h : s.rooted t) (k : Key) (f : Thread → Thread) : s.rooted (t.modThread k f) := h
theorem State.rooted_modTeam (h : s.rooted t) (c k : Nat) (f : Team → Team) : s.rooted (t.modTeam c k f) := h
theorem State.rooted_modCtx (h : s.rooted t) (c : Nat) (f : Ctx → Ctx) : s.rooted (t.modCtx c f) := h

/-- The one member that executes a word goes on: everything but its place is what the word makes of the state. -/
theorem State.issueEach_alike (i : Instr) (f : State → Key → Team → Thread → State × Out) {m : Nat × Nat} {tm : Team} {th : Thread}
    (h : s.readyOne i m tm th) {o : Out} (hf : f s (s.key m) tm th = (u, o)) (ho : o.goes = true) (hu : s.rooted u) :
    u.alike (s.issueEach i f) := State.issueEach_goes s i f h hf ho hu.1 hu.2

/-- Where it goes on: where it was settled, or at the start of the same clause. -/
theorem State.issueEach_stands (i : Instr) (f : State → Key → Team → Thread → State × Out) {m : Nat × Nat} {tm : Team} {th y : Thread}
    (h : s.readyOne i m tm th) {o : Out} (hf : f s (s.key m) tm th = (u, o)) (ho : o.goes = true) (hu : s.rooted u)
    (hy : (u.settle i m o).thread? (s.key m) = some y) :
    ∃ x, (s.issueEach i f).thread? (s.key m) = some x ∧ x.pc.orStart y.pc ∧ x.regs = y.regs := by
  have hk : u.key m = s.key m := by unfold State.key; rw [hu.1]
  obtain ⟨_, hall⟩ := State.groupHere_of_sited (State.ready_elim h.1).1
  have hm : m ∈ u.site.all := hu.1 ▸ hall m (by simp [h.2.1])
  have ha := State.issueEach_alike i f h hf ho hu
  have hs := State.alike_settle u i m o ho hm
  rw [State.issueEach_one s i f h, hf] at ha ⊢
  cases hz : u.thread? (s.key m) with
  | none =>
    exfalso
    unfold State.settle State.alive at hy
    simp only [show (⟨u.site.ctx, m.1, m.2⟩ : Key) = s.key m from hk, hz, Option.any_none, Bool.not_false, if_true] at hy
    exact absurd hy (by simp)
  | some z =>
    obtain ⟨x, hx, _⟩ := State.alike_thread? ha hz
    obtain ⟨y', hy', h1, h2⟩ := State.retire_pc u i m o (s.key m) hx
    obtain rfl : y = y' := Option.some.inj (hy.symm.trans hy')
    exact ⟨x, hx, h1, h2⟩

end Sys2Proof.Machine
end

