-- ==== Sys2Proof/Tests/Slice0.lean ====
section
/-! SUPPORT. Tests: the checks of WellFormed, the words of 03 to 19 written out, values that the spec gives, and for every statement
with hypotheses a witness that meets them. `put` places one word as the host does; the witnesses change that state. -/

namespace Sys2Proof.Tests

open Sys2Proof Sys2Proof.Machine

set_option Elab.async false

/-! ## Sample states -/

/-- The word of an instruction placed in a clause of its own. -/
def put (i : Instr) : State :=
  match encode i with
  | [a] => State.reset.placeWords a 0
  | a :: b :: _ => State.reset.placeWords a b
  | [] => State.reset

/-- The placed thread, and the changes of a sample state. -/
def K : Key := ⟨0, 0, 0⟩
def armed (s : State) : State := s.modDie 0 fun d => { d with sysvec := 0x2000 }
def regs (s : State) (l : List (Nat × Word)) : State := s.modThread K fun th => l.foldl (fun t e => t.set e.1 e.2) th
def thr (s : State) (f : Thread → Thread) : State := s.modThread K f
def tm (s : State) (f : Team → Team) : State := s.modTeam 0 0 f
def cx (s : State) (f : Ctx → Ctx) : State := s.modCtx 0 f
def inL1 (s : State) (sec : Nat) (x : L1Sector) : State := s.modCore 0 fun c => { c with l1 := tset c.l1 sec x }
def fpctl (s : State) (v : Word) : State := thr s fun t => { t with view := { t.view with fpctl := v } }

/-- The placed thread, team and context of a sample state, and the state that a step answers. -/
def TH (s : State) : Thread := (s.thread? K).getD (probeThread CtxRegs.reset)
def TM (s : State) : Team := (s.team? 0 0).getD (probeTeam CtxRegs.reset)
def CX (s : State) : Ctx := (s.ctx? 0).getD probeCtx
def next (o : Host.Outcome State Fault Refusal) : State :=
  match o with
  | .next s => s
  | _ => State.reset

/-- The destination of the samples. -/
def D : Dst := ⟨10, false⟩

/-! ## Witnesses about the one member of an issue -/

/-- What must be shown of a sample: the word can execute, the placed thread alone executes it, and a property of it holds. -/
def oneOf (i : Instr) (s : State) (p : Team → Thread → Bool) : Bool :=
  s.ready i && s.site.members == [(0, 0)] && (s.member? (0, 0)).any fun x => p x.1 x.2

theorem one_of {i : Instr} {s : State} {P : Team → Thread → Prop} [∀ t th, Decidable (P t th)]
    (h : oneOf i s (fun t th => decide (P t th)) = true) : ∃ t th, s.readyOne i (0, 0) t th ∧ P t th := by
  simp only [oneOf, Bool.and_eq_true, beq_iff_eq, Option.any_eq_true, decide_eq_true_eq] at h
  obtain ⟨⟨hr, hm⟩, ⟨t, th⟩, hx, hp⟩ := h
  exact ⟨t, th, ⟨hr, hm, hx⟩, hp⟩

/-- The same with the issuing context. -/
theorem one_in {i : Instr} {s : State} {P : Team → Thread → Ctx → Prop} [∀ t th c, Decidable (P t th c)]
    (h : oneOf i s (fun t th => (s.ctx? s.site.ctx).any fun c => decide (P t th c)) = true) :
    ∃ t th c, s.readyOne i (0, 0) t th ∧ s.ctx? s.site.ctx = some c ∧ P t th c := by
  simp only [oneOf, Bool.and_eq_true, beq_iff_eq, Option.any_eq_true, decide_eq_true_eq] at h
  obtain ⟨⟨hr, hm⟩, ⟨t, th⟩, hx, c, hc, hp⟩ := h
  exact ⟨t, th, c, ⟨hr, hm, hx⟩, hc, hp⟩

/-- A value that is there and meets a property. -/
theorem some_of {α : Type} {o : Option α} {P : α → Prop} [∀ x, Decidable (P x)] (h : o.any (fun x => decide (P x)) = true) :
    ∃ x, o = some x ∧ P x := by
  simpa only [Option.any_eq_true, decide_eq_true_eq] using h

/-- A property of whatever is there. -/
theorem all_of {α : Type} {o : Option α} {P : α → Prop} [∀ x, Decidable (P x)] (h : o.all (fun x => decide (P x)) = true) :
    ∀ x, o = some x → P x := by
  intro x hx
  subst hx
  simpa using h

/-- A property of every member that executes the word. -/
theorem members_all {s : State} {P : Team → Thread → Prop} [∀ t th, Decidable (P t th)]
    (h : (s.site.members.all fun m => (s.member? m).all fun x => decide (P x.1 x.2)) = true) :
    ∀ m ∈ s.site.members, ∀ t th, s.member? m = some (t, th) → P t th := by
  intro m hm t th hx
  have h := List.all_eq_true.1 h m hm
  rw [hx] at h
  simpa using h

/-! ## Words that compute -/

/-- Every form of an instruction that only computes a value, and NOP, can execute where it is placed. -/
def computing : List Instr := [.mov D 4, .add D 4 5, .sub D 4 5, .mullo D 4 5, .mulhi D 4 5, .mulhiu D 4 5, .and D 4 5, .or D 4 5, .xor D 4 5,
  .andn D 4 5, .shl D 4 5, .shr D 4 5, .sar D 4 5, .rol D 4 5, .min D 4 5, .max D 4 5, .minu D 4 5, .maxu D 4 5, .slt D 4 5, .sltu D 4 5,
  .seq D 4 5, .absd D 4 5, .clz D 4, .ffs D 4, .popc D 4, .brev D 4, .addi D 4 0xFF, .shli D 4 31, .shri D 4 31, .sari D 4 0, .andi D 4 0xFF,
  .movi D 0xDEADBEEF, .ialui D 4 0x16 77, .sel D 4 5 6, .bfe D 4 true 31 0, .bfi D 4 5 0 31, .add ⟨0, false⟩ 4 5, .add ⟨0, true⟩ 4 5]
def parts : List Instr := [.clzw D 4 1, .ffsw D 4 2, .popcw D 4 0, .padd D 4 5 1, .psub D 4 5 2, .pmin D 4 5 1 false, .pmax D 4 5 2 true,
  .pmul D 4 5 2 true false, .pdot4 D 4 5 6 2 true false, .rqadd D 4 5, .rqsub D 4 5, .rqmul D 4 5, .rqmad D 4 5 6, .rqdec D 4,
  .mad D 4 5 6 0 false, .fneg D 4, .fabs D 4, .fclass D 4]
def pairs : List Instr := [.lea D 4 5, .leax D 4 5 0 3 0xFFF8, .leax D 4 6 2 15 8, .mad D 4 5 6 3 true, .lea ⟨0, false⟩ 4 5]
def conditional : List Instr := [.fadd D 4 5, .fsub D 4 5, .fmul D 4 5, .fmin D 4 5, .fmax D 4 5, .fslt D 4 5, .fsle D 4 5, .fseq D 4 5,
  .fsun D 4 5, .falui D 4 0x30 0x3FC00000, .fopr D 4 5 0x31 1 2, .ffma D 4 5 6 3 1, .dadd D 4 6 0 1, .dsub D 4 6 1 1, .dmul D 4 6 2 0,
  .dfma D 4 6 4 0 1, .dcmp D 4 6 3, .hadd2 D 4 5, .hmul2 D 4 5, .hopr D 4 5 4 0 0 true, .hfma2 D 4 5 6 0 1 true, .frnd D 4 1 3,
  .fcvt D 4 3 2 0 1 false, .ftoi D 4 7 2 0 0 false, .itof D 4 3 3 0 1, .padds D 4 5 2 0 false, .psubs D 4 5 1 3 true, .rqenc D 4 0, .cvti D 4 1 2 0]

theorem witness_IntegerResults : (computing.all fun i => (wordValue i).isSome && (put i).ready i) = true := by decide +kernel
theorem witness_IntegerResults_parts : (parts.all fun i => (partsValue i).isSome && (put i).ready i) = true := by decide +kernel
theorem witness_IntegerResults_pairs : (pairs.all fun i => (pairValue i).isSome && (put i).ready i) = true := by decide +kernel
theorem witness_ConditionalResults : (conditional.all fun i => (condValue i).any fun v =>
    (put i).ready i && (put i).allDelivered (v.2.2 (put i).site.rep)) = true := by decide +kernel

def rq (ovf : BitVec 2) (v : Int) : State := regs (put (.rqenc D 4 ovf)) [(4, BitVec.ofInt 32 v)]
/-- The operand of RQENC. -/
def rqArg (s : State) (th : Thread) : Int := (rd32 s.site.rep th .a 4).toInt

theorem witness_ResidueNumbers_inside : ([-8388480, 8388479].all fun v => oneOf (.rqenc D 4 3) (rq 3 v) fun _ th =>
    decide (((rq 3 v).ctx? 0).map (·.core) = some 0) && decide (¬(rqArg (rq 3 v) th < -8388480 ∨ 8388479 < rqArg (rq 3 v) th))) = true := by
  decide +kernel
theorem witness_ResidueNumbers_clamped : ([-8388481, 8388480].all fun v => oneOf (.rqenc D 4 0) (rq 0 v) fun _ th =>
    decide (((rq 0 v).ctx? 0).map (·.core) = some 0) && decide (rqArg (rq 0 v) th < -8388480 ∨ 8388479 < rqArg (rq 0 v) th) &&
    decide (th.view.fpctl.setWidth 6 &&& 0x30#6 = 0)) = true := by decide +kernel
theorem witness_ResidueNumbers_trapped : ([-8388481, 8388480].all fun v => oneOf (.rqenc D 4 3) (armed (rq 3 v)) fun _ th =>
    decide (rqArg (rq 3 v) th < -8388480 ∨ 8388479 < rqArg (rq 3 v) th) && (armed (rq 3 v)).takes 0 th 0x083) = true := by decide +kernel
/-- PADDS and PSUBS with what they clamp: nothing; something, with no enable; the same under OVF = 11; and with IXE, or SATE, enabled. -/
def clampsOf (sub : Bool) (w : BitVec 2) (u : Bool) (x y : Word) : Nat :=
  let n := packWidth w
  ((List.range (32 / n)).filter fun k => let e := (if sub then element u n x k - element u n y k else element u n x k + element u n y k)
    decide (e < (if u then 0 else -(2 ^ (n - 1))) ∨ (if u then 2 ^ n - 1 else 2 ^ (n - 1) - 1) < e)).length
def saturating (sub : Bool) (ovf : BitVec 2) (v x y : Word) : State :=
  armed (fpctl (regs (put (if sub then .psubs D 4 5 1 ovf false else .padds D 4 5 1 ovf false)) [(4, x), (5, y)]) v)
theorem witness_PackedSaturates : ([true, false].all fun sub =>
    [((0 : BitVec 2), (0 : Word), (0x7FFF7FFF : Word), (0 : Word), 0, 0), (0, 0, 0x80007FFF, if sub then 0x7FFF8000 else 0x80007FFF, 0, 2),
     (3, 0, 0x80007FFF, if sub then 0x7FFF8000 else 0x80007FFF, 0x080, 2), (0, 0x10, 0x80007FFF, if sub then 0x7FFF8000 else 0x80007FFF, 0x074, 2),
     (0, 0x20, 0x80007FFF, if sub then 0x7FFF8000 else 0x80007FFF, 0x075, 2)].all fun x =>
    let i : Instr := if sub then .psubs D 4 5 1 x.1 false else .padds D 4 5 1 x.1 false
    let s := saturating sub x.1 x.2.1 x.2.2.1 x.2.2.2.1
    (s.ctx? s.site.ctx).map (·.core) == some 0 && oneOf i s fun _ th =>
      clampsOf sub 1 false (rd32 s.site.rep th .a 4) (rd32 s.site.rep th .b 5) == x.2.2.2.2.2 &&
      ((th.view.fpctl.setWidth 6 &&& 0x30#6 == 0#6) == (x.2.2.2.2.1 == 0 || x.2.2.2.2.1 == 0x080)) && (x.2.2.2.2.1 == 0 || s.takes 0 th x.2.2.2.2.1)) = true := by decide +kernel
theorem witness_PackedSaturates_ovf : ([1, 2].all fun ovf => let s := armed (put (.padds D 4 5 1 ovf false))
    s.sited && s.site.members == [(0, 0)] && s.site.cls == .alu && decide (s.site.wi + 1 ≤ s.site.count) && (s.member? (0, 0)).any fun x =>
      x.2.run == .issuing && s.takes 0 x.2 0x001) = true := by decide +kernel
theorem witness_ResidueNumbers_range : rqDecode (rqEncode (-8388480)) = -8388480 ∧ rqDecode (rqEncode 8388479) = 8388479 := by decide +kernel

/-- NaN operands of the compares, with no enable. -/
def compares : List Instr := [.fslt D 4 5, .fsle D 4 5, .fseq D 4 5, .fsun D 4 5]
theorem witness_FloatCompares : (compares.all fun i => (compareOf i).any fun v =>
    let s := regs (put i) [(4, 0x7FC00000), (5, 0x80000000)]
    s.ready i && s.site.members.all fun m => (s.member? m).all fun x => (nanWord (rd32 s.site.rep x.2 .a v.2.1) ||
      nanWord (rd32 s.site.rep x.2 .b v.2.2.1)) && !(x.2.view.fpctl.getLsbD 0)) = true := by decide +kernel

/-- A value that is a finite number. -/
theorem is_fin (neg : Bool) (m : Nat) (e : ℤ) : (FV.fin neg m e).is ((if neg then -1 else 1) * m * (2 : ℝ) ^ e) := ⟨neg, m, e, rfl, rfl⟩
theorem f32_is {x : Nat} {neg : Bool} {m : Nat} {e : ℤ} {a : ℝ} (h : f32.value x = .fin neg m e) (ha : a = (if neg then -1 else 1) * m * (2 : ℝ) ^ e) :
    (f32.value x).is a := h ▸ ha ▸ is_fin neg m e

/-- Patterns at the ends of a format; the numbers −1/2, 2^−149, 2^127, 128 and 0 as operands; integers at the ends of their types. -/
theorem witness_FloatCompares_patterns : f16.listed ∧ 0xFFFF < 2 ^ (f16.eb + f16.mb + 1) ∧ (3#3).toNat < 4 ∧ (7#4).toNat < 8 ∧
    (specialRow 1 0x80000001).isSome = true ∧ (specialRow 5 0x80000000).isSome = true ∧ (specialRow 3 0xFF800000).isSome = true :=
  ⟨.inl rfl, by decide, by decide, by decide, by decide, by decide, by decide⟩
theorem witness_FloatCompares_numbers : (f32.value 0xBF000000).is (-1 / 2) ∧ (f32.value 0x43000000).is 128 ∧ (f32.value 1).is ((2 : ℝ) ^ (-149 : ℤ)) ∧
    |(2 : ℝ) ^ (-149 : ℤ)| < (2 : ℝ) ^ (-128 : ℤ) ∧ (f32.value 0xC3150000).is ((-149 : ℤ) : ℝ) ∧ (f32.value 0x42FE0000).is ((127 : ℤ) : ℝ) := by
  refine ⟨f32_is (neg := true) (m := 2 ^ 23) (e := -24) (by decide +kernel) (by norm_num), f32_is (neg := false) (m := 2 ^ 23) (e := -16) (by decide +kernel) (by norm_num),
    f32_is (neg := false) (m := 1) (e := -149) (by decide +kernel) (by norm_num), ?_, f32_is (neg := true) (m := 149 * 2 ^ 16) (e := -16) (by decide +kernel) (by norm_num),
    f32_is (neg := false) (m := 127 * 2 ^ 17) (e := -17) (by decide +kernel) (by norm_num)⟩
  rw [abs_of_pos (by positivity)]
  exact zpow_lt_zpow_right₀ (by norm_num) (by norm_num)

/-- Operands 2, 1 and −1, and 0. -/
theorem witness_RoundingModes_operands : f32.listed ∧ (f32.value 0x40000000).is 2 ∧ (f32.value 0x3F800000).is 1 ∧ (f32.value 0xBF800000).is (-1) ∧ (f32.value 0).is 0 ∧
    (2 : ℝ) + 1 ≠ 0 ∧ (2 : ℝ) - 1 ≠ 0 ∧ (2 : ℝ) * 1 ≠ 0 ∧ (2 : ℝ) * 1 + (-1) ≠ 0 ∧ (0 : ℝ) < 2 ∧ (1 : ℝ) + (-1) = 0 ∧ (2 : ℝ) * 0 = 0 :=
  ⟨.inr (.inr (.inl rfl)), f32_is (neg := false) (m := 2 ^ 23) (e := -22) (by decide +kernel) (by norm_num),
    f32_is (neg := false) (m := 2 ^ 23) (e := -23) (by decide +kernel) (by norm_num), f32_is (neg := true) (m := 2 ^ 23) (e := -23) (by decide +kernel) (by norm_num),
    f32_is (neg := false) (m := 0) (e := -149) (by decide +kernel) (by norm_num), by norm_num, by norm_num, by norm_num, by norm_num, by norm_num, by norm_num, by norm_num⟩

/-- Arguments that are neither special nor exact, of each special function: 3, 2 − 2^−23 and, of FEX2, its largest and a negative one. -/
theorem witness_FloatCompares_bound : ((List.range 6).all fun fn => [(0x40400000, false, 3 * 2 ^ 22, -22), (0x3FFFFFFF, false, 2 ^ 24 - 1, -23)].all fun x =>
    (specialRow fn (BitVec.ofNat 32 x.1)).isNone && f32.value (BitVec.ofNat 32 x.1).toNat == .fin x.2.1 x.2.2.1 x.2.2.2) = true ∧
    (3 * 2 ^ 22 : ℝ) * (2 : ℝ) ^ (-22 : ℤ) < 128 ∧ (2 : ℝ) ^ (-128 : ℤ) ≤ |(3 * 2 ^ 22 : ℝ) * (2 : ℝ) ^ (-22 : ℤ)| ∧ ¬exactArg 4 0x40400000 := by
  refine ⟨by decide +kernel, by norm_num, ?_, ?_⟩
  · rw [abs_of_pos (by positivity)]
    exact (zpow_le_one_of_nonpos₀ (by norm_num) (by norm_num)).trans (by norm_num)
  · rintro ⟨n, -, -, h | h | h | h⟩ <;> exact absurd h.1 (by decide)
theorem witness_FloatCompares_order : f64.listed ∧ 0x8000000000000000 < 2 ^ (f64.eb + f64.mb + 1) ∧ (f32.value 0xBF800000).is (-1) ∧ (f32.value 0x3F800000).is 1 :=
  ⟨.inr (.inr (.inr rfl)), by decide, witness_RoundingModes_operands.2.2.2.1, witness_RoundingModes_operands.2.2.1⟩

/-- A tie of F32, and its two neighbours. -/
theorem witness_RoundingModes : ([0, 1, 2, 3].all fun rm => [true, false].all fun neg =>
    (f32.round rm 1 0 neg 0x1000001 (-24)).flags.getLsbD 2 == false &&
    [0x3F800000, 0x3F800001].all fun b => match f32.value (b + if neg then 2 ^ 31 else 0) with
      | .fin n _ _ => n == neg
      | _ => false) = true := by decide +kernel

/-- A second thread of the placed team, and a group of both in which only the first executes. -/
def two (s : State) (f : Thread → Thread) : State :=
  tm s fun t => { t with threads := t.threads ++ [(1, f { probeThread CtxRegs.reset with run := .runnable })] }
def behind (i : Instr) : State :=
  let s := two (put i) fun th => { th with run := .issuing, pc := ⟨0x1008, 0⟩ }
  let s := s.modCore 0 fun c => { c with groups := tmod c.groups 0 fun g => { g with members := [(0, 0), (0, 1)], cols := [0, 1] } }
  match s.groupOf s with
  | some g => { s with site := g.site 0 0 [(0, 0)] s.site.w0 }
  | none => s

theorem witness_WordsAdvance : let s := behind (.add D 4 5)
    computes (.add D 4 5) ∧ s.ready (.add D 4 5) = true ∧ s.site.rep = none ∧ ∃ g, s.groupOf s = some g ∧ (0, 1) ∈ g.members ∧
      ∀ n ∈ g.members, n ∉ s.site.members → (s.thread? (s.key n)).map (·.pc) = some (if s.site.count < s.site.wi + 1 then ⟨s.site.following, 0⟩
        else ⟨s.site.h, s.site.wi + 1⟩) :=
  ⟨.inl rfl, by decide +kernel, by decide +kernel, some_of (by decide +kernel)⟩

/-- One word of each kind that carries on. -/
theorem witness_WordsAdvance_each : ([Instr.yield, .jset 15, .testf D 4, .flgclr 0x3F, .fadd D 4 5, .frcp D 4, .ballot D 4].all fun i => let s := put i
      s.ready i && s.site.rep.isNone && (s.groupOf s).any (·.members == s.site.members) &&
      ((condValue i).elim true fun v => s.allDelivered (v.2.2 s.site.rep)) && ((sfuValue i).elim true fun v => s.site.members.all fun m =>
        (s.member? m).all fun x => (v.2.2 s.site.rep x.2).trap.isNone && x.2.view.fpctl.setWidth 6 == 0#6) &&
      s.site.members.all fun m => (s.member? m).all fun x => x.2.count 7 == 0) = true := by decide +kernel

/-- An octet that is not aligned, one beyond an allocation of 127, and the last one. -/
theorem witness_RegistersRead_any : ([(124, 128), (120, 127), (120, 128)].all fun x => let i : Instr := .qpop ⟨x.1, false⟩
    let st := (put i).site
    st.rep.isNone && (wordQual i st).isNone && !(unwrittenLatch i (TH (put i))) && !(repMisuse i none st.count st.wi (encode i).length) &&
      (opds i).any fun o => o.sel.toNat == x.1.toNat && o.words == 8 && decide (x.1.toNat < x.2) &&
        ((x.1.toNat % 8 == 0) == (x.1 != 124)) && (decide (x.1.toNat + 8 ≤ x.2) == (x.1 == 120 && x.2 == 128))) = true := by decide +kernel
theorem witness_RegistersRead_beyond : let i : Instr := .add ⟨127, false⟩ 4 5
    (put i).site.rep = none ∧ wordQual i (put i).site = none ∧ (4#8).toNat < 128 ∧ 127 ≤ (127#7).toNat := by decide +kernel
theorem witness_RegistersRead_odd : let i : Instr := .lea ⟨125, false⟩ 4 5
    (put i).site.rep = none ∧ wordQual i (put i).site = none ∧ (125#7).toNat < 126 ∧ (125#7).toNat % 2 = 1 := by decide +kernel

/-! ## Traps -/

/-- Words that raise a trap of their own: an odd pair, a register beyond the allocation, an unwritten latch, a wrong class, a reserved
width and a reserved space. -/
def faulty : List (Instr × State × Nat) :=
  [(.lea ⟨11, false⟩ 4 5, put (.lea ⟨11, false⟩ 4 5), 0x012),
   (.add ⟨8, false⟩ 4 5, tm (put (.add ⟨8, false⟩ 4 5)) fun t => { t with n := 8 }, 0x011),
   (.add D 0x80 5, put (.add D 0x80 5), 0x005),
   (.ldg D 4 0, { put (.add D 4 5) with site := (put (.add D 4 5)).site }, 0x004),
   (.clzw D 4 3, put (.clzw D 4 3), 0x001),
   (.copy D 6 4 7 0 1 0 7 1 2 0 0, put (.copy D 6 4 7 0 1 0 7 1 2 0 0), 0x001)]

theorem witness_FaultingWordsTrap : (faulty.all fun e => let s := armed e.2.1
    e.1.isTurn == false && s.sited && s.site.members == [(0, 0)] && (s.ctx? s.site.ctx).map (·.core) == some 0 && (s.member? (0, 0)).any fun x =>
      x.2.run == .issuing && wordFault e.1 s.site x.2 x.1.n == some e.2.2 && s.takes 0 x.2 e.2.2) = true := by decide +kernel
theorem witness_FaultingWordsTrap_reserved : (let s := armed (put .nop)
    s.sited && s.site.members == [(0, 0)] && (s.ctx? s.site.ctx).map (·.core) == some 0 &&
      (s.member? (0, 0)).any fun x => x.2.run == .issuing && s.takes 0 x.2 0) = true := by decide +kernel

/-- A result that OVF = 11 traps, and one that FPCTL enables: its second condition. -/
theorem witness_ConditionsTrap : let i : Instr := .ftoi D 4 2 2 0 3 false
    let s := armed (regs (put i) [(4, 0x7FC00000)])
    ∃ t th, s.readyOne i (0, 0) t th ∧ (s.ctx? s.site.ctx).map (·.core) = some 0 ∧
      ((condValue i).map fun v => (v.2.2 s.site.rep th).trap) = some (some 0x081) ∧ s.takes 0 th 0x081 = true :=
  one_of (by decide +kernel)
theorem witness_ConditionsTrap_enabled : let i : Instr := .fmul D 4 5
    let s := armed (fpctl (regs (put i) [(4, 0x7F7FFFFF), (5, 0x7F7FFFFF)]) 0x14)
    ∃ t th, s.readyOne i (0, 0) t th ∧ (s.ctx? s.site.ctx).map (·.core) = some 0 ∧ s.takes 0 th 0x072 = true ∧
      let r := ((condValue i).map fun v => v.2.2 s.site.rep th).getD (.ok 0)
      r.trap = none ∧ ∃ k < 6, 0x072 = 0x070 + k ∧ th.view.fpctl.getLsbD k = true ∧ r.flags.getLsbD k = true ∧
        ∀ j < k, ¬(th.view.fpctl.getLsbD j = true ∧ r.flags.getLsbD j = true) :=
  one_of (by decide +kernel)

/-- A division by 0 of SFU, and the sum of the two infinities in REDUX: enabled, and as OVF = 11 traps an overflow. -/
theorem witness_ConditionsTrap_sfu : let i : Instr := .frcp D 4
    let s := armed (fpctl (put i) 0x02)
    ∃ t th, s.readyOne i (0, 0) t th ∧ (s.ctx? s.site.ctx).map (·.core) = some 0 ∧ s.takes 0 th 0x071 = true ∧
      let r := ((sfuValue i).map fun v => v.2.2 s.site.rep th).getD (.ok 0)
      r.trap = none ∧ ∃ k < 6, 0x071 = 0x070 + k ∧ th.view.fpctl.getLsbD k = true ∧ r.flags.getLsbD k = true ∧
        ∀ j < k, ¬(th.view.fpctl.getLsbD j = true ∧ r.flags.getLsbD j = true) :=
  one_of (by decide +kernel)

theorem witness_UserTraps_trap : let s := armed (put (.trap 4 15))
    ∃ t th, s.readyOne (.trap 4 15) (0, 0) t th ∧ (s.ctx? s.site.ctx).map (·.core) = some 0 ∧ s.takes 0 th 0x12F = true :=
  one_of (by decide +kernel)
theorem witness_UserTraps_bkpt : let s := armed (put (.bkpt 255))
    ∃ t th, s.readyOne (.bkpt 255) (0, 0) t th ∧ th.view.dbgctl.getLsbD 0 = true ∧ s.takes 0 th 0x110 = true :=
  one_of (by decide +kernel)
theorem witness_UserTraps_nop : (put .nop).ready .nop = true := by decide +kernel
theorem witness_UserTraps_off : let s := thr (put (.bkpt 0)) fun t => { t with view := { t.view with dbgctl := 0 } }
    s.ready (.bkpt 0) = true ∧ ∀ m ∈ s.site.members, ∀ t th, s.member? m = some (t, th) → th.view.dbgctl.getLsbD 0 = false :=
  ⟨by decide +kernel, members_all (P := fun _ th => th.view.dbgctl.getLsbD 0 = false) (by decide +kernel)⟩

/-- A launch for the placed team, whose index is 0. -/
def launch0 : Launch :=
  { queue := 0, slot := 0, die := 0, asid := 1, packet := List.replicate 16 0, konst := ConstSpace.none, compl := [], nextCluster := 1
    clusters := 1, teamsLeft := 1, aborted := false, abort := none, nrep := 0, reports := [], refused := none, failed := false, done := false
    prio := 0, ready := 1, waited := none, writing := false }

theorem witness_TrapsAndReturns : let s := armed (put .nop)
    ∃ th, s.thread? K = some th ∧ (s.ctx? 0).map (·.core) = some 0 ∧ th.run ≠ .ended ∧ s.takes 0 th 511 = true ∧ 511 < 512 ∧ 15 < 16 :=
  some_of (by decide +kernel)
theorem witness_TrapsAndReturns_nested : (let s := { thr (put .nop) (fun t => { t with estat := 0x40123 }) with launches := [(0, launch0)] }
    (s.team? 0 0).any fun t => (s.ctx? 0).isSome && (t.threads.map (·.1)).Nodup && (tget s.launches t.launch).any (fun l => l.abort == none) &&
      (tget t.threads 0).any fun th => th.run != .ended && th.inh) = true := by decide +kernel
theorem witness_TrapsAndReturns_return : let s := thr (put .tret) fun t => { t with priv := true, estat := 0x7C311, epc := 0x00FFFFFFFFFFFFC }
    ∃ t th, s.readyOne .tret (0, 0) t th ∧ th.inh = true ∧ codeAddr th.epc = true ∧ (s.ctx? s.site.ctx).map (·.core) = some 0 :=
  one_of (by decide +kernel)
theorem witness_TrapsAndReturns_outside : let s := armed (put .tret)
    ∃ t th, s.readyOne .tret (0, 0) t th ∧ th.inh = false ∧ s.takes 0 th 0x103 = true ∧ (s.ctx? s.site.ctx).map (·.core) = some 0 :=
  one_of (by decide +kernel)

/-! ## Control -/

/-- A header placed at an address. -/
def code (s : State) (a : Nat) (w : Word) : State := s.modPkg fun p => { p with hbm := hwriteN p.hbm a 4 w.toNat }
/-- The transfers, each with its operand pair, to 0x2000 or to a clause by displacement. -/
def transfers : List (Instr × Nat) := [(.br 6 0 0 0x30, 0x10C0), (.call D 0xFFFFFFF0, 0xFC0), (.brx 4, 0x2000), (.callx ⟨4, false⟩ 4, 0x2000),
  (.ret 4, 0x2000)]

theorem witness_ControlTransfers : ([0x10001, 0x00001].all fun w => transfers.all fun e =>
    let s := armed (code (regs (put e.1) [(4, 0x2000)]) e.2 w)
    oneOf e.1 s fun _ th => transferTo s.site th e.1 == some (BitVec.ofNat 64 e.2) && canonical (BitVec.ofNat 64 e.2) && e.2 % 4 == 0 &&
      (s.fetch (s.key (0, 0)) (BitVec.ofNat 64 e.2)).1 == .word w && s.takes 0 th 0x008) = true := by decide +kernel
theorem witness_ControlTransfers_falls : let i : Instr := .br 0 4 0 0x30
    let s := regs (put i) [(4, 1)]
    ∃ t th, s.readyOne i (0, 0) t th ∧ transferTo s.site th i = none := one_of (by decide +kernel)
theorem witness_ControlTransfers_bad : ([(0x2002, 0), (0, 0x01000000)].all fun a => [Instr.brx 4, .callx D 4, .ret 4].all fun i =>
    let s := armed (regs (put i) [(4, a.1), (5, a.2)])
    oneOf i s fun _ th => (transferTo s.site th i).any (fun x => !(canonical x) || x.toNat % 4 != 0) && s.takes 0 th 0x02C) = true := by
  decide +kernel

/-- A thread that waits at barrier 15, and one that is expected there. -/
def atBar (th : Thread) : Thread := { th.setBar 15 .arrived with run := .waiting (.barrier 15 ⟨0x1000, 2⟩ false) }
theorem witness_JoinBarriers_set : ∃ t th, (put (.jset 15)).readyOne (.jset 15) (0, 0) t th ∧ True := one_of (by decide +kernel)
theorem witness_JoinBarriers_drop : let s := two (put (.jdrop 15)) atBar
    ∃ t th, s.readyOne (.jdrop 15) (0, 0) t th ∧ s.inFlight (s.key (0, 0)) = false ∧ (t.threads.map (·.1)).Nodup := one_of (by decide +kernel)
theorem witness_JoinBarriers_wait : let s := two (put (.jwait 15)) fun th => th.setBar 15 .expected
    ∃ t th, s.readyOne (.jwait 15) (0, 0) t th ∧ s.inFlight (s.key (0, 0)) = false ∧ (t.threads.map (·.1)).Nodup ∧
      t.expectsOther 0 15 = true ∧ ∃ e ∈ t.threads, e.1 ≠ 0 ∧ e.2.run ≠ .ended ∧ e.2.atBarrier = none := one_of (by decide +kernel)
theorem witness_JoinBarriers_last : let s := two (put (.jwait 15)) atBar
    ∃ t th, s.readyOne (.jwait 15) (0, 0) t th ∧ s.inFlight (s.key (0, 0)) = false ∧ (t.threads.map (·.1)).Nodup ∧
      t.expectsOther 0 15 = false := one_of (by decide +kernel)

/-- JWAIT by the one thread that is at no barrier, of threads that wait for one another: the lowest TID, 0 or the issuing one's, traps. -/
theorem witness_JoinBarriers_cycle : ([0, 1].all fun tid =>
    let s := armed (put (.jwait 15))
    let w := fun th : Thread => { (th.setBar 3 .arrived).setBar 15 .expected with run := .waiting (.barrier 3 ⟨0x1008, 1⟩ true), pc := ⟨0x1004, 1⟩ }
    let me := (TH s).setBar 3 .expected
    let s := tm s fun t => { t with threads := if tid = 0 then [(0, me), (1, w me)] else [(0, { me with run := .ended }), (1, w me), (2, me)] }
    let n := if tid = 0 then 0 else 2
    let s := s.modCore 0 fun c => { c with groups := tmod c.groups 0 fun g => { g with members := [(0, n)], cols := [n] } }
    let s := { s with site := { s.site with members := [(0, n)], all := [(0, n)] } }
    s.ready (.jwait 15) && s.site.members == [(0, n)] && (s.ctx? s.site.ctx).map (·.core) == some 0 && (s.member? (0, n)).any fun x =>
      !(s.inFlight (s.key (0, n))) && x.1.expectsOther n 15 && decide ((x.1.threads.map (·.1)).Pairwise (· < ·)) &&
      (x.1.threads.all fun e => e.1 == n || e.2.run == .ended || e.2.atBarrier.isSome) &&
      let y := { x.2.setBar 15 .arrived with run := .waiting (.barrier 15 (afterWord s.site.h s.site.count s.site.wi 1) s.site.cls.latched), pc := ⟨s.site.h, s.site.wi⟩ }
      (tget (tset x.1.threads n y) tid).any fun z => z.atBarrier.isSome && s.takes 0 z 0x0A0 &&
        (tset x.1.threads n y).all fun e => e.2.run == .ended || decide (tid ≤ e.1)) = true := by decide +kernel

theorem witness_ThreadsEnd : let s := two (put .exit) id
    ∃ t th, s.readyOne .exit (0, 0) t th ∧ (t.threads.map (·.1)).Nodup ∧ ∃ e ∈ t.threads, e.1 ≠ 0 ∧ e.2.run ≠ .ended ∧ e.2.atBarrier = none :=
  one_of (by decide +kernel)
/-- The last thread of a team, its others ended. -/
theorem witness_ThreadsEnd_last : ([Instr.exit, .tail 4 true].all fun i => let s := two (put i) fun th => { th with run := .ended }
    oneOf i s fun t _ => decide (t.threads.map (·.1)).Nodup && t.threads.all fun e => e.1 == 0 || e.2.run == .ended) = true := by decide +kernel
theorem witness_ThreadsEnd_tail : ([(0x4040, true), (0x4020, false)].all fun a =>
    let s := two (armed (regs (put (.tail 4 true)) [(4, a.1)])) id
    oneOf (.tail 4 true) s fun t th => decide (t.threads.map (·.1)).Nodup && ((rd64 s.site.rep th .a 4).toNat % 64 == 0) == a.2 &&
      s.takes 0 th 0x0F1 && t.threads.any fun e => e.1 != 0 && e.2.run != .ended && e.2.atBarrier.isNone) = true := by decide +kernel

theorem witness_YieldsAndRepeats : ∃ t th, (put .yield).readyOne .yield (0, 0) t th ∧ True := one_of (by decide +kernel)
theorem witness_YieldsAndRepeats_rep : let s := put (.rep 63 15)
    ∃ t th, s.readyOne (.rep 63 15) (0, 0) t th ∧ th.pc = ⟨s.site.h, 1⟩ ∧ (s.groupOf s).map (fun g => g.cols.length == g.members.length) = some true :=
  one_of (by decide +kernel)

/-- A word under REP, with repeats left to do and at its last. -/
theorem witness_YieldsAndRepeats_each : ([0, 2, 3].all fun k => let i : Instr := .add D 4 5
    let s := thr (put i) fun th => { th with repidx := k }
    let s := s.modCore 0 fun c => { c with groups := tmod c.groups 0 fun g => { g with rep := some ⟨4, 5⟩, wi := 1, count := 2 } }
    let s := { s with site := { s.site with rep := some ⟨4, 5⟩, wi := 2, count := 2 } }
    (wordValue i).isSome && s.ready i && s.site.rep == some ⟨4, 5⟩ && (s.groupOf s).any (·.members == s.site.members) &&
      (s.thread? (s.key (0, 0))).any fun th => (decide (th.repidx.toNat + 1 < 4) == (k != 3))) = true := by decide +kernel
theorem witness_YieldsAndRepeats_steps : (4#8 : Sel).toNat < 128 ∧ (⟨4, 5⟩ : Rep).step.getLsbD 0 = true ∧ (⟨4, 5⟩ : Rep).step.getLsbD 1 = false := by decide

/-- A RUNNING future of the placed team. -/
def running : Future := ⟨.running, 5, 1, 0, false, 0x77⟩
theorem witness_FutureWords_wait : let s := regs (put (.waitf D 4 true)) [(4, 0x0ABCDEF1)]
    ∃ t th, s.readyOne (.waitf D 4 true) (0, 0) t th ∧ (rd32 s.site.rep th .a 4).extractLsb' 28 4 = 0 := one_of (by decide +kernel)
theorem witness_FutureWords_test : let s := thr (put (.testf D 4)) fun t => { t with pend := [(4, .future 3 5)] }
    ∃ t th, s.readyOne (.testf D 4) (0, 0) t th ∧ (tget th.pend 4).isSome = true := one_of (by decide +kernel)
theorem witness_FutureWords_move : ∃ t th, (put (.movf D 4)).readyOne (.movf D 4) (0, 0) t th ∧ th.pendingOn 4 = none := one_of (by decide +kernel)
theorem witness_FutureWords_pending : let s := thr (put (.movf D 4)) fun t => { t with pend := [(4, .future 3 5)] }
    ∃ t th, s.readyOne (.movf D 4) (0, 0) t th ∧ th.pendingOn 4 = some (.future 3 5) ∧ D.nw = false ∧ D.r ≠ 0 := one_of (by decide +kernel)
theorem witness_FutureWords_trap : let s := armed (regs (put (.waitf D 4 true)) [(4, 0x1ABCDEF1)])
    ∃ t th, s.readyOne (.waitf D 4 true) (0, 0) t th ∧ (rd32 s.site.rep th .a 4).extractLsb' 28 4 ≠ 0 ∧ s.takes 0 th 0x0B1 = true :=
  one_of (by decide +kernel)
theorem witness_FutureWords_cancel : let s := thr (put (.cancelf 4 false)) fun t => { t with pend := [(4, .future 3 5)] }
    ∃ t th c, s.readyOne (.cancelf 4 false) (0, 0) t th ∧ s.ctx? s.site.ctx = some c ∧ th.pendingOn 4 = some (.future 3 5) := one_in (by decide +kernel)
theorem witness_FutureWords_release : let s := cx (regs (put (.cancelf 4 true)) [(4, 0x10030005)]) fun c => { c with futures := [(3, running)] }
    ∃ t th c, s.readyOne (.cancelf 4 true) (0, 0) t th ∧ s.ctx? s.site.ctx = some c ∧ tget c.futures 3 = some running := one_in (by decide +kernel)

/-! ## System words -/

/-- The placed thread at supervisor level, and one at user level with a handler. -/
def supervisor (s : State) : State := thr s fun t => { t with priv := true }

/-- The registers that R267 names. -/
def sysNumbers : List (BitVec 16) := [0x00, 0x01, 0x02, 0x03, 0x04, 0x05, 0x06, 0x07, 0x10, 0x11, 0x12, 0x13, 0x14, 0x15, 0x16, 0x17, 0x20,
  0x21, 0x22, 0x23, 0x24, 0x25, 0x26, 0x27, 0x30, 0x31, 0x32, 0x33, 0x34, 0x35, 0x36, 0x37, 0x38, 0x100, 0x101]
theorem witness_SystemRegisters_read : (sysNumbers.all fun n => let s := supervisor (put (.sysrd D n))
    oneOf (.sysrd D n) s fun t th => (s.ctx? s.site.ctx).any fun c => th.priv && th.count 7 == 0 &&
      (sysValues s (0, 0) t th c).any (·.1 == n.toNat)) = true := by decide +kernel
theorem witness_SystemRegisters_write : (sysNumbers.all fun n =>
    oneOf (.syswr 4 n) (supervisor (put (.syswr 4 n))) fun _ th => th.priv) = true := by decide +kernel
theorem witness_SystemRegisters_pop : ∃ t th, (put (.flogpop 4)).readyOne (.flogpop 4) (0, 0) t th ∧ True := one_of (by decide +kernel)
theorem witness_SystemRegisters_perm : ([0x07, 0x16, 0x17, 0x100, 0x101, 0x102].all fun n =>
    [Instr.sysrd D n, if n = 0x102 then .abort 4 else .syswr 4 n].all fun i => oneOf i (armed (put i)) fun _ th =>
      supervisorOnly n.toNat && th.priv == false && (armed (put i)).takes 0 th 0x044) = true := by decide +kernel
theorem witness_SystemRegisters_abort : let s := { supervisor (put (.abort 4)) with launches := [(0, launch0)] }
    ∃ t th, s.readyOne (.abort 4) (0, 0) t th ∧ th.priv = true ∧ (tget s.launches t.launch).map (·.abort) = some none ∧
      (t.threads.map (·.1)).Nodup := one_of (by decide +kernel)

theorem witness_ClocksAndFlags_clock : ([0, 1].all fun ctr => oneOf (.clock D ctr) (put (.clock D ctr)) fun _ _ =>
    ((put (.clock D ctr)).ctx? 0).map (·.core) == some 0) = true := by decide +kernel
theorem witness_ClocksAndFlags_flags : ([0, 1, 2].all fun sc => oneOf (.flags D sc) (put (.flags D sc)) fun _ th => th.count 7 == 0) = true := by
  decide +kernel
theorem witness_ClocksAndFlags_clear : ∃ t th, (put (.flgclr 0x3F)).readyOne (.flgclr 0x3F) (0, 0) t th ∧ th.count 7 = 0 := one_of (by decide +kernel)

/-- The SFU words whose result does not rest on a value that R121 leaves open. -/
def sfuWords : List Instr := [.frcp D 4, .frsq D 4, .fex2 D 4, .flg2 D 4, .fsin D 4, .fcos D 4, .fdiv D 4 6 0 0 1, .fdiv D 4 6 1 3 2,
  .fsqrt D 4 0 0 1, .fsqrt D 4 2 3 1]
theorem witness_SpecialFunctionResults : (sfuWords.all fun i => [0, 0x20].all fun v =>
    let s := fpctl (regs (put i) [(4, 0), (5, 0x7FF00000), (6, 0x3F800000)]) v
    oneOf i s fun _ th => ((sfuValue i).map fun f => (f.2.2 s.site.rep th).trap.isNone).getD false || v != 0) = true := by decide +kernel
theorem witness_SpecialFunctionResults_enabled : let i : Instr := .fsqrt D 4 0 0 1
    let s := fpctl (regs (put i) [(4, 0x40000000)]) 0x20
    ∃ t th, s.readyOne i (0, 0) t th ∧ th.view.fpctl.setWidth 6 ≠ 0#6 ∧
      ((sfuValue i).map fun f => ((f.2.2 s.site.rep th).trap, (f.2.2 s.site.rep th).delivered th.view.fpctl)) = some (none, true) :=
  one_of (by decide +kernel)

/-- Three threads in a group. -/
def three (i : Instr) : State :=
  let s := put i
  let s := tm s fun t => { t with threads := [(0, TH s), (1, TH s), (2, (TH s).set 4 5)] }
  let s := s.modCore 0 fun c => { c with groups := tmod c.groups 0 fun g => { g with members := [(0, 0), (0, 1), (0, 2)], cols := [0, 1, 2] } }
  { s with site := { s.site with members := [(0, 0), (0, 1), (0, 2)], all := [(0, 0), (0, 1), (0, 2)] } }
def laneWords : List Instr := [.ballot D 4, .any D 4, .all D 4, .gpos D, .gsize D, .member D 4, .shfl D 4 5 0 5, .shfl D 4 5 1 5, .shfl D 4 5 2 1,
  .shfl D 4 5 3 0]
theorem witness_CrossLaneResults : (laneWords.all fun i => (laneValue i).isSome && (three i).ready i) = true := by decide +kernel
theorem witness_CrossLaneResults_redux : ([0, 1, 2].all fun ty => let i : Instr := .redux D 4 ty 0 0 (if ty = 2 then 1 else 0)
    let s := three i
    s.ready i && (reduxOf ty 0 0 (if ty = 2 then 1 else 0) (s.lanes 4 4)).trap.isNone &&
      s.site.members.all fun m => (s.member? m).all fun x => x.2.view.fpctl.setWidth 6 == 0#6) = true := by decide +kernel

/-- REDUX of both infinities where IV is enabled, and of two that overflow where OVF = 11 traps that. -/
theorem witness_ConditionsTrap_redux : ([(0x7F800000, 0xFF800000, 1, 0x070), (0x7F7FFFFF, 0x7F7FFFFF, 3, 0x076)].all fun x =>
    let i : Instr := .redux D 4 2 0 0 x.2.2.1
    let s := armed (three i)
    let s := tm s fun t => { t with threads := [(0, ((TH s).set 4 x.1)), (1, (TH s).set 4 x.2.1), (2, TH s)].map fun e =>
      (e.1, { e.2 with view := { e.2.view with fpctl := if x.2.2.1 = 1 then 1 else 0 } }) }
    let r := reduxOf 2 0 0 x.2.2.1 (s.lanes 4 4)
    s.ready i && (s.ctx? s.site.ctx).map (·.core) == some 0 && s.site.members.all fun m => (s.member? m).all fun y => s.takes 0 y.2 x.2.2.2 &&
      (r.trap == some x.2.2.2 || (r.trap.isNone && x.2.2.2 == 0x070 && y.2.view.fpctl.getLsbD 0 && r.flags.getLsbD 0))) = true := by decide +kernel
/-- The reductions of numbers: operands whose sum is 3 and 0, both infinities, only NaNs, and a NaN with a number. -/
def lanesOf (l : List Word) : List Lane := l.map fun x => ⟨0, 0, x, 0⟩
theorem two_lanes {a b : Word} {u v : ℝ} (ha : (f32.value a.toNat).is u) (hb : (f32.value b.toNat).is v) :
    ∀ (k : Nat) (y : Lane) (x : ℝ), (lanesOf [a, b])[k]? = some y → ([u, v] : List ℝ)[k]? = some x → (f32.value y.a.toNat).is x
  | 0, _, _, hy, hx => Option.some.inj hy ▸ Option.some.inj hx ▸ ha
  | 1, _, _, hy, hx => Option.some.inj hy ▸ Option.some.inj hx ▸ hb
  | _ + 2, _, _, hy, _ => nomatch hy
theorem witness_CrossLaneResults_reduce : lanesOf [0x40000000, 0x3F800000] ≠ [] ∧ (5#4).toNat < 6 ∧ (1#2).toNat < 2 ∧ (3#3).toNat < 4 ∧
    (∀ (k : Nat) y x, (lanesOf [0x40000000, 0x3F800000])[k]? = some y → ([2, 1] : List ℝ)[k]? = some x → (f32.value y.a.toNat).is x) ∧
    ([2, 1] : List ℝ).sum ≠ 0 ∧ (∀ (k : Nat) y x, (lanesOf [0x3F800000, 0xBF800000])[k]? = some y → ([1, -1] : List ℝ)[k]? = some x → (f32.value y.a.toNat).is x) ∧
    ([1, -1] : List ℝ).sum = 0 ∧ (∃ y ∈ lanesOf [0x7F800000, 0xFF800000], y.a = 0x7F800000#32) ∧ (∃ y ∈ lanesOf [0x7F800000, 0xFF800000], y.a = 0xFF800000#32) ∧
    (∀ y ∈ lanesOf [0x7FC00000, 0xFF800001], nanWord y.a = true) ∧ (∃ y ∈ lanesOf [0x7FC00000, 0x80000000], nanWord y.a = false) := by
  obtain ⟨-, h2, h1, hm, -⟩ := witness_RoundingModes_operands
  refine ⟨by decide, by decide, by decide, by decide, ?_, by norm_num, ?_, by norm_num, ⟨_, .head _, rfl⟩, ⟨_, .tail _ (.head _), rfl⟩, by decide,
    ⟨_, .tail _ (.head _), rfl⟩⟩
  · exact two_lanes h2 h1
  · exact two_lanes h1 hm

/-! ## Memory -/

/-- A sector whose bytes are all valid, and one with dirty bytes. -/
def sector : L1Sector := { L1Sector.empty false 1 with data := BitVec.ofNat 1024 (2 ^ 1000 * 7 + 0x8899AABBCCDDEEFF), valid := BitVec.allOnes 128 }
def dirty : L1Sector := { sector with dirty := 0xFF, hold := .writable }
/-- What a load, store or atomic at an address answers, and the state that its translation leaves. -/
def reach (s : State) (ea : Pair) (n : Nat) (acc : Acc) : Option (Pair × State) :=
  if s.mustHold (s.key (0, 0)) ea || !(canonical ea) || ea.toNat % n != 0 then none else
    match s.threadTr (s.key (0, 0)) ea acc with
    | (.inl pa, u) => some (pa, u)
    | _ => none

theorem reach_reaches {s : State} {ea pa : Pair} {n : Nat} {acc : Acc} {u : State} (h : reach s ea n acc = some (pa, u)) :
    s.reaches (0, 0) ea n acc pa u := by
  simp only [reach] at h
  split at h
  · cases h
  · rename_i hc
    simp only [Bool.or_eq_true, Bool.not_eq_true', bne_iff_ne, not_or, Bool.not_eq_true, Bool.not_eq_false, ne_eq, Decidable.not_not] at hc
    split at h
    · rename_i p v hp
      cases h
      exact ⟨hc.1.1, hc.1.2, hc.2, hp⟩
    · cases h

/-- Every width, at the last place of the sector that the width divides. -/
def loads : List (Instr × Word) := [(.ldg D 4 0xFF, 0x3080), (.ldgx D 4 5 1 false false true 1 2, 0x307C), (.ldgx D 4 5 0 false false true 2 1, 0x307E),
  (.ldgx D 4 5 3 false false false 3 8, 0x3070), (.ldgx D 4 5 3 true false false 0 0xFFC, 0x3080)]
def stores : List (Instr × Word) := [(.stg 6 4 0xFF, 0x3080), (.stgx 6 4 5 1 false false 1 2, 0x307C), (.stgx 6 4 5 0 true false 2 1, 0x307E),
  (.stgx 0 4 5 3 false false 3 8, 0x3070)]

theorem witness_GlobalLoads_hit : (loads.all fun e => (loadForm e.1).any fun f => let s := inL1 (regs (put e.1) [(4, e.2)]) 96 sector
    f.2.2.2.2 == false && oneOf e.1 s fun _ th => (s.ctx? s.site.ctx).any fun c => (reach s (f.2.1 s.site.rep th) f.2.2.1 .load).any fun r =>
      r.2.backed r.1 && (tget (r.2.core c.core).l1 (r.1.toNat / 128)).any fun x =>
        (List.range f.2.2.1).all fun k => x.valid.getLsbD (r.1.toNat % 128 + k)) = true := by decide +kernel
theorem witness_GlobalLoads_miss : (loads.all fun e => (loadForm e.1).any fun f => let s := regs (put e.1) [(4, e.2)]
    f.2.2.2.2 == false && oneOf e.1 s fun _ th => (s.ctx? s.site.ctx).any fun c => (reach s (f.2.1 s.site.rep th) f.2.2.1 .load).any fun r =>
      r.2.backed r.1 && (c.core :: r.2.coreDomain c.core).all fun g => (tget (r.2.core g).l1 (r.1.toNat / 128)).isNone) = true := by decide +kernel
theorem witness_GlobalStores : ([true, false].all fun hit => stores.all fun e => (storeForm e.1).any fun f =>
    let s := if hit then inL1 (regs (put e.1) [(4, e.2)]) 96 sector else regs (put e.1) [(4, e.2)]
    f.2.2.2 == false && oneOf e.1 s fun _ th => (s.ctx? s.site.ctx).any fun c => (reach s (f.2.1 s.site.rep th) f.2.2.1 .store).any fun r =>
      r.2.backed r.1 && ((r.2.coreDomain c.core).all fun g => g == c.core || (tget (r.2.core g).l1 (r.1.toNat / 128)).isNone) &&
        (tget (r.2.core c.core).l1 (r.1.toNat / 128)).isSome == hit && decide ((r.2.core c.core).l1.length < 1024)) = true := by decide +kernel

/-- A window of each format, and none. -/
def windowed (fmt : BitVec 2) (s : State) : State :=
  s.modPkg fun p => { p with windows := if fmt = 0 then [] else [(0, ⟨0x10000, 0x20000, 0x40000, fmt, true⟩)] }
theorem witness_GlobalStores_sideband : ([0, 1, 2].all fun fmt =>
    let l : Instr := .ldgx D 4 5 0 false true false 0 0
    let t : Instr := .stgx 6 4 5 0 false true 0 0
    let s := windowed fmt (regs (put l) [(4, 0x1FF80)])
    let s' := windowed fmt (regs (put t) [(4, 0x1FF80)])
    (oneOf l s fun _ th => (loadForm l).any fun f => f.2.2.2.2 && (reach s (f.2.1 s.site.rep th) f.2.2.1 .load).any fun r =>
      r.2.backed r.1 && (r.2.homeGet (localOf r.1 / 128)).1.tag.isSome == (fmt != 0)) &&
    oneOf t s' fun _ th => (storeForm t).any fun f => f.2.2.2 && (reach s' (f.2.1 s'.site.rep th) f.2.2.1 .store).any fun r =>
      r.2.backed r.1 && (r.2.homeGet (localOf r.1 / 128)).1.tag.isSome == (fmt != 0)) = true := by decide +kernel

/-- Accesses at a misaligned address and at one that is not canonical. -/
def badly : List (Instr × Nat) := [(.ldg D 4 0, 0x020), (.stg 6 4 0, 0x020), (.ldgx D 4 8 0 false false false 3 0, 0x020),
  (.atom D 4 6 3 0 4 0 0, 0x021), (.cas D 4 6 8 3 4 0 0, 0x021)]
theorem witness_MemoryTraps : (badly.all fun e => [(0x3002, 0), (0, 0x01000000)].all fun a =>
    let s := armed (regs (put e.1) [(4, a.1), (5, a.2)])
    oneOf e.1 s fun _ th => let ea := th.pair 4
      let cause := if canonical ea then e.2 else 0x023
      !(s.mustHold (s.key (0, 0)) ea) && s.takes 0 th cause && (s.mayBe 0 1 ea).all s.isLocal && s.atoms.isEmpty &&
        (!(canonical ea) || ea.toNat % 4 != 0)) = true := by decide +kernel
/-- Page 0 without R and W. -/
def closed (s : State) : State :=
  let s := s.modPkg fun p => { p with hbm := hwriteN p.hbm 0x102000 8 0x19 }
  (s.modDie 0 fun d => { d with tlb := [] }).modCore 0 fun c => { c with tlb := [] }
theorem witness_MemoryTraps_page : ([(Instr.ldg D 4 0, Acc.load), (.stg 6 4 0, .store)].all fun e =>
    let s := armed (regs (put e.1) [(5, 0x10)])
    let s' := armed (closed (regs (put e.1) [(4, 0x3000)]))
    (oneOf e.1 s fun _ th => match (s.threadTr (s.key (0, 0)) (th.pair 4) e.2).1 with
      | .inr (.park ea _) => ea == th.pair 4 && canonical ea && !(s.mustHold (s.key (0, 0)) ea)
      | _ => false) &&
    oneOf e.1 s' fun _ th => match (s'.threadTr (s'.key (0, 0)) (th.pair 4) e.2).1 with
      | .inr (.trap cause _ ea) => ea == th.pair 4 && canonical ea && !(s'.mustHold (s'.key (0, 0)) ea) && s'.takes 0 th cause
      | _ => false) = true := by decide +kernel
/-- Scratch accesses, at a misaligned offset and at the first one beyond the allocation. -/
def scratchy : List Instr := [.lds D 4 2 0, .ldsx D 4 5 false 0 0 false 3 0 0, .sts 6 true 4 0, .stsx 8 4 5 false 0 1 0 1 0]
theorem witness_MemoryTraps_scratch : (scratchy.all fun i => [0x21, 0x400].all fun a => let s := armed (regs (put i) [(4, a)])
    oneOf i s fun t th => s.free (0, 0) false && s.free (0, 0) true && s.takes 0 th 0x050 && s.takes 0 th 0x051 && t.scrSize == 0x400) = true := by
  decide +kernel

theorem witness_MemoryTraps_none : (scratchy.all fun i => [0, 0x21].all fun a => let s := armed (tm (regs (put i) [(4, a)]) fun t => { t with scrSize := 0 })
    oneOf i s fun t th => s.free (0, 0) false && s.free (0, 0) true && s.takes 0 th 0x050 && t.scrSize == 0) = true := by decide +kernel

/-- The data of a launch, which end within the word at 12; the sector has been stored to since, or not. -/
def constants (s : State) (noted : Bool) : State :=
  tm (s.modPkg fun p => { p with noted := if noted then [(3, 5), (128, 2 ^ 96 - 1)] else [(128, 5)] }) fun t => { t with
    konst := { ConstSpace.none with base := 0x4000, pages := [(0, 0)], len := 14, mark := 1
                                    old := [(8, 0x11), (9, 0x22), (10, 0x33), (11, 0x44), (12, 0x55)] } }
theorem witness_ConstantLoads : ([true, false].all fun noted => [0, 4, 65524].all fun a => let i : Instr := .ldk D 4 2
    let s := constants (regs (put i) [(4, a)]) noted
    oneOf i s fun t th => let e := (rd32 s.site.rep th .a 4).toNat + 8
      e % 4 == 0 && decide (e < 65536) && (s.ctx? s.site.ctx).map (·.core) == some 0 && (List.range 4).all fun k =>
        decide (e + k < t.konst.len → s.backed (t.konst.pa (e + k)) = true ∧ ((((s.pkg.noted.drop t.konst.mark).filter fun x =>
          x.1 == localOf (t.konst.pa (e + k)) / 128).isEmpty) == !noted))) = true := by decide +kernel
/-- Data whose first page is here and whose second one is on another device of the server, which is present or not: a word that lies here,
and one of which two bytes lie there. -/
def farConstants (s : State) (there : Bool) : State :=
  tm (s.modPkg fun p => { p with routing := { p.routing with members := if there then 2 else 0 } }) fun t => { t with
    konst := { ConstSpace.none with base := 0x4FFF6, pages := [(4, 0x40000), (5, 0x200000030000)], len := 14, mark := 0 } }
theorem witness_ConstantLoads_far : ([true, false].all fun there => [(0, 4), (8, 2), (12, 0)].all fun x => let i : Instr := .ldk D 4 0
    let s := armed (farConstants (regs (put i) [(4, x.1)]) there)
    oneOf i s fun t th => let e := (rd32 s.site.rep th .a 4).toNat
      e % 4 == 0 && decide (e < 65536) && ((List.range 4).all fun k => decide (e + k < t.konst.len → s.backed (t.konst.pa (e + k)) = true ∨
        s.isLocal (t.konst.pa (e + k)) = false)) && (((List.range 4).filter fun k => decide (e + k < t.konst.len) && s.isLocal (t.konst.pa (e + k))).length == x.2) &&
      ((List.range 4).any fun k => decide (e + k < t.konst.len) && !(s.isLocal (t.konst.pa (e + k)))) == (x.1 != 0) &&
      ((List.range 4).all fun k => !(decide (e + k < t.konst.len)) || s.isLocal (t.konst.pa (e + k)) || s.present (devOf (t.konst.pa (e + k))) == there) &&
      s.takes 0 th 0x170) = true := by decide +kernel

theorem witness_ConstantLoads_traps : ([(2, 0x022), (65528, 0x024)].all fun a => let s := armed (regs (put (.ldk D 4 2)) [(4, a.1)])
    oneOf (.ldk D 4 2) s fun _ th => s.takes 0 th a.2) = true := by decide +kernel

/-- Atomics of each order. -/
def atomics : List Instr := [.atom D 4 6 3 0 4 0 0, .atom ⟨0, false⟩ 4 6 1 0 4 2 0, .atom D 4 6 7 3 5 3 8, .cas D 4 6 8 3 4 1 0, .cas ⟨0, true⟩ 4 6 8 0 3 0 0]
theorem witness_GlobalAtomics : (atomics.all fun i => (atomForm i).any fun f => let s := regs (put i) [(4, 0x3000)]
    let ord := f.2.2.2.2.2.1
    let r := if ord = 2 ∨ ord = 3 then s.releaseAt (s.domainOf (s.key (0, 0))) f.2.2.2.2.1.toNat else s
    oneOf i s fun _ th => (s.ctx? s.site.ctx).any fun c => let ea := f.2.1 s.site.rep th
      !(s.inFlight (s.key (0, 0))) && (s.mayBe c.core c.asid ea).all s.isLocal && !(r.unacked (s.domainOf (s.key (0, 0)))) && s.atoms.isEmpty &&
        canonical ea && ea.toNat % f.2.2.2.1 == 0 && !(s.mustHold (s.key (0, 0)) ea) && (reach r ea f.2.2.2.1 .atomic).any fun x => x.2.backed x.1 &&
          (x.2.snoopOf (x.2.domainOf (s.key (0, 0)))).all fun g => (tget (x.2.core g).l1 (x.1.toNat / 128)).isNone) = true := by decide +kernel
/-- Two turns at one address, at the end of a sector. -/
def turns : AtomReq := ⟨0, 0x3078, 8, 3, 0, 4, ⟨0, 0⟩, 7, 1, [⟨⟨0, 0, 0⟩, some 10, 3, 9, 100⟩, ⟨⟨0, 0, 1⟩, none, 4, 3, 101⟩]⟩
theorem witness_GlobalAtomics_turns : let s : State := { put .nop with atoms := [(5, turns)] }
    tget s.atoms 5 = some turns ∧ turns.width = 8 ∧ localOf turns.pa % turns.width = 0 ∧ inHbm (localOf turns.pa) = true ∧ s.isLocal turns.pa = true ∧
      turns.ord = 0 ∧ (turns.turns.map (·.landing)).Nodup ∧ s.remotes = [] ∧ (∀ g ∈ s.snoopOf (s.atomCores turns), tget (s.core g).l1 (turns.pa.toNat / 128) = none) ∧
      s.pkg.l2.length < 16 := by decide +kernel
/-- A home that holds little has room for any sector. -/
theorem room_of {s : State} (h : s.pkg.l2.length < 16) (sec : Nat) : s.hasRoom sec :=
  fun _ ht => State.l2Room_of_short (ht ▸ h) sec

theorem witness_FencesAndLines : ([1, 2, 3].all fun ord => [1, 3, 4, 5].all fun sc => let s := inL1 (put (.fence ord sc)) 96 dirty
    oneOf (.fence ord sc) s fun _ _ => let dom := s.domainOf (s.key (0, 0))
      !(s.inFlight (s.key (0, 0))) && !((s.cleanL1s (s.snoopOf dom) false fun sec => sc == 5 || s.isLocal (sectorPa sec)).unacked dom) && !(s.unacked dom)) = true := by
  decide +kernel
theorem witness_FencesAndLines_line : ([true, false].all fun inv => [3, 4, 5].all fun sc =>
    let i : Instr := if inv then .inval 4 sc else .flush 4 sc
    let s := regs (inL1 (put i) 96 dirty) [(4, 0x30FF)]
    oneOf i s fun _ th => (s.ctx? s.site.ctx).any fun c => (reach s (rd64 s.site.rep th .a 4) 1 .store).any fun r => r.2.isLocal r.1 &&
      (s.mayBe c.core c.asid (rd64 s.site.rep th .a 4)).all s.isLocal) = true := by decide +kernel
/-- PREF of an address that is not canonical, of one that has no page, and of one that is mapped. -/
theorem witness_FencesAndLines_pref : ([(0x01000000, false, false), (0x1000, true, false), (0, true, true)].all fun x =>
    let s := regs (put (.pref 4 1)) [(4, 0x3000), (5, x.1)]
    oneOf (.pref 4 1) s fun _ th => (s.ctx? s.site.ctx).any fun c => let ea := rd64 s.site.rep th .a 4
      canonical ea == x.2.1 && (!x.2.1 || (match (s.translate (some c.core) (c.core / 96) c.asid ea .load th.priv).1 with
        | .ok _ => x.2.2
        | _ => !x.2.2))) = true := by decide +kernel

/-! ## Scratch -/

/-- The placed team with bytes in its scratch, F bits, and rank 1. -/
def scr (s : State) (fb : List Nat) : State := tm s fun t => { t with
  scratch := mwriteN [] 0x20 16 0x8877_0055_4433_F211_99AA_BBCC_DDEE_FF80, fbits := fb, rank := 1 }
theorem scratchOf_own {s : State} {t x : Team} (h : s.team? s.site.ctx 0 = some x) : s.scratchOf (0, 0) t none s.site.ctx 0 x := ⟨h, rfl⟩
/-- A team, and that no other team is the live one of its rank. -/
def onlyPeer (s : State) (t : Team) (r : Nat) : Bool := (s.team? 0 0).any fun x => x.launch == t.launch && x.cluster == t.cluster && x.rank == r &&
  !x.live.isEmpty && s.ctxs.all fun e => e.2.teams.all fun y => y.2.launch != t.launch || y.2.cluster != t.cluster || y.2.rank != r ||
    y.2.live.isEmpty || (e.1, y.1) == (0, 0)

/-- Every mode and width, of its own scratch and of a peer's, up to the end of the allocation. -/
def scrLoads : List (Instr × Word) := [(.lds D 4 0 0, 0x3FC), (.lds D 4 1 1, 0x3F8), (.lds D 4 2 1, 0x3F8), (.ldsx D 4 5 false 0 0 true 1 0 2, 0x3FC),
  (.ldsx D 4 5 false 0 1 false 2 0 0, 0x3FF), (.ldsx D 4 5 false 0 2 false 3 0 8, 0x3F0), (.ldsx ⟨12, false⟩ 4 5 true 1 2 false 0 1 0, 0x3F0)]
theorem witness_ScratchLoads : ([[63], [62]].all fun fb => scrLoads.all fun e => (scrLoadForm e.1).any fun f =>
    let s := scr (regs (put e.1) [(4, e.2)]) fb
    let off := fun th => (f.2.1 s.site.rep th).toNat
    oneOf e.1 s fun t th => s.free (0, 0) false && off th % f.2.2.1 == 0 && decide (off th + f.2.2.1 ≤ t.scrSize) && off th / 16 == 63 &&
      (f.2.2.2.2.2 == none || onlyPeer s t 1)) = true := by decide +kernel
def scrStores : List (Instr × Word) := [(.sts 6 false 4 0, 0x3FC), (.sts 6 true 4 1, 0x3F8), (.stsx 6 4 5 false 0 1 1 0 2, 0x3FC),
  (.stsx 6 4 5 false 0 0 2 0 1, 0x3FE), (.stsx 0 4 5 false 0 0 3 0 8, 0x3F0), (.stsx 8 4 5 true 1 1 0 1 0, 0x3F0)]
theorem witness_ScratchStores : (scrStores.all fun e => (scrStoreForm e.1).any fun f => let s := scr (regs (put e.1) [(4, e.2)]) [7]
    let off := fun th => (f.2.1 s.site.rep th).toNat
    oneOf e.1 s fun t th => s.free (0, 0) true && Mem.wf t.scratch && off th % f.2.2.1 == 0 && decide (off th + f.2.2.1 ≤ t.scrSize) &&
      s.feWaits.isEmpty && (f.2.2.2.2 == none || onlyPeer s t 1)) = true := by decide +kernel
theorem witness_ScratchStores_atomics : ((List.range 13).all fun op => [0, 3].all fun w => [true, false].all fun p => op == 11 && w == 3 ||
    let i : Instr := .atoms (if op = 1 then ⟨0, false⟩ else D) 4 6 (if op = 12 then 8 else 0) w 1 0 (BitVec.ofNat 4 op) p (if p then 1 else 0)
    let s := scr (regs (put i) [(4, 0x3F8)]) [1]
    oneOf i s fun t th => s.free (0, 0) false && Mem.wf t.scratch && (rd32 s.site.rep th .a 4).toNat % widthOf w == 0 && onlyPeer s t 1 &&
      decide ((rd32 s.site.rep th .a 4).toNat + widthOf w ≤ t.scrSize)) = true := by decide +kernel

theorem witness_ScratchFlags_set : ([true, false].all fun clr => [0, 1, 62].all fun n => let s := scr (regs (put (.feset clr 4 5)) [(4, 0x20), (5, n)]) [1, 63]
    oneOf (.feset clr 4 5) s fun t _ => s.free (0, 0) (!clr) && s.feWaits.isEmpty && decide (0x20 + 16 * n.toNat ≤ t.scrSize)) = true := by
  decide +kernel
theorem witness_ScratchFlags_traps : ([(0x21, 1, 0x051), (0x3F0, 2, 0x050)].all fun a =>
    let s := armed (regs (put (.feset false 4 5)) [(4, a.1), (5, a.2.1)])
    oneOf (.feset false 4 5) s fun t th => s.free (0, 0) true && s.takes 0 th a.2.2 && t.scrSize == 0x400) = true := by decide +kernel
theorem witness_ScratchFlags_none : let s := armed (tm (regs (put (.feset true 4 5)) [(4, 0x21), (5, 1)]) fun t => { t with scrSize := 0 })
    ∃ t th, s.readyOne (.feset true 4 5) (0, 0) t th ∧ s.free (0, 0) (!true) = true ∧ t.scrSize = 0 ∧ s.takes 0 th 0x050 = true := one_of (by decide +kernel)
theorem witness_ScratchFlags_test : let s := scr (regs (put (.fetest D 4)) [(4, 0x3F0)]) [63]
    ∃ t th, s.readyOne (.fetest D 4) (0, 0) t th ∧ s.free (0, 0) false = true ∧ 0x3F0 + 16 ≤ t.scrSize := one_of (by decide +kernel)
theorem witness_ScratchFutures_store : let s := thr (scr (regs (put (.stf 6 4 0xFF)) [(4, 0x400)]) []) fun t => { t with pend := [(6, .future 3 5)] }
    ∃ t th c, s.readyOne (.stf 6 4 0xFF) (0, 0) t th ∧ s.ctx? s.site.ctx = some c ∧ s.free (0, 0) false = true ∧ Mem.wf t.scratch = true ∧
      (rd32 s.site.rep th .a 4 + 4 * (0xFF#8).signExtend 32).toNat + 4 ≤ t.scrSize ∧ th.pendingOn 6 = some (.future 3 5) := one_in (by decide +kernel)
/-- LDF of a word that names a future, RUNNING and DONE, and of one that names none. -/
theorem witness_ScratchFutures_load : ([0x10030005, 0x10030006].all fun h => [running, { running with st := .done }].all fun f =>
    let i : Instr := .ldf D 4 1
    let s := cx (tm (regs (put i) [(4, 0x20)]) fun t => { t with scratch := mwriteN [] 0x24 4 h }) fun c => { c with futures := [(3, f)] }
    oneOf i s fun t _ => s.free (0, 0) false && Mem.wf t.scratch && mreadN t.scratch 0x24 4 == h) = true := by decide +kernel

/-- A core whose typed buffers the placed context owns. -/
def owned (s : State) : State := s.modCore 0 fun c => { c with aOwner := some 0, wOwner := some 0, cOwner := some 0 }
theorem witness_TypedBuffers : ([(0, 0x3FFFC, false), (1, 0x7FFFC, false), (2, 0x3FFFC, false), (0, 0x3FF80, true), (1, 0x7FF80, true)].all fun x =>
    let l : Instr := .ldt D 4 x.1 x.2.2 0
    let t : Instr := .stt 6 4 x.1 x.2.2 0
    [l, t].all fun i => let s := owned (regs (put i) [(4, x.2.1)])
      oneOf i s fun _ _ => (s.ctx? s.site.ctx).any fun c => !(s.acquiring (s.key (0, 0))) && !(s.typedBusy c.core s.site.ctx x.1.toNat) && c.typed &&
        Mem.wf (s.core c.core).abuf && Mem.wf (s.core c.core).aexp) = true := by decide +kernel
theorem witness_TypedBuffers_traps : ([(true, 0x061, 0x82), (true, 0x060, 0x40000), (false, 0x063, 0x40000)].all fun x =>
    let s := armed (owned (cx (regs (put (.ldt D 4 0 false 0)) [(4, x.2.2)]) fun c => { c with typed := x.1 }))
    oneOf (.ldt D 4 0 false 0) s fun _ th => s.takes 0 th x.2.1 && !(s.typedBusy 0 s.site.ctx 0)) = true := by decide +kernel

/-! ## Engine words and queues -/

/-- The state after the release of an engine word, and that the word may start: one slot is FREE and every other one is not. -/
def released (s : State) (scope : BitVec 3) : State := s.releaseAt (s.domainOf (s.key (0, 0))) scope.toNat
def mayStart (s : State) (scope : BitVec 3) : Bool :=
  (s.ctx? s.site.ctx).any fun c => !(s.inFlight (s.key (0, 0))) && !((released s scope).unacked (s.domainOf (s.key (0, 0)))) &&
    decide (c.slotsUsed < 1024) && (List.range 1024).any c.slotFree
/-- Every slot in use but slot 0, whose generation wraps. -/
def lastSlot (s : State) : State := cx s fun c => { c with
  futures := (List.range 1024).map fun j => (j, if j = 0 then ⟨.free, 0xFFFF, 1, 0, false, 0⟩ else ⟨.done, 5, 1, 0, true, 0x77⟩) }
def leased (s : State) (held : Bool) (id : Nat) : State := tm s fun t => { t with leases := [⟨id, held⟩] }

def engineWords : List Instr := [.copy D 6 4 7 0 1 0 4 1 2 0 0, .copy ⟨0, true⟩ 6 4 7 0 0 0 5 0 0 1 0, .gather D 6 7 8 0 4 false 20,
  .scatter D 6 7 8 2 4 false 20, .scadd D 6 7 8 0 4 0 true false 20, .unstand D 6 16, .substat D 6 1 0, .unlease D 9, .lstat D 9, .qdone D 20 0xA1 4]
theorem witness_EngineWordsStart : (engineWords.all fun i =>
    let s := leased (regs (put i) [(6, 0x100), (7, 0x200), (8, 65536), (9, 31), (20, 0x3000)]) true 31
    oneOf i s fun t th => (engineForm s (0, 0) t th i).any fun f => mayStart s f.scope && (engineForm (released s f.scope) (0, 0) t th i).isSome) =
    true := by decide +kernel
theorem witness_EngineWordsStart_last : mayStart (lastSlot (put (.lstat D 9))) 1 = true := by decide +kernel
theorem witness_EngineWordsStart_stand : let s := cx (put (.stand D 20 6 0xFF0)) fun c => { c with subCount := 4095 }
    ∃ t th c, s.readyOne (.stand D 20 6 0xFF0) (0, 0) t th ∧ s.ctx? s.site.ctx = some c ∧ mayStart s 1 = true ∧ c.subCount < 4096 :=
  one_in (by decide +kernel)
def matrixWords : List Instr := [.mloop ⟨20, false⟩ 6 7 0 5 5 2 true true 1, .mfold D 2, .mzero D 4 3, .cvtdn ⟨21, false⟩ 6 0 0 0 false 1,
  .cvtdn ⟨22, false⟩ 6 0 0 0 true 1]
theorem witness_EngineWordsStart_matrix : (matrixWords.all fun i => let s := cx (put i) fun c => { c with matq := [1, 2, 3, 4, 5, 6, 7] }
    oneOf i s fun _ th => mayStart s 1 && s.ops.isEmpty && (matrixForm s.site.rep th i).isSome && (CX s).matq.length == 7) = true := by decide +kernel

def commands : List Instr := [.mrg D 9 6 2 0 4 0, .nbrgrid D 9 6 4 16, .nbrbin D 9 6 4 16, .nbrpair D 9 6 4 16, .nbrchk D 9 6 4 16]
theorem witness_LanternWordsStart : ([true, false].all fun held => commands.all fun i => let s := leased (regs (put i) [(6, 0x100), (9, 31)]) held 31
    oneOf i s fun t th => mayStart s 4 && (commandForm s th i).any fun f => f.2.2.1 == 31 && f.2.1 == 4 &&
      !((released s 4).lantern 0 31).queue.contains (released s 4).fresh && t.leases.any (fun x => x.id == 31 && x.held == held) &&
        decide (((released s 4).lantern 0 31).queue.length < 4)) = true := by decide +kernel
theorem witness_LanternWordsStart_lease : ([0, 4].all fun n => let s := tm (put (.lease D 0 2)) fun t => { t with
      leases := (List.range n).map fun k => ⟨k, true⟩ }
    oneOf (.lease D 0 2) s fun _ _ => mayStart s 1 && (released s 1).leaseUse 0 (s.key (0, 0)) == n) = true := by decide +kernel
theorem witness_LanternWordsStart_full : let s := (put (.lease D 0 2)).modDie 0 fun d => { d with
      leaseQ := (List.range 128).map fun k => ⟨1000 + k, false, 5, 0, 0, 0, k⟩ }
    ∃ t th, s.readyOne (.lease D 0 2) (0, 0) t th ∧ mayStart s 1 = true ∧ ((released s 1).die 0).leaseQ.length = 128 ∧
      (released s 1).leaseUse 0 (s.key (0, 0)) = 0 := one_of (by decide +kernel)

/-- Every slot DONE. -/
def full : Tab Future := (List.range 1024).map fun j => (j, ⟨.done, 5, 1, 0, true, 0x77⟩)
theorem tget_constant (f : Future) (l : List Nat) : ∀ k ∈ l, tget (l.map fun j => (j, f)) k = some f := by
  induction l with
  | nil => simp
  | cons j l ih =>
    intro k hk
    by_cases h : k = j
    · simp [tget, h]
    · simpa [tget, h] using ih k ((List.mem_cons.1 hk).resolve_left h)
theorem slotFree_full (c : Ctx) (h : c.futures = full) : ∀ k < 1024, c.slotFree k = false := by
  intro k hk
  simp [Ctx.slotFree, h, full, tget_constant _ _ k (List.mem_range.2 hk)]
theorem witness_EngineWordsTrap : let s := armed (cx (put (.lstat D 9)) fun c => { c with futures := full })
    ∃ t th c, s.readyOne (.lstat D 9) (0, 0) t th ∧ s.ctx? s.site.ctx = some c ∧ s.inFlight (s.key (0, 0)) = false ∧
      (engineForm (released s 1) (0, 0) t th (.lstat D 9)).isSome = true ∧ s.takes 0 th 0x0B0 = true ∧ c.slotsRunning = 0 ∧
      c.futures = full := one_in (by decide +kernel)
/-- The words that name too many indices, too many subscriptions, or a lantern that their team may not name. -/
def refusedWords : List (Instr × List (Nat × Word) × Nat) :=
  [(.gather D 6 7 8 0 4 false 20, [(8, 65537)], 0x0E0), (.scatter D 6 7 8 0 4 false 20, [(8, 65537)], 0x0E0),
   (.scadd D 6 7 8 0 4 0 true false 20, [(8, 65537)], 0x0E0), (.stand D 20 6 0, [], 0x0D0), (.unlease D 9, [(9, 32)], 0x0C1), (.lstat D 9, [(9, 32)], 0x0C1),
   (.unlease D 9, [(9, 31)], 0x0C0)] ++ commands.flatMap fun i => [(i, [(9, 32)], 0x0C1), (i, [(9, 31)], 0x0C0)]
theorem witness_EngineWordsTrap_each : (refusedWords.all fun e => let s := armed (cx (regs (put e.1) e.2.1) fun c => { c with subCount := 4096 })
    oneOf e.1 s fun t th => mayStart s 1 && mayStart s 4 && t.leases.isEmpty && s.takes 0 th e.2.2) = true := by decide +kernel

/-- The descriptor of queue 0 as the host has written it: its ring, CTL and WIDX. -/
def described (s : State) (ctl wr : Nat) : State := s.modPkg fun p => { p with
  hbm := hwriteN (hwriteL p.hbm 0x7600000000 (leBytes 8 0x50000 ++ leBytes 4 ctl)) 0x7600000020 4 wr }
/-- QPUT with room, without, at a wrong offset, beyond the scratch, and to a queue that is not enabled or closed. -/
theorem witness_QueueWords_put : ([(0x443, 15, 0x100), (0x443, 16, 0x100), (0x443, 0, 0x108), (0x443, 0, 0x400), (0x442, 0, 0x100),
    (0x447, 0, 0x100)].all fun x => let i : Instr := .qput D 5 6 4 0
    let s := regs (described (put i) x.1 x.2.1) [(6, x.2.2)]
    oneOf i s fun t _ => mayStart s 4 && t.scrSize == 0x400 && s.qEn 0 == (x.1 != 0x442) && s.qClosed 0 == (x.1 == 0x447) && s.qSize 0 == 16) = true := by
  decide +kernel
theorem witness_QueueWords_pop : let s := tm (put (.qpop ⟨0, false⟩)) fun t => { t with queue := some 3 }
    ∃ t th, s.readyOne (.qpop ⟨0, false⟩) (0, 0) t th ∧ t.queue = some 3 := one_of (by decide +kernel)
theorem witness_QueueWords_other : let s := armed (put (.qpop ⟨8, false⟩))
    ∃ t th, s.readyOne (.qpop ⟨8, false⟩) (0, 0) t th ∧ t.queue = none ∧ s.takes 0 th 0x0F0 = true := one_of (by decide +kernel)

/-! ## Clauses, groups, results -/

/-- The placed group before its clause begins, with a header, at a word. -/
def header (w : Nat) (wi : Nat) : State :=
  let s := put (.add D 4 5)
  let s := s.modPkg fun p => { p with hbm := hwriteN p.hbm 0x1000 4 w }
  let s := s.modCore 0 fun c => { c with icache := [], groups := tmod c.groups 0 fun g => { g with started := false, entered := false, passed := false, wi, origin := ⟨0x1000, wi⟩ } }
  thr (cx s fun c => { c with regs := { c.regs with dbgctl := 0 } }) fun t => { t with pc := ⟨0x1000, wi⟩, counts := t.counts.setIfInBounds 0 1 }
/-- What ClausesBegin supposes, on the first turn of a clause start and on a later one, and whether a qualifier and a wait follow. -/
def begins (w wi : Nat) (q : Option Nat) (waits : Bool) : Bool := [true, false].all fun first =>
  let s := armed (header w wi)
  let s := if first then s else s.modCore 0 fun c => { c with groups := tmod c.groups 0 fun g => { g with entered := true, passed := true } }
  (tget (s.core 0).groups 0).any fun g => g.started == false && g.members == [(0, 0)] && (s.ctx? g.ctx).any fun c =>
    let e := s.looked 0 0 g c
    (e.fetchAll g.ctx g.members (va56 g.h)).1 == some (BitVec.ofNat 32 w) && (e.fetchAll g.ctx g.members (va56 g.h)).2.1.isEmpty &&
      (s.thread? ⟨g.ctx, 0, 0⟩).any (fun th => th.waits (BitVec.ofNat 32 w) == waits) &&
      (e.thread? ⟨g.ctx, 0, 0⟩).any fun th => headerQual th g.wi (BitVec.ofNat 32 w) == q && !c.event.pendCur && !c.event.pendThm &&
        !(th.view.dbgctl.getLsbD 1) && th.run != .ended && q.all fun q => s.takes c.core th q
theorem witness_ClausesBegin : begins 0x1000F 0 none true = true ∧ begins 0x00001 1 none true = true := by decide +kernel
theorem witness_ClausesBegin_waits : begins 0x10081 0 none false = true := by decide +kernel
theorem witness_ClausesBegin_illegal : begins 0x10000 0 (some 3) true = true ∧ begins 0x10071 0 (some 3) true = true ∧
    begins 0x30001 0 (some 2) true = true ∧ begins 0x10001 2 (some 3) true = true := by decide +kernel

/-- `n` Runnable threads at two PCs, some deferred, and a free slot. -/
def pool (n : Nat) : State :=
  let s := (put (.add D 4 5)).modCore 0 fun c => { c with groups := [(1, probeGroup 0)], lastLaneset := some 7, ages := [(⟨0x2000, 0⟩, 63)] }
  tm s fun t => { t with threads := (List.range n).map fun k => (k, { probeThread CtxRegs.reset with
    run := .runnable, pc := if k % 3 = 2 then ⟨0x2000, 0⟩ else ⟨0x1000, 0⟩, deferred := k % 7 == 6 }) }
theorem witness_GroupsForm : ([4, 70].all fun n => let s := pool n
    ((s.core 0).nextSlot.isSome) && (s.activeOf 0).any fun e => let p : PC := ⟨0x1000, 0⟩
      let ready := e.2.table.filter fun x => !x.deferred
      e.2.sync.isNone && e.2.joined && !e.2.gangOut && s.xlRep 0 e.2.asid p == .inl false && decide (e.2.table.map (·.m)).Nodup && (ready.all fun x => decide ((s.core 0).age x.pc < 64)) &&
        (ready.any fun x => x.pc == p) && ready.all fun x => x.pc == p || p.lt x.pc) = true := by decide +kernel

/-- A group that has stalled on a register, and one a member of which waits at an F bit. -/
def stalledOn (s : State) : State := s.modCore 0 fun c => { c with groups := tmod c.groups 0 fun g => { g with stalled := 33 } }
theorem witness_StalledGroupsDissolve : let s := stalledOn (thr (put (.add D 4 5)) fun t => { t with pend := [(4, .landing 9)] })
    (match s.prepare 0 0 with
      | .run i u => (s.thread? K).any fun th => (stallOn i u.site th).isSome && th.run == .issuing
      | .done _ => false) = true := by decide +kernel
theorem witness_StalledGroupsDissolve_waits : let s := stalledOn (thr (put (.add D 4 5)) fun t => { t with run := .waiting (.feBit none 3) })
    ∃ g, tget (s.core 0).groups 0 = some g ∧ 32 < g.stalled ∧ (s.thread? K).map (·.run) = some (.waiting (.feBit none 3)) := some_of (by decide +kernel)

def arriving : State :=
  let s := thr (put (.add D 4 5)) fun t => { t with
    pend := [(4, .landing 9), (5, .landing 8)], counts := t.counts.setIfInBounds 7 63, latches := #v[.pending 9, .unwritten, .value 3, .pending 8], run := .waiting (.reg 4) }
  cx { s with landings := [(9, ⟨K, [(4, 0x99), (5, 0x77), (127, 3)], none, 0xAB, some 7, 0x30, 5⟩)] } fun c => { c with satcount := 0xFFFFFFFE }
theorem witness_ResultsLand : (tget arriving.landings 9).any (fun l => l.key == K && decide (l.regs.map (·.1)).Nodup) = true ∧
    (arriving.thread? K).map (·.run) = some (.waiting (.reg 4)) ∧ (arriving.ctx? 0).isSome = true := by decide +kernel

/-- An operation of the placed thread. -/
def opOf (w : Work) (r : Option Word) : EngOp :=
  { key := K, also := [], slot := 3, gen := 5, nw := false, core := 0, pc := ⟨0x1000, 1⟩, scope := 4, kinds := [1], canceled := false, result := r, sat := 0
    order := 0, buffer := [], sup := false, work := w }
/-- An ended operation, awaited or not, with 15 entries in the fault log. -/
def ended (awaited retain : Bool) (w : Word) : State :=
  let s := cx (thr (put (.add D 4 5)) fun t => { t with
    counts := t.counts.setIfInBounds 1 1, run := .waiting (.reg 4), pend := if awaited then [(4, .future 3 5)] else [] }) fun c => { c with
      futures := [(3, { running with retain })] }
  { tm s (fun t => { t with flog := List.replicate 15 ⟨1, 2, 3, 4, 5⟩ }) with ops := [(7, opOf .known (some w))] }
theorem witness_FuturesComplete : ([(true, false, 0x100), (false, false, 0x10000005), (false, true, 0x70000000), (true, true, 0x20000000)].all fun x =>
    let s := ended x.1 x.2.1 x.2.2
    (tget s.ops 7).any fun o => o.result == some x.2.2 && o.also.isEmpty && s.remotes.isEmpty && (s.ctx? o.key.ctx).any fun c =>
      (tget c.futures o.slot).isSome && (tget c.teams o.key.tslot).any fun t => !t.live.isEmpty && decide (t.flog.length < 16)) = true := by decide +kernel

/-! ## Sectors, engines, the matrix unit -/

def B : State := put .nop
/-- Every byte table of these samples rises; the tables of one entry do. -/
theorem rising_one {α : Type} (k : Nat) (x : α) : rising [(k, x)] := by simp [rising]
theorem rising_two {α : Type} {j k : Nat} (h : j < k) (x y : α) : rising [(j, x), (k, y)] := by simpa [rising] using h

def homeSector : HomeSector := { data := BitVec.ofNat 1024 (2 ^ 900 * 3 + 77), st := .dirty, tag := none, side := 0, sideDirty := false, used := 0 }
/-- The last sector of the memory, and one of a window. -/
theorem witness_SectorsMove_fill : tget B.pkg.l2 3999999999 = none ∧ inHbm (128 * 3999999999) = true ∧ B.hasRoom 3999999999 ∧ B.filled 3999999999 = B :=
  ⟨by decide +kernel, by decide +kernel, room_of (by decide +kernel) _, by decide +kernel⟩
theorem witness_SectorsMove_window : ([1, 2].all fun fmt => let s := windowed fmt B
    (tget s.pkg.l2 1023).isNone && inHbm (128 * 1023) && (s.windowAt (128 * 1023)).isSome && s.filled 1023 == s && decide (s.pkg.l2.length < 16)) = true := by
  decide +kernel
theorem witness_SectorsMove_victim : let s := B.modPkg fun p => { p with l2 := [(96, homeSector), (97, homeSector)] }
    rising s.pkg.l2 ∧ Mem.hbmWf s.pkg.hbm = true ∧ tget s.pkg.l2 96 = some homeSector ∧ homeSector.sideDirty = false ∧ 98 ≠ 96 ∧ (s.evictHome 96).hasRoom 98 :=
  ⟨rising_two (by decide) _ _, by decide +kernel, by decide +kernel, by decide, by decide, room_of (by decide +kernel) _⟩
def lines : State := B.modCore 0 fun c => { c with l1 := [(96, dirty), (97, dirty)] }
theorem lines_l1 : (lines.core 0).l1 = [(96, dirty), (97, dirty)] := by decide +kernel
theorem witness_SectorsMove_back : rising (lines.core 0).l1 ∧ tget (lines.core 0).l1 96 = some dirty ∧ dirty.dirty ≠ 0 ∧ lines.isLocal (sectorPa 96) = true ∧
    inHbm (localOf (sectorPa 96)) = true ∧ lines.unsubscribed (localOf (sectorPa 96) / 128) ∧ lines.hasRoom (localOf (sectorPa 96) / 128) :=
  ⟨lines_l1 ▸ rising_two (by decide) _ _, by decide +kernel, by decide +kernel, by decide +kernel, by decide +kernel, fun _ _ => rfl, room_of (by decide +kernel) _⟩
def request (w : Nat) : LoadReq := { key := K, core := 0, ea := 0x3078, pa := 0x3078, width := w, sx := true, dst := some 8, landing := 5, na := false, pc := ⟨0x1000, 1⟩ }
theorem witness_SectorsMove_l1 : ([1, 2, 4, 8].all fun w => let s : State := { B with loads := [(5, request w)] }
    (tget s.loads 5).any fun l => l.core == 0 && sectorOf l.pa == 96 && s.isLocal l.pa && inHbm (localOf l.pa) && l.pa.toNat % l.width == 0 &&
      decide ((s.core 0).l1.length < 1024) && (s.loads.all fun e => e.2.landing == e.1) && s.loads.length == 1 && s.pkg.l2.length == 0 &&
      (0 :: s.coreDomain 0 ++ s.snoopOf [0]).all fun g => (tget (s.core g).l1 96).isNone) = true := by decide +kernel

/-- An L2 operation with three positions sent, two of them to one address. -/
def l2Op (kind : L2Kind) (w : Nat) : L2Op :=
  { kind, width := w, base := 0x3000, data := 0x100, idx := 0x200, k := 4, sx := false, ops := 0, ft := false, checked := true, next := 4
    sent := [(1, 0x3078, 0xFFFFFFFF), (2, 0x3010, 5), (3, 0x3078, 7)], got := [], delivered := 0, stopWord := none }
theorem witness_EnginesDeliver : ([L2Kind.gather, .scatter, .scadd].all fun kind => [1, 2, 4, 8].all fun w =>
    let s : State := { B with ops := [(7, opOf (.l2 (l2Op kind w)) none)] }
    (tget s.ops 7).any fun o => o.result == none && (l2Op kind w).sent.find? (fun e => e.1 == 1) == some (1, 0x3078, 0xFFFFFFFF) &&
      inHbm (localOf 0x3078) && ((l2Op kind w).sent.all fun e => e.2.1 != 0x3078 || decide (1 ≤ e.1)) && localOf 0x3078 % w == 0 && s.pkg.subs.isEmpty && s.pkg.l2.isEmpty) =
    true := by decide +kernel
/-- A gather all of whose positions have come. -/
def gathered : L2Op := { l2Op .gather 4 with
  sent := [], got := (List.range 4).map fun k => (k, BitVec.ofNat 64 (0x3000 + 4 * k), BitVec.ofNat 64 (0x01020304 * (k + 1))) }
theorem witness_EnginesDeliver_granule : let s : State := { B with ops := [(7, opOf (.l2 gathered) none)] }
    ∃ b, gathered.granule = some b ∧ b.length = 16 ∧ gathered.next = gathered.k ∧ gathered.sent = [] ∧ gathered.data % 16 = 0 ∧ s.feWaits = [] ∧
      (s.team? 0 0).map (fun t => Mem.wf t.scratch) = some true := some_of (by decide +kernel)
def subscriber : Subscriber :=
  { id := 9, ctx := 0, tslot := 0, slot := 0x40, ovr := 15, parked := false, pval := 0, pscope := 0, parkn := 0, pinit := false, removing := false
    queued := [(0x1122334455667788, 0), (5, 0)] }
theorem witness_EnginesDeliver_push : let s := B.modPkg fun p => { p with subs := [(768, [{ subscriber with id := 10, slot := 0x80 }, subscriber])] }
    rising s.pkg.subs ∧ ∃ l, tget s.pkg.subs 768 = some l ∧ l.find? (fun x => x.id == 9) = some subscriber ∧
      (∀ e ∈ s.pkg.subs, ∀ x ∈ e.2, (x.id = 9 ∨ (x.ctx, x.tslot, x.slot) = (0, 0, 0x40)) → x = subscriber ∧ e.1 = 768) ∧ s.feWaits = [] ∧
      (s.team? 0 0).map (fun t => Mem.wf t.scratch) = some true :=
  ⟨rising_one _ _, some_of (by decide +kernel)⟩

/-- The leaf that maps an address of an operation, which no TLB entry denies, leads to a byte of this package's memory. -/
def mapsB (s : State) (o : EngOp) (va : Pair) (acc : Acc) (a : Nat) : Bool :=
  canonical va && inHbm a && match s.walk (s.opCore o / 96) (s.opAsid o) va with
  | .leaf e l => (((s.core (s.opCore o)).tlb ++ (s.die (s.opCore o / 96)).tlb).all fun t => !(t.covers (s.opAsid o) va) || (t.leaf == e && t.level == l)) &&
    permFault e acc o.sup == none && s.isLocal (leafPa e l va) && localOf (leafPa e l va) == a
  | _ => false
theorem maps_of {s : State} {o : EngOp} {va : Pair} {acc : Acc} {a : Nat} (h : mapsB s o va acc a = true) : s.maps o va acc a := by
  simp only [mapsB, Bool.and_eq_true] at h
  obtain ⟨⟨h1, h2⟩, h3⟩ := h
  split at h3
  · rename_i e l hw
    simp only [Bool.and_eq_true, List.all_eq_true, Bool.or_eq_true, Bool.not_eq_true', beq_iff_eq] at h3
    obtain ⟨⟨⟨ht, hp⟩, hl⟩, ha⟩ := h3
    exact ⟨h1, h2, e, l, hw, fun t ht' hc => (ht t ht').resolve_left (by simp [hc]), hp, hl, ha⟩
  · cases h3

/-- No core of a table whose entries hold no line holds one. -/
theorem tget_all {α : Type} {t : Tab α} {p : α → Prop} (h : ∀ e ∈ t, p e.2) (k : Nat) : ∀ x, tget t k = some x → p x := by
  induction t with
  | nil => simp [tget]
  | cons e t ih =>
    intro x hx
    by_cases he : k = e.1
    · exact Option.some.inj ((by simpa [tget, he] using hx : some e.2 = some x)) ▸ h e (.head _)
    · exact ih (fun y hy => h y (.tail _ hy)) x (by simpa [tget, he] using hx)
theorem noLines_of {s : State} (h : ∀ c ∈ s.cores, c.2.l1 = []) : s.noLines := by
  intro g
  simp only [State.core]
  cases hc : tget s.cores g with
  | none => rfl
  | some c => exact tget_all (p := fun c : Core => c.l1 = []) h g c hc

/-- A COPY in flight whose context owns every typed buffer. -/
def copyOp (mode : BitVec 2) (ssp dsp : BitVec 3) (pfmt : BitVec 2) (ovf : BitVec 2) (src dst : Pair) : CopyOp :=
  { mode, dsp, ssp, w := 2, rm := 0, ovf, pfmt, dst, src, len := 3, done := 1, out := 16, inp := 16, sat := 0, checked := true, old := [] }
def copyState (c : CopyOp) : State := { scr (owned B) [] with ops := [(7, opOf (.copy c) none)] }
theorem team_B : (scr (owned B) []).team? 0 0 = some (TM (scr (owned B) [])) := by decide +kernel
theorem core_B : let x := (scr (owned B) []).core 0
    (x.aOwner, x.wOwner, x.cOwner) = (some 0, some 0, some 0) ∧ (x.abuf, x.wbuf, x.cbuf) = ([], [], []) ∧ (x.aexp, x.wexp) = ([], []) := by decide +kernel
theorem copies_of (c : CopyOp) (h : c.checked = true) : (copyState c).copies 7 (opOf (.copy c) none) c (TM (scr (owned B) [])) := by
  refine ⟨⟨rising_one _ _, rfl, rfl, rfl, team_B, by decide +kernel⟩, by decide +kernel, rfl, h, ?_, fun b _ => ?_, fun w hw => ?_⟩
  · rintro ⟨e, he, -, m, hm⟩
    obtain rfl : e = (7, opOf (.copy c) none) := List.mem_singleton.1 he
    cases hm
  · rw [show (copyState c).core ((copyState c).opCore (opOf (.copy c) none)) = (scr (owned B) []).core 0 by
      rw [show (copyState c).opCore (opOf (.copy c) none) = 0 by
        show (((scr (owned B) []).ctx? 0).map (·.core)).getD 0 = 0
        decide +kernel]
      rfl]
    obtain ⟨h1, h2, -⟩ := core_B
    simp only [Prod.mk.injEq] at h1 h2
    simp only [Core.owner, Core.buf, h1, h2]
    refine ⟨?_, ?_⟩ <;> split <;> first | rfl | (split <;> rfl)
  · exact absurd hw (by rw [show (copyState c).feWaits = [] from (by decide +kernel : (scr (owned B) []).feWaits = [])]; exact List.not_mem_nil)

/-- No unit of COPY makes more than 520 bytes. -/
theorem makes_small {c : CopyOp} {src out : Nat → Byte} {n sat : Nat} (h : c.makes src out n sat) : n ≤ 520 := by
  have hw : widthOf c.w ≤ 8 := by unfold widthOf; split_ifs <;> omega
  have hr : ∀ mask i, rankIn mask i ≤ i := fun mask i => (List.length_filter_le _ _).trans (List.length_range ▸ le_rfl)
  simp only [CopyOp.makes] at h
  split at h
  · omega
  split at h
  · obtain ⟨rfl, -⟩ := h; omega
  split at h
  · obtain ⟨rfl, -⟩ := h
    have : rankIn (bytesAt out 0 8) 64 * widthOf c.w ≤ 64 * 8 := Nat.mul_le_mul (hr _ _) hw
    simp only [bm64Size]
    omega
  · obtain ⟨rfl, -⟩ := h
    split <;> omega

/-- Units of every mode between scratch and typed buffers, the source at its last place or the destination in scratch. -/
def units : List CopyOp := [copyOp 0 1 2 0 0 0x10 0x3FFE0, copyOp 0 4 1 0 0 0x3FFE0 0x20, copyOp 1 1 3 0 0 0x10 0x40, copyOp 2 2 1 0 0 0x100 0x20,
  copyOp 3 4 2 2 3 0x100 0x40, copyOp 3 1 1 0 0 0x10 0x100]
theorem witness_EnginesDeliver_units : ∀ c ∈ units, (copyState c).copies 7 (opOf (.copy c) none) c (TM (scr (owned B) [])) ∧
    (c.ssp = 1 ∨ c.ssp = 2 ∨ c.ssp = 4) ∧ (c.dsp = 1 ∨ c.dsp = 2 ∨ c.dsp = 3) ∧ c.old = [] ∧ (c.dsp.toNat < 5) := by
  intro c hc
  refine ⟨copies_of c ?_, ?_⟩ <;> revert c <;> decide
theorem witness_EnginesDeliver_unit_room : (units.all fun c => let s := copyState c
    let o := opOf (.copy c) none
    let t := TM (scr (owned B) [])
    let src := fun k => s.space o c.ssp (c.src.toNat + c.inp + k)
    decide (c.src.toNat + c.inp + c.takes src ≤ t.spaceSize c.ssp) && decide (c.dst.toNat + c.out + 16 ≤ t.spaceSize c.dsp) &&
      (c.mode == 0 || decide (c.dst.toNat + c.out + 520 ≤ t.spaceSize c.dsp)) &&
      (c.mode != 3 || (List.range 64).all fun i => (packedOne c (bytesAt src (4 * i) 4)).trap.isNone)) = true := by decide +kernel
/-- A pack with an element out of range under OVF = 11. -/
theorem witness_EnginesDeliver_overflow : let c := copyOp 3 1 2 3 3 0x10 0x40
    c.overflows fun k => (copyState c).space (opOf (.copy c) none) c.ssp (c.src.toNat + c.inp + k) := ⟨rfl, 0, by decide, by decide +kernel⟩

/-- The same with sectors at their homes: one in a window of format 1. -/
def copyAt (c : CopyOp) : State :=
  (copyState c).modPkg fun p => { p with l2 := [(0x3010 / 128, { homeSector with tag := some (2, 1) })] }
/-- Raw copies from and to memory, the last one from a page that is missing. -/
def raws : List (CopyOp × Acc × Nat) := [(copyOp 0 0 2 0 0 0x3000 0x20, .load, 0x3010), (copyOp 0 0 3 0 0 0x3000 0x7FFD0, .load, 0x3010),
  (copyOp 0 0 1 0 0 0x3000 0x3E0, .load, 0x3010), (copyOp 0 2 0 0 0 0x3FFE0 0x3000, .store, 0x3010), (copyOp 0 1 0 0 0 0x10 0x3000, .store, 0x3010)]
theorem witness_EnginesDeliver_raw : ∀ x ∈ raws, (copyAt x.1).copies 7 (opOf (.copy x.1) none) x.1 (TM (scr (owned B) [])) ∧ (copyAt x.1).noLines ∧
    (copyAt x.1).hasRoom (x.2.2 / 128) ∧ x.1.old = [] ∧ x.1.inp = 16 * x.1.done ∧ x.1.out = 16 * x.1.done ∧ x.2.2 % 16 = 0 ∧
    (copyAt x.1).maps (opOf (.copy x.1) none) (if x.1.ssp = 0 then x.1.src + 16 else x.1.dst + 16) x.2.1 x.2.2 ∧ (copyAt x.1).unsubscribed (x.2.2 / 128) := by
  intro x hx
  have hc : x.1.checked = true := by revert x; decide
  exact ⟨copies_of x.1 hc, noLines_of (s := copyAt x.1) (by revert x; decide +kernel), room_of (by revert x; decide +kernel) _, by revert x; decide, by revert x; decide,
    by revert x; decide, by revert x; decide, maps_of (by revert x; decide +kernel), fun k _ => by rw [show (copyAt x.1).pkg.subs = [] by revert x; decide +kernel]; rfl⟩
theorem witness_EnginesDeliver_raw_room : (raws.all fun x => let s := copyAt x.1
    let c := x.1
    let t := TM (scr (owned B) [])
    (c.ssp == 0 && decide (c.dst.toNat + c.out + 16 ≤ t.spaceSize c.dsp) || c.dsp == 0 && decide (c.src.toNat + c.inp + 16 ≤ t.spaceSize c.ssp)) &&
      (tget s.pkg.l2 (x.2.2 / 128)).isSome && Mem.wf (s.core 0).aexp && Mem.wf (s.core 0).wexp) = true := by decide +kernel
theorem witness_EnginesDeliver_raw_fault : let c := copyOp 0 0 1 0 0 0x100000000000 0x20
    let s := copyState c
    let o := opOf (.copy c) none
    (c.dst.toNat + c.out) % 16 = 0 ∧ canonical (c.src + BitVec.ofNat 64 c.inp) = true ∧ (c.src + BitVec.ofNat 64 c.inp).toNat % 16 = 0 ∧
      (s.engineTr (s.opCore o) (s.opAsid o) (c.src + BitVec.ofNat 64 c.inp) .load o.sup).1 = none := by decide +kernel
/-- A copy that is cancelled, and one that fails each check: its spaces, its context, its length, its alignment. -/
def unchecked (c : CopyOp) (typed : Bool) : State := cx { B with ops := [(7, opOf (.copy { c with checked := false }) none)] } fun x => { x with typed }
theorem witness_EnginesDeliver_checks : (([(2, copyOp 1 4 1 0 0 0 0, true), (6, copyOp 0 2 1 0 0 0 0, false), (3, { copyOp 0 1 0 0 0 0 0 with len := 0 }, true),
    (3, { copyOp 3 0 1 0 0 0 0 with len := 262145 }, true), (1, copyOp 1 0 1 0 0 4 0, true), (1, copyOp 2 0 1 0 0 0 4, true)] : List (Nat × CopyOp × Bool)).all fun x =>
    let s := unchecked x.2.1 x.2.2
    let c : CopyOp := { x.2.1 with checked := false }
    let modes := decide (c.ssp ∈ if c.mode = 0 then [0, 1, 2, 4] else if c.mode = 1 then [0, 1] else if c.mode = 2 then [0, 1, 2] else ([0, 1, 4] : List (BitVec 3))) &&
      decide (c.dsp ∈ if c.mode = 0 then [0, 1, 2, 3] else if c.mode = 1 then [1, 2, 3] else if c.mode = 2 then [0, 1] else ([0, 1, 2] : List (BitVec 3)))
    let undeclared := !((s.ctx? 0).any (·.typed)) && (decide (2 ≤ c.dsp.toNat) || decide (2 ≤ c.ssp.toNat))
    let length := c.len == 0 || decide ((if c.mode = 0 then 1048576 else 262144) < c.len)
    let unaligned := c.src.toNat % (if c.mode = 1 then 8 else 16) != 0 || c.dst.toNat % (if c.mode = 2 then 8 else 16) != 0
    (tget s.ops 7).any (fun o => o.result.isNone && o.work == .copy c) && (if x.1 == 2 then !modes else modes && (if x.1 == 6 then undeclared else
      !undeclared && if x.1 == 3 then length else !length && unaligned))) = true := by decide +kernel
theorem witness_EnginesDeliver_cancel : let s : State := { B with ops := [(7, { opOf (.copy (copyOp 0 1 2 0 0 0 0)) none with canceled := true })] }
    rising s.ops ∧ ∃ o, tget s.ops 7 = some o ∧ o.result = none ∧ o.canceled = true ∧ o.work = .copy (copyOp 0 1 2 0 0 0 0) :=
  ⟨rising_one _ _, some_of (by decide +kernel)⟩

def standState (w : StandOp) (dir : List DirEntry) (subs : Tab (List Subscriber)) : State :=
  (({ scr B [] with ops := [(7, opOf (.stand w) none)] } : State).modDie 0 fun d => { d with directory := dir }).modPkg fun p => { p with subs }
theorem stand_running (w : StandOp) (dir : List DirEntry) (subs : Tab (List Subscriber)) :
    (standState w dir subs).running 7 (opOf (.stand w) none) (TM (scr B [])) :=
  ⟨rising_one _ _, rfl, rfl, rfl, (by decide +kernel : (scr B []).team? 0 0 = some (TM (scr B []))), by decide +kernel⟩
/-- An operation at its start: it fails a check; a STAND whose address is not canonical, whose slot is subscribed, whose page is missing, whose
granule is on another device, or which takes an entry; an UNSTAND and a SUBSTAT with no entry, and with one in each state. -/
def entry0 (st : DirSt) : DirEntry := ⟨0, 0, 0x40, 0x3000, st⟩
def stands : List (StandOp × List DirEntry) := [(⟨.stand, 0x3008, 0x40, false, 0⟩, []), (⟨.substat, 0, 0x400, false, 0⟩, []), (⟨.stand, 2 ^ 56, 0x40, false, 0⟩, []),
  (⟨.stand, 0x3000, 0x40, false, 0⟩, [entry0 .active]), (⟨.stand, 0x100000000000, 0x40, false, 0⟩, []), (⟨.stand, 0x3000, 0x3F0, false, 0⟩, [entry0 .active]),
  (⟨.unstand, 0, 0x40, false, 0⟩, []), (⟨.unstand, 0, 0x40, false, 0⟩, [entry0 .active]), (⟨.substat, 0, 0x40, true, 0⟩, [entry0 .removing]),
  (⟨.substat, 0, 0x40, false, 0⟩, [entry0 .installing])]
theorem witness_EnginesDeliver_stand : ∀ x ∈ stands, (standState x.1 x.2 []).running 7 (opOf (.stand x.1) none) (TM (scr B [])) ∧ x.1.phase = 0 ∧
    (standState x.1 x.2 []).standBehind 7 (opOf (.stand x.1) none) = false ∧ (standState x.1 x.2 []).standAhead (opOf (.stand x.1) none) x.1 = false := by
  intro x hx
  exact ⟨stand_running _ _ _, by revert x; decide, by revert x; decide +kernel, by revert x; decide +kernel⟩
/-- Their checks, and where the translations of the STANDs that pass them lead. -/
theorem witness_EnginesDeliver_stand_checks : (stands.map fun x => x.1.slotFault (TM (scr B []))) = [1, 7, 0, 0, 0, 0, 0, 0, 0, 0] ∧
    (stands.map fun x => ((standState x.1 x.2 []).entryOf (opOf (.stand x.1) none) x.1).map (·.st)) =
      [none, none, none, some .active, none, none, none, some .active, some .removing, some .installing] ∧
    (stands.map fun x => x.1.ga != 2 ^ 56 && (let s := standState x.1 x.2 []
      (s.engineTr 0 1 x.1.ga .load false).1.any fun pa => s.isLocal pa)) = [true, true, false, true, false, true, true, true, true, true] := by decide +kernel
/-- A STAND of a granule of another device, and one that finds the directory full. -/
theorem witness_EnginesDeliver_stand_far : (let s := (standState ⟨.stand, 0x5000003000, 0x40, false, 0⟩ [] []).modPkg fun p => { p with
      hbm := hwriteN p.hbm (0x102000 + 8 * 5) 8 (0x20000000001F + 0x5000000000) }
    (s.engineTr 0 1 0x5000003000 .load false).1.any fun pa => !(s.isLocal pa)) = true := by decide +kernel
theorem witness_EnginesDeliver_stand_full : let s := standState ⟨.stand, 0x3000, 0x40, false, 0⟩ (List.replicate 32768 ⟨1, 0, 0, 0, .active⟩) []
    (s.entryOf (opOf (.stand ⟨.stand, 0x3000, 0x40, false, 0⟩) none) ⟨.stand, 0x3000, 0x40, false, 0⟩) = none ∧ 32768 ≤ ((s.engineTr 0 1 0x3000 .load false).2.die 0).directory.length := by
  refine ⟨?_, by decide +kernel⟩
  show (List.replicate 32768 _).find? _ = none
  rw [List.find?_replicate]
  rfl

/-- A STAND at the home of its granule: with room, as a granule's fourth and a fifth subscriber, and with 1,024 granules of its slice subscribed. -/
def busySlice : Tab (List Subscriber) := (List.range 1024).map fun k =>
  (k / 256 * (2 ^ 22 + 2 ^ 16) + k / 16 % 16 * (2 ^ 11 + 2 ^ 5) + k % 16, [{ subscriber with tslot := 3 }])
theorem busySlice_rises : rising busySlice := by
  simp only [rising, busySlice, List.map_map]
  refine List.Pairwise.map _ (fun a b h => ?_) List.pairwise_lt_range
  simp only [Function.comp]
  omega
def homeStand : StandOp := ⟨.stand, 0x10400010, 0x40, false, 1⟩
def subscribers (n : Nat) : Tab (List Subscriber) :=
  if n = 0 then [] else [(0x1040001, (List.range n).map fun k => { subscriber with id := k, slot := 16 * k, tslot := 1 })]
def homeStandState (subs : Tab (List Subscriber)) : State := standState homeStand [⟨0, 0, 0x40, 0x10400010, .installing⟩] subs
theorem witness_EnginesDeliver_home : ∀ subs ∈ [subscribers 0, subscribers 3, subscribers 4, busySlice],
    (homeStandState subs).running 7 (opOf (.stand homeStand) none) (TM (scr B [])) ∧ homeStand.phase = 1 ∧ homeStand.kind = .stand ∧
      (∃ c, (homeStandState subs).ctx? 0 = some c ∧ c.parks = false) ∧ ((homeStandState subs).entryOf (opOf (.stand homeStand) none) homeStand).isSome = true ∧
      inHbm (localOf homeStand.ga) = true ∧ (homeStandState subs).noLines ∧ (homeStandState subs).hasRoom (localOf homeStand.ga / 128) ∧
      rising (homeStandState subs).pkg.subs ∧ homeStand.slot % 16 = 0 ∧ (homeStandState subs).feWaits = [] := by
  intro subs h
  refine ⟨stand_running _ _ _, rfl, rfl, ?_, by revert subs; decide +kernel, by decide, noLines_of (s := homeStandState subs) (by decide +kernel : ∀ c ∈ (scr B []).cores, c.2.l1 = []), ?_, ?_, rfl, ?_⟩
  · exact (some_of (by decide +kernel) : ∃ c, (scr B []).ctx? 0 = some c ∧ c.parks = false)
  · exact room_of (by show (scr B []).pkg.l2.length < 16; decide +kernel) _
  · show rising subs
    have h3 : ∀ n, rising (subscribers n) := fun n => by unfold subscribers; split; exacts [.nil, rising_one _ _]
    rw [List.mem_cons, List.mem_cons, List.mem_cons, List.mem_singleton] at h
    rcases h with h | h | h | h <;> rw [h]
    exacts [h3 0, h3 3, h3 4, busySlice_rises]
  · show (scr B []).feWaits = []
    decide +kernel
theorem witness_EnginesDeliver_home_cases : ((tget (subscribers 3) 0x1040001).getD []).length = 3 ∧ 4 ≤ ((tget (subscribers 4) 0x1040001).getD []).length ∧
    (homeStandState (subscribers 0)).subEntries 0x1040001 < 1024 ∧ tget busySlice 0x1040001 = none ∧ 1024 ≤ (homeStandState busySlice).subEntries 0x1040001 := by decide +kernel

/-- UNSTAND and SUBSTAT of the second subscriber of a granule, with a push on its way, with none, and marked for removal. -/
def away (kind : StandKind) (clr : Bool) (q : List (BitVec 128 × Nat)) (removing : Bool) : StandOp × Subscriber :=
  (⟨kind, 0, 0x40, clr, 1⟩, { subscriber with queued := q, removing })
def aways : List (StandOp × Subscriber) := [away .unstand false [(5, 0)] true, away .unstand false [] true, away .substat false [] true, away .substat true [] false,
  away .substat false [] false]
def first : Subscriber := { subscriber with id := 10, slot := 0x80 }
theorem witness_EnginesDeliver_away : ∀ x ∈ aways, let s := standState x.1 [entry0 .active] [(768, [first, x.2])]
    s.running 7 (opOf (.stand x.1) none) (TM (scr B [])) ∧ x.1.phase = 1 ∧ x.1.kind ≠ .stand ∧ rising s.pkg.subs ∧ tget s.pkg.subs 768 = some [first, x.2] ∧
      x.2 ∈ [first, x.2] ∧ ∀ e ∈ s.pkg.subs, ∀ y ∈ e.2, (y.ctx, y.tslot, y.slot) = (0, 0, x.1.slot) ↔ (e.1 = 768 ∧ y = x.2) := by
  intro x hx
  refine ⟨stand_running _ _ _, by revert x; decide, by revert x; decide, rising_one _ _, rfl, by simp, fun e he y hy => ?_⟩
  obtain rfl : e = (768, [first, x.2]) := List.mem_singleton.1 he
  simp only [List.mem_cons, List.not_mem_nil, or_false] at hy
  obtain rfl | rfl := hy <;> revert x <;> decide

theorem witness_MatrixUnitRuns : (B.ctx? 0).map (fun c => (c.typed, c.core, c.moving)) = some (true, 0, none) ∧ 2 < 3 ∧ (B.core 0).owner 2 ≠ some 0 ∧ B.ops = [] := by
  decide +kernel
def matOp (kind : MatKind) (i : Instr) (begun : Bool) (n : Nat) (chain : List Word) : MatOp :=
  { kind, w0 := (encode i).getD 0 0, w1 := (encode i).getD 1 0, a := 0, b := 0, begun, next := n, nt := false, even := chain, odd := chain, sat := 0, nan := 0, was := [⟨⟨[], []⟩, ⟨[], []⟩, []⟩]
    wrote := [], before := [] }
def matrixState (m : MatOp) : State := { cx (owned B) (fun c => { c with matq := [7] }) with ops := [(7, opOf (.mat m) none)] }
/-- An LDT under a matrix operation that has written over a word of CBUF. -/
theorem witness_TypedBuffers_racing : (let i : Instr := .ldt D 4 2 false 0
    let s : State := { owned (regs (put i) [(4, 0x3FFFC)]) with ops := [(7, opOf (.mat { matOp .mzero i false 0 [] with before := [[(0x3FFFC, 9)]] }) none)] }
    oneOf i s fun _ _ => (s.racing 0).any (fun b => mread b 0x3FFFC == 9) && !(s.acquiring (s.key (0, 0))) && !(s.typedBusy 0 s.site.ctx 2)) = true := by decide +kernel
/-- MZERO of the last 16 planes, and MLOOP at its last step. -/
theorem witness_MatrixUnitRuns_begin : let m := matOp .mzero (.mzero D 15 0) false 0 []
    let s := matrixState m
    ∃ c, s.ctx? 0 = some c ∧ c.matq.head? = some 7 ∧ (tget s.ops 7).map (·.work) = some (.mat m) ∧ c.typed = true ∧ c.moving = none ∧ m.begun = false ∧ m.next = 0 ∧
      (∀ b < 3, (s.core c.core).owner b = some 0) ∧ Mem.wf (s.core c.core).cbuf = true := some_of (by decide +kernel)
/-- With nothing that claims the unit, and with its context on its way to another core. -/
def stepOp : MatOp := matOp .mloop (.mloop ⟨20, false⟩ 6 7 2 5 5 2 true true 3) true 3 (List.replicate 4096 0x3F800000)
def stepState (moves : Bool) : State := cx (matrixState stepOp) fun c => { c with moving := if moves then some (1, .active) else none }
theorem witness_MatrixUnitRuns_step : stepOp.begun = true ∧ stepOp.nan = 0 ∧ stepOp.next < (stepOp.w1.extractLsb' 0 12).toNat + 1 ∧
    stepOp.even.length = 4096 ∧ stepOp.odd.length = 4096 ∧ ∀ moves ∈ [true, false], (tget (stepState moves).ops 7).map (·.work) = some (.mat stepOp) ∧
      ((stepState moves).ctx? 0).map (·.matq.head?) = some (some 7) ∧ (stepState moves).handsOver 0 = moves ∧
      (∀ b < 3, ((stepState moves).core 0).owner b = some 0) ∧ Mem.wf ((stepState moves).core 0).cbuf = true ∧
      ((stepState moves).core 0).abuf = [] ∧ ((stepState moves).core 0).aexp = [] ∧ ((stepState moves).core 0).wbuf = [] ∧
      ((stepState moves).core 0).wexp = [] ∧ ((stepState moves).core 0).cbuf = [] ∧ stepOp.was = [⟨⟨[], []⟩, ⟨[], []⟩, []⟩] := by
  refine ⟨rfl, rfl, by decide +kernel, List.length_replicate .., List.length_replicate .., fun moves h => ⟨rfl, ?_⟩⟩
  simp only [List.mem_cons, List.not_mem_nil, or_false] at h
  obtain rfl | rfl := h <;> decide +kernel

/-- A matrix operation over a CBUF that holds these words at these places, and MATCTL. -/
def cbufOf (l : List (Nat × Nat)) : Mem := l.foldl (fun m e => mwriteN m e.1 4 e.2) []
def matrixOver (m : MatOp) (l : List (Nat × Nat)) (matctl : Word) : State :=
  cx ((matrixState { m with was := [⟨⟨[], []⟩, ⟨[], []⟩, cbufOf l⟩] }).modCore 0 fun x => { x with cbuf := cbufOf l }) fun c =>
    { c with regs := { c.regs with matctl } }
/-- An MFOLD of planes 2 and 3: with MATCTL 0, and with NaN to be noted, which its second output is. -/
def foldOp : MatOp := matOp .mfold (.mfold D 2) false 0 []
def infinities : List (Nat × Nat) := [(16384 * 2 + 4, 0x7F800000), (16384 * 3 + 4, 0xFF800000)]
theorem witness_MatrixUnitRuns_fold : ([([], 0), (infinities, 1)].all fun x => let s := matrixOver foldOp x.1 x.2
    (s.ctx? 0).any fun c => c.matq.head? == some 7 && (tget s.ops 7).any (fun o => o.key.ctx == 0 && o.result.isNone && !o.canceled && match o.work with
        | .mat m => !m.begun && m.kind == .mfold && m.next == 0 && m.was.all fun b => b.c == (s.core c.core).cbuf
        | _ => false) && c.typed && c.moving.isNone && ((List.range 3).all fun b => (s.core c.core).owner b == some 0) && Mem.wf (s.core c.core).cbuf &&
      c.regs.matctl.getLsbD 0 == (x.2 == 1)) = true := by decide +kernel
theorem witness_MatrixUnitRuns_fold_nan : let at_ := fun t k => mreadN (cbufOf infinities) (16384 * t + 4 * k) 4
    let makes := fun k => f32.nanBits (addOf f32 0 1 (at_ 2 k) (at_ 3 k)).bits = true ∧ f32.nanBits (at_ 2 k) = false ∧ f32.nanBits (at_ 3 k) = false
    makes 1 ∧ ∀ j < 1, ¬makes j := by decide +kernel

/-- CVTDN into ABUF and into memory, of its last row, whose word 63 is given, or past it; each format. -/
def cvtOp (pfmt : BitVec 2) (ovf : BitVec 2) (dsp : Bool) (n : Nat) : MatOp :=
  { matOp .cvtdn (.cvtdn D 6 2 0 ovf dsp pfmt) true n [] with a := if dsp then 0x3000 else 0x10 }
def cvtState (m : MatOp) (v : Nat) : State := tm (matrixOver m (if v = 0 then [] else [(16384 * 2 + 256 * 63 + 252, v)]) 0) id
def cvtRow (m : MatOp) (v : Nat) (k : Nat) : Word :=
  BitVec.ofNat 32 (mreadN ((cvtState m v).core 0).cbuf (16384 * (m.w1.extractLsb' 24 8).toNat + 256 * m.next + 4 * k) 4)
def cvts : List (MatOp × Nat) := [(cvtOp 0 3 false 64, 0), (cvtOp 0 3 false 63, 0), (cvtOp 1 3 false 63, 0x7F7FFFFF), (cvtOp 2 3 false 63, 0), (cvtOp 3 3 false 63, 0x7F800000),
  (cvtOp 0 3 true 63, 0), (cvtOp 2 3 true 63, 0), (cvtOp 3 3 true 63, 0)]
theorem witness_MatrixUnitRuns_convert : (cvts.all fun x => let s := cvtState x.1 x.2
    (tget s.ops 7).any (fun o => o.result.isNone && !o.canceled && match o.work with
        | .mat m => m.kind == .cvtdn && m.begun && m.next == x.1.next && m.was.all fun b => b.c == (s.core 0).cbuf
        | _ => false) && (s.team? 0 0).any (fun t => Mem.wf t.scratch) && ((List.range 3).all fun b => (s.core 0).owner b == some 0) &&
      decide ((x.1.w1.extractLsb' 21 3).toNat < 4) && x.1.w1.getLsbD 2 == (x.1.a == 0x3000) && x.1.w1.extractLsb' 17 2 == 3) = true := by decide +kernel
theorem witness_MatrixUnitRuns_convert_ops : ∀ x ∈ cvts, rising (cvtState x.1 x.2).ops := fun _ _ => rising_one _ _
/-- Rows of zeros fit; one with a number beyond F16's range does not, and one with an infinity fits no block. -/
theorem fits_zeros (pfmt : Nat) (rm : BitVec 3) (ovf : BitVec 2) (x : Nat → Word) (h : ∀ k < 64, x k = 0)
    (hc : pfmt < 2 → (convert f32 (if pfmt = 0 then bf16 else f16) rm ovf 0).trap = none) : ¬cvtOverflows pfmt rm ovf x := by
  unfold cvtOverflows
  split
  · rintro ⟨k, hk, ht⟩
    rw [h k hk] at ht
    change (convert f32 (if pfmt = 0 then bf16 else f16) rm ovf 0).trap.isSome = true at ht
    rw [hc ‹_›] at ht
    cases ht
  · rintro ⟨-, -, ⟨k, hk, hz⟩, -⟩
    exact hz (by rw [h k hk]; rfl)
theorem witness_MatrixUnitRuns_convert_fits : ([1, 3, 5, 6, 7].all fun j => (cvts[j]?).any fun x => (List.range 64).all fun k => cvtRow x.1 x.2 k == 0) = true ∧
    (convert f32 bf16 0 3 0).trap = none ∧ (convert f32 f16 0 3 0).trap = none := by decide +kernel
theorem witness_MatrixUnitRuns_convert_not : cvtOverflows 1 0 3 (cvtRow (cvtOp 1 3 false 63) 0x7F7FFFFF) ∧ cvtOverflows 3 0 3 (cvtRow (cvtOp 3 3 false 63) 0x7F800000) := by
  have hv : (cvtRow (cvtOp 3 3 false 63) 0x7F800000 63).toNat = 0x7F800000 := by decide +kernel
  refine ⟨⟨63, by decide, by decide +kernel⟩, rfl, by decide +kernel, ⟨63, by decide, by decide +kernel⟩, ?_⟩
  rintro e - - ⟨q, hq⟩
  obtain ⟨-, -, r, ⟨neg, m, x, hx, -⟩, -⟩ := hq 63 (by decide)
  rw [hv, show f32.value 0x7F800000 = .inf false by decide +kernel] at hx
  cases hx
/-- The bytes of a row of each format in memory, from 0x3000 on. -/
theorem witness_MatrixUnitRuns_convert_global : ([0, 2, 3].all fun pfmt => let m := cvtOp (BitVec.ofNat 2 pfmt) 3 true 63
    let s := (cvtState m 0).modPkg fun p => { p with l2 := [((0x3000 + cvtPlace pfmt 63 0) / 128, { homeSector with tag := some (1, if pfmt = 2 then 1 else 2) })] }
    let p := fun k => 0x3000 + cvtPlace pfmt 63 k
    ((List.range (cvtBytes pfmt)).all fun k => mapsB s (opOf (.mat m) none) (m.a + BitVec.ofNat 64 (cvtPlace pfmt 63 k)) .store (p k) && p k == p (k / 64 * 64) + k % 64) &&
      m.a.toNat % 128 == 0 && (p 0 / 128 != p (cvtBytes pfmt - 1) / 128 || decide (cvtBytes pfmt ≤ 64)) && (s.cores.all fun c => c.2.l1.isEmpty) &&
      decide (s.pkg.l2.length < 16) && (tget s.pkg.l2 (p 0 / 128)).isSome) = true := by decide +kernel

/-! ## Lantern commands -/

/-! ### A page of 64 GiB at address 0 maps every address below it -/

theorem walkFrom_low {s : State} {v : Nat} (h : v < 2 ^ 36) {tbl : Nat} {e : Pair} (h0 : s.walkFrom 0 3 tbl = .leaf e 2) :
    s.walkFrom v 3 tbl = .leaf e 2 := by
  have h3 : field v (pageBits 3 + 9) (pageBits 3) = field 0 (pageBits 3 + 9) (pageBits 3) := by
    simp only [field, pageBits]; omega
  have h2 : field v (pageBits 2 + 9) (pageBits 2) = field 0 (pageBits 2 + 9) (pageBits 2) := by
    simp only [field, pageBits]; omega
  rw [State.walkFrom, State.walkFrom] at h0 ⊢
  simp only [h3, h2] at h0 ⊢
  split at h0
  · cases h0
  split at h0
  · cases h0
  split at h0
  · simp at h0
  split at h0
  · cases h0
  split at h0
  · cases h0
  split at h0
  · cases h0
  split at h0
  · simp_all
  exfalso
  split at h0
  · cases h0
  rw [State.walkFrom, State.walkFrom] at h0
  repeat' split at h0
  all_goals simp at h0

/-- Whether the page at address 0 of an operation's address space is so mapped, by its walk and by what the TLBs hold. -/
def lowB (s : State) (o : EngOp) : Bool :=
  s.walk (s.opCore o / 96) (s.opAsid o) 0 == .leaf 0x1F 2 && s.pkg.deviceId == 0 && !o.sup &&
    ((s.core (s.opCore o)).tlb ++ (s.die (s.opCore o / 96)).tlb).all fun t => t.leaf == 0x1F && t.level == 2
theorem maps_low {s : State} {o : EngOp} (h : lowB s o = true) (acc : Acc) {va : Pair} {a : Nat} (ha : va.toNat = a) (hlt : a < 2 ^ 36) : s.maps o va acc a := by
  simp only [lowB, Bool.and_eq_true, beq_iff_eq, Bool.not_eq_true', List.all_eq_true] at h
  obtain ⟨⟨⟨hw, hd⟩, hs⟩, ht⟩ := h
  subst ha
  have hpa : leafPa 0x1F 2 va = va := by
    apply BitVec.eq_of_toNat_eq
    simp only [leafPa, pageBits, BitVec.toNat_ofNat, show (0x1F : Pair).toNat = 0x1F from rfl]
    omega
  refine ⟨?_, by simp only [inHbm, decide_eq_true_eq]; omega, 0x1F, 2, ?_, fun t h _ => ht t h, by rw [hs]; cases acc <;> rfl, ?_, ?_⟩
  · have hm : (va.setWidth 56).msb = false := by
      rw [BitVec.msb_eq_decide, decide_eq_false_iff_not, BitVec.toNat_setWidth]
      omega
    rw [canonical, BitVec.signExtend_eq_setWidth_of_msb_false hm, beq_iff_eq]
    apply BitVec.eq_of_toNat_eq
    rw [BitVec.toNat_setWidth, BitVec.toNat_setWidth]
    omega
  · simp only [State.walk] at hw ⊢
    split at hw
    · cases hw
    split at hw
    · cases hw
    simp_all [walkFrom_low hlt]
  · rw [hpa, State.isLocal, hd, beq_iff_eq]
    apply BitVec.eq_of_toNat_eq
    simp only [devOf, BitVec.extractLsb'_toNat, Nat.shiftRight_eq_div_pow]
    show _ = 0
    omega
  · rw [hpa, localOf]
    omega


/-! ### The steps of lantern commands -/

/-- A command at the head of a lit lantern's queue; its team has these words in scratch and memory holds these values of `n` bytes. -/
def cmdState (c : CmdOp) (block : List (Nat × Word)) (n : Nat) (mem : List (Nat × Nat)) (fb : List Nat) : State :=
  ((tm { scr B fb with ops := [(7, opOf (.cmd c) none)] } fun t => { t with scratch := block.foldl (fun m e => mwriteN m e.1 4 e.2.toNat) t.scratch }).modPkg fun p =>
    { p with hbm := mem.foldl (fun m e => hwriteN m e.1 n e.2) (hwriteN p.hbm 0x102000 8 0x1F) }).setLantern 0 c.lantern ⟨.lit, 0, 0, true, 7, 1, 0, 0, 0, .lease, [7]⟩
def cmdOp (c : CmdOp) : EngOp := opOf (.cmd c) none
def runsB (s : State) (c : CmdOp) : Bool :=
  (s.team? 0 0).any (fun t => Mem.wf t.scratch && decide (t.scrSize ≤ 2 ^ 32)) && s.cmdRuns 7 (cmdOp c) c && s.pkg.l2.isEmpty && Mem.hbmWf s.pkg.hbm && s.pkg.subs.isEmpty &&
    s.feWaits.isEmpty && lowB s (cmdOp c)
theorem runs_of {c : CmdOp} {block : List (Nat × Word)} {n : Nat} {mem : List (Nat × Nat)} {fb : List Nat} (h : runsB (cmdState c block n mem fb) c = true) :
    (∃ t, (cmdState c block n mem fb).runs 7 (cmdOp c) c t) ∧ lowB (cmdState c block n mem fb) (cmdOp c) = true ∧
      (∀ sec, (cmdState c block n mem fb).unsubscribed sec) ∧ (cmdState c block n mem fb).feWaits = [] := by
  simp only [runsB, Bool.and_eq_true, Option.any_eq_true, List.isEmpty_iff, decide_eq_true_eq] at h
  obtain ⟨⟨⟨⟨⟨⟨⟨t, ht, hw, hz⟩, hr⟩, hl⟩, hb⟩, hs⟩, hf⟩, hm⟩ := h
  refine ⟨⟨t, ⟨rising_one _ _, rfl, rfl, rfl, ht, hw⟩, hz, rfl, hr, by rw [hl]; exact .nil, hb, by rw [hl]; simp⟩, hm, fun sec k _ => by rw [hs]; rfl, hf⟩

/-- A merge at the first keys of two streams, at the end of memory's first keys: A at 0x20000, B at 0x20100, the output at 0x20200. -/
def mergeOp (op : BitVec 8) (w64 : Bool) (na nb : Word) : CmdOp := ⟨.mrg op w64, 0, 0x40, true, 3, [0x20000, 0, 0x20100, 0, 0x20200, 0, na, nb], [], 0, none, []⟩
def mergeState (op : BitVec 8) (w64 : Bool) (na nb : Word) (ka kb : Nat) : State :=
  cmdState (mergeOp op w64 na nb) [] (if w64 then 8 else 4) [(0x20000, ka), (0x20100, kb)] []
def merges : List (Word × Word × Nat × Nat) := [(1, 1, 5, 7), (1, 1, 7, 5), (2, 1, 5, 5), (1, 0, 5, 0), (0, 1, 0, 5), (0, 0, 0, 0), (0xFFFFFFFF, 0xFFFFFFFF, 0xFFFFFFFF, 0)]
theorem witness_LanternWordsStart_merge : ∀ op ∈ ([0, 1, 2, 3, 4] : List (BitVec 8)), ∀ w64 ∈ [true, false], ∀ x ∈ merges,
    let c := mergeOp op w64 x.1 x.2.1
    let s := mergeState op w64 x.1 x.2.1 x.2.2.1 x.2.2.2
    let n := if w64 then 8 else 4
    (∃ t, s.runs 7 (cmdOp c) c t) ∧ op.toNat ≤ 4 ∧ c.desc.length = 8 ∧ s.maps (cmdOp c) (c.q 0) .load 0x20000 ∧ s.maps (cmdOp c) (c.q 2) .load 0x20100 ∧
      (∀ k < 2, s.maps (cmdOp c) (c.q 4 + BitVec.ofNat 64 (n * k)) .store (0x20200 + n * k) ∧ s.unsubscribed ((0x20200 + n * k) / 128)) ∧
      (s.homeNat 0x20000 n, s.homeNat 0x20100 n) = (x.2.2.1, x.2.2.2) := by
  intro op hop w64 hw x hx
  have h := runs_of (c := mergeOp op w64 x.1 x.2.1) (block := []) (n := if w64 then 8 else 4) (mem := [(0x20000, x.2.2.1), (0x20100, x.2.2.2)]) (fb := [])
    (by revert op w64 x; decide +kernel)
  have ho : op.toNat ≤ 4 := by clear h; revert op; decide
  refine ⟨h.1, ho, rfl, maps_low h.2.1 _ (show (pairOf 0x20000 0).toNat = _ by decide) (by decide), maps_low h.2.1 _ (show (pairOf 0x20100 0).toNat = _ by decide) (by decide), fun k hk => ⟨maps_low h.2.1 _ ?_ ?_, h.2.2.1 _⟩, ?_⟩
  · clear h ho
    show (pairOf 0x20200 0 + BitVec.ofNat 64 _).toNat = _
    revert hk k w64
    decide
  · clear h ho
    revert hk k w64
    decide
  · clear h ho
    revert op w64 x
    decide +kernel
/-- Each mode ends at the last of these streams or goes on. -/
theorem witness_LanternWordsStart_merge_steps : ([0, 1, 2, 3, 4].map fun op => (merges.map fun x => (mergeStep op (if x.1 = 0 then none else some x.2.2.1)
      (if x.2.1 = 0 then none else some x.2.2.2)).map fun r => r.2.2.1.length)) =
    [[some 0, some 0, some 1, none, none, none, some 0], [some 1, some 1, some 1, some 1, some 1, none, some 1], [some 1, some 0, some 0, some 1, none, none, some 0],
      [some 1, some 1, some 2, some 1, some 1, none, some 1], [some 0, some 0, some 0, none, none, none, some 0]] := by decide

/-- A box of 2 with a position at −1/2, separations of 1/2, 3/2 and −3/2, and three coordinates. -/
theorem witness_LanternWordsStart_numbers : num 0x40000000 2 ∧ num 0xBF000000 (-1 / 2) ∧ num (placeX false 0x40000000 0xBF000000) (-1 / 2) ∧
    num (placeX true 0x40000000 0xBF000000) (3 / 2) ∧ num (diff32 0x3F000000 0) (1 / 2) ∧ num (diff32 0x3FC00000 0) (3 / 2) ∧
    num (diff32 (diff32 0x3FC00000 0) 0x40000000) (-1 / 2) ∧ num (diff32 0xBFC00000 0) (-3 / 2) := by
  refine ⟨f32_is (neg := false) (m := 2 ^ 23) (e := -22) (by decide +kernel) (by norm_num), f32_is (neg := true) (m := 2 ^ 23) (e := -24) (by decide +kernel) (by norm_num),
    f32_is (neg := true) (m := 2 ^ 23) (e := -24) (by decide +kernel) (by norm_num), f32_is (neg := false) (m := 3 * 2 ^ 22) (e := -23) (by decide +kernel) (by norm_num),
    f32_is (neg := false) (m := 2 ^ 23) (e := -24) (by decide +kernel) (by norm_num), f32_is (neg := false) (m := 3 * 2 ^ 22) (e := -23) (by decide +kernel) (by norm_num),
    f32_is (neg := true) (m := 2 ^ 23) (e := -24) (by decide +kernel) (by norm_num), f32_is (neg := true) (m := 3 * 2 ^ 22) (e := -23) (by decide +kernel) (by norm_num)⟩

/-- A grid of two cells in a box of 8, with a cutoff of 1 and a skin of 1/2, cells of eight slots and up to four particles. -/
def sampleGrid : List Word := [0x10000, 0, 0x41000000, 0x41000000, 0x41000000, 0x3F800000, 0x3F000000, 1, 4, 0, 0, 0, gridMark, 2, 4, 0]
theorem witness_LanternWordsStart_grid : Grid.bad sampleGrid = false ∧ Grid.bad (sampleGrid.set 2 0) = true ∧ num (Grid.cut sampleGrid) 1 ∧
    num (Grid.skin sampleGrid) (1 / 2) ∧ num (Grid.h sampleGrid) (3 / 2) ∧ Grid.nc sampleGrid 0 = 2 ∧ Grid.nc sampleGrid 2 = 1 := by
  refine ⟨by decide +kernel, by decide +kernel, f32_is (neg := false) (m := 2 ^ 23) (e := -23) (by decide +kernel) (by norm_num),
    f32_is (neg := false) (m := 2 ^ 23) (e := -24) (by decide +kernel) (by norm_num), f32_is (neg := false) (m := 3 * 2 ^ 22) (e := -23) (by decide +kernel) (by norm_num),
    by decide +kernel, by decide +kernel⟩

/-- NBRGRID with its block at an offset, on a lantern: each reason, and none. -/
def gridOp (lantern off : Nat) : CmdOp := ⟨.nbrgrid, lantern, off, false, 0, [], [], 0, none, []⟩
def gridState (lantern off : Nat) (block : List Word) : State := cmdState (gridOp lantern off) ((List.range 12).map fun k => (off + 4 * k, block.getD k 0)) 4 [] []
def grids : List (Nat × Nat × Nat × List Word) := [(0, 16, 0x3D0, sampleGrid), (2, 3, 0x40, sampleGrid), (1, 16, 0x44, sampleGrid), (1, 16, 0x40, sampleGrid.set 0 0x10080),
  (7, 31, 0x3E0, []), (8, 16, 0x40, sampleGrid.set 1 0x01000000), (13, 16, 0x40, sampleGrid.set 2 0)]
theorem witness_LanternWordsStart_nbrgrid : (grids.all fun x => let s := gridState x.2.1 x.2.2.1 x.2.2.2
    let p : Grid := (List.range 12).map fun k => BitVec.ofNat 32 (mreadN (((s.team? 0 0).map (·.scratch)).getD []) (x.2.2.1 + 4 * k) 4)
    let ga := pairOf (p.g 0) (p.g 1)
    runsB s (gridOp x.2.1 x.2.2.1) && x.1 == (if x.2.1 < 16 then 2 else if x.2.2.1 % 16 ≠ 0 ∨ (x.2.2.1 + 8 ≤ 0x400 ∧ ga.toNat % 256 ≠ 0) then 1
      else if 0x400 < x.2.2.1 + 48 then 7 else if canonical ga = false then 8 else if p.bad = true then 13 else 0) &&
      (s.team? 0 0).all (fun t => t.scrSize == 0x400)) = true := by decide +kernel
theorem witness_LanternWordsStart_nbrgrid_maps : (gridState 16 0x3D0 sampleGrid).maps (cmdOp (gridOp 16 0x3D0)) 0x10000 .store 0x10000 :=
  maps_low (runs_of (c := gridOp 16 0x3D0) (block := _) (n := 4) (mem := []) (fb := []) (by decide +kernel)).2.1 _ rfl (by decide)

/-- A command over the region of the grid at 0x10000. -/
def nbrOp (cmd : LanternCmd) (desc : List Word) (cur : Nat) (half : Option (Word × Word)) : CmdOp := ⟨cmd, 16, 0x40, true, 3, desc, sampleGrid, cur, half, []⟩
theorem gridAt_of {s : State} {c : CmdOp} (h : lowB s (cmdOp c) = true) (hq : c.q 0 = 0x10000) (hg : c.grid = sampleGrid) (hd : c.desc.length = 12) :
    s.gridAt (cmdOp c) c 0x10000 := by
  have hn : 4096 + 16 * (Grid.cells sampleGrid * Grid.cap sampleGrid) + 16 * Grid.nmax sampleGrid = 4416 := by decide +kernel
  refine ⟨hg ▸ witness_LanternWordsStart_grid.1, rfl, hd, fun off ho => ?_⟩
  have ho : off < 4416 := by rw [hg, hn] at ho; exact ho
  have ha : (c.q 0 + BitVec.ofNat 64 off).toNat = 0x10000 + off := by rw [hq]; bv_omega
  exact ⟨maps_low h _ ha (by omega), maps_low h _ ha (by omega)⟩

/-- NBRBIN and NBRCHK at particle `i` of `n`, whose position has a first coordinate, and one at 1. -/
def particleOp (cmd : LanternCmd) (n i full : Word) : CmdOp := nbrOp cmd [0x10000, 0, 0x20000, 0, n, i, full, 0, 0, 0, 0, 0] 0 none
def at3 (a : Nat) (x : Word) : List (Nat × Nat) := [(a, x.toNat), (a + 4, 0x3F800000), (a + 8, 0x3F800000)]
/-- The reference of particle 1 is stale or not; so many slots of cell 1 are filled. -/
def particleState (c : CmdOp) (x ref : Word) (filled : Nat) : State :=
  cmdState c [] 4 (at3 0x20010 x ++ at3 (0x10000 + Grid.refOff sampleGrid 1) ref ++ (List.range filled).map fun k => (0x10000 + Grid.slotOff sampleGrid 1 k, k + 1)) []
def particles : List (CmdOp × Word × Word × Nat) := [(particleOp .nbrchk 4 4 0, 0, 0, 0), (particleOp .nbrbin 4 4 0, 0, 0, 0), (particleOp .nbrbin 4 4 2, 0, 0, 0),
  (particleOp .nbrbin 4 1 0, 0x7F800000, 0, 0), (particleOp .nbrchk 4 1 0, 0x7FC00000, 0, 0), (particleOp .nbrchk 4 1 0, 0x40A00000, 0x40A40000, 0),
  (particleOp .nbrchk 4 1 0, 0x40A00000, 0x40C00000, 0), (particleOp .nbrbin 4 1 0, 0x40A00000, 0, 0), (particleOp .nbrbin 4 1 0, 0x40A00000, 0, 7),
  (particleOp .nbrbin 4 1 2, 0x40A00000, 0, 8)]
theorem witness_LanternWordsStart_particles : ∀ x ∈ particles, let s := particleState x.1 x.2.1 x.2.2.1 x.2.2.2
    (∃ t, s.runs 7 (cmdOp x.1) x.1 t) ∧ s.gridAt (cmdOp x.1) x.1 0x10000 ∧ (∀ sec, s.unsubscribed sec) ∧
      s.maps (cmdOp x.1) (0x20000 + BitVec.ofNat 64 (16 * 1)) .load 0x20010 := by
  intro x hx
  have h := runs_of (c := x.1) (block := []) (n := 4) (mem := at3 0x20010 x.2.1 ++ at3 (0x10000 + Grid.refOff sampleGrid 1) x.2.2.1 ++
    (List.range x.2.2.2).map fun k => (0x10000 + Grid.slotOff sampleGrid 1 k, k + 1)) (fb := []) (by revert x; decide +kernel)
  refine ⟨h.1, gridAt_of h.2.1 ?_ ?_ ?_, h.2.2.1, maps_low h.2.1 _ (by decide) (by decide)⟩ <;> clear h <;> revert x <;> decide
theorem witness_LanternWordsStart_particle_cases : (particles.map fun x => decide ((x.1.w 4).toNat ≤ (x.1.w 5).toNat)) =
      [true, true, true, false, false, false, false, false, false, false] ∧
    ((particles.drop 3).map fun x => let s := particleState x.1 x.2.1 x.2.2.1 x.2.2.2
      (x.1.q 2, x.1.w 4, x.1.w 5, (List.range 3).map fun k => s.wordAt (0x20010 + 4 * k))) =
      [0x7F800000, 0x7FC00000, 0x40A00000, 0x40A00000, 0x40A00000, 0x40A00000, 0x40A00000].map fun y : Word =>
        ((0x20000 : Pair), (4 : Word), (1 : Word), [y, 0x3F800000, 0x3F800000]) := by decide +kernel
theorem witness_LanternWordsStart_finite : (¬∃ z, num 0x7F800000 z) ∧ (¬∃ z, num 0x7FC00000 z) ∧ num 0x40A00000 5 ∧ num 0x3F800000 1 :=
  ⟨fun ⟨_, _, _, _, h, _⟩ => absurd h (by rw [show f32.value (0x7F800000 : Word).toNat = .inf false by decide +kernel]; nofun),
    fun ⟨_, _, _, _, h, _⟩ => absurd (show (f32.value (0x7FC00000 : Word).toNat).isNan = true by decide +kernel) (by rw [h]; nofun),
    f32_is (neg := false) (m := 5 * 2 ^ 21) (e := -21) (by decide +kernel) (by norm_num), witness_RoundingModes_operands.2.2.1⟩
/-- The two checks with a finite position: near its reference and not; and the slots of its cell: none filled, all but one, all. -/
theorem witness_LanternWordsStart_near : (((particles.drop 5).take 2).map fun x => let s := particleState x.1 x.2.1 x.2.2.1 x.2.2.2
    let h : Grid := x.1.grid
    decide (f32.order (h.apart (h.placed [0x40A00000, 0x3F800000, 0x3F800000]) (s.refOf x.1 0x10000 1)).toNat ≤ f32.order h.t2.toNat)) = [true, false] := by decide +kernel
theorem witness_LanternWordsStart_slots : ((particles.drop 7).all fun x => let s := particleState x.1 x.2.1 x.2.2.1 x.2.2.2
    let h : Grid := x.1.grid
    h.cellAt (h.placed [0x40A00000, 0x3F800000, 0x3F800000]) == 1 && decide (x.2.2.2 ≤ h.cap ∧ (x.1.w 4).toNat ≤ h.nmax) &&
      ((List.range x.2.2.2).all fun k => s.slotOf x.1 0x10000 1 k != 0) && (x.2.2.2 == 8 || s.slotOf x.1 0x10000 1 x.2.2.2 == 0)) = true := by decide +kernel

/-- NBRPAIR at a candidate: slot 0 of cell 0 and of cell 1, its second stencil cell; the particles in the two slots and the first coordinates of both. -/
def pairOp (cur : Nat) (half : Option (Word × Word)) : CmdOp := nbrOp .nbrpair [0x10000, 0, 0, 0, 0, 0, 6, 0x100, 2, 1, BitVec.ofNat 32 cur, 0] cur half
def pairState (c : CmdOp) (i j : Nat) (x y : Word) (fb : List Nat) : State :=
  cmdState c [] 4 ([(0x10000 + Grid.slotOff sampleGrid 0 0, i), (0x10000 + Grid.slotOff sampleGrid 1 0, j)] ++ at3 (0x10000 + Grid.refOff sampleGrid 0) x ++
    at3 (0x10000 + Grid.refOff sampleGrid 1) y) fb
def pairs2 : List (CmdOp × Nat × Nat × Word × Word × List Nat) := let here := pairCur 0 0 1 0
  [(pairOp here none, 0, 0, 0, 0, []), (pairOp here none, 1, 0, 0, 0, []), (pairOp here none, 2, 1, 0x40600000, 0x40900000, []), (pairOp here none, 1, 2, 0, 0x40900000, []),
    (pairOp here none, 1, 2, 0x40600000, 0x40900000, []), (pairOp here (some (0, 3)), 1, 2, 0x40600000, 0x40900000, []),
    (pairOp here (some (0, 3)), 1, 2, 0x40600000, 0x40900000, [17]), (pairOp (Grid.endCur sampleGrid) none, 0, 0, 0, 0, []),
    (pairOp (Grid.endCur sampleGrid) (some (0, 3)), 0, 0, 0, 0, []), (pairOp (Grid.endCur sampleGrid) none, 0, 0, 0, 0, [17])]
theorem witness_LanternWordsStart_pairs : ∀ x ∈ pairs2, let s := pairState x.1 x.2.1 x.2.2.1 x.2.2.2.1 x.2.2.2.2.1 x.2.2.2.2.2
    (∃ t, s.runs 7 (cmdOp x.1) x.1 t) ∧ s.gridAt (cmdOp x.1) x.1 0x10000 ∧ s.feWaits = [] := by
  intro x hx
  have h := runs_of (c := x.1) (block := []) (n := 4) (mem := [(0x10000 + Grid.slotOff sampleGrid 0 0, x.2.1), (0x10000 + Grid.slotOff sampleGrid 1 0, x.2.2.1)] ++
    at3 (0x10000 + Grid.refOff sampleGrid 0) x.2.2.2.1 ++ at3 (0x10000 + Grid.refOff sampleGrid 1) x.2.2.2.2.1) (fb := x.2.2.2.2.2) (by revert x; decide +kernel)
  refine ⟨h.1, gridAt_of h.2.1 ?_ ?_ ?_, h.2.2.2⟩ <;> clear h <;> revert x <;> decide +kernel
theorem witness_LanternWordsStart_pair_cases : Grid.endCur sampleGrid = pairCur 1 7 31 0 ∧ (Grid.stencil sampleGrid 0)[1]? = some 1 ∧ pairCur 0 0 1 0 ≠ Grid.endCur sampleGrid ∧
    0 < Grid.cells sampleGrid ∧ (pairs2.map fun x => let s := pairState x.1 x.2.1 x.2.2.1 x.2.2.2.1 x.2.2.2.2.1 x.2.2.2.2.2
      (s.slotOf x.1 0x10000 0 0, s.slotOf x.1 0x10000 1 0, decide (f32.order (Grid.apart sampleGrid (s.refOf x.1 0x10000 0) (s.refOf x.1 0x10000 1)).toNat ≤
        f32.order (Grid.h2 sampleGrid).toNat), (((s.team? 0 0).map (·.fbits)).getD []).contains ((0x100 + 16 * 1) / 16))) =
      [(0, 0, true, false), (1, 0, true, false), (2, 1, true, false), (1, 2, false, false), (1, 2, true, false), (1, 2, true, false), (1, 2, true, true), (0, 0, true, false),
        (0, 0, true, false), (0, 0, true, true)] := by decide +kernel

/-! ## Translation and control space -/

theorem witness_TranslationCommands_leaf : (∃ c ∈ B.ctxs, c.2.asid = 1 ∧ c.2.core / 96 = 0) ∧ (match B.walk 0 1 0x3000 with
  | .leaf _ _ => true
  | _ => false) = true := by decide +kernel
/-- The gather of a context whose next index names a page that is missing. -/
theorem witness_TranslationCommands_missing : let w : L2Op := ⟨.gather, 4, 0x0FFFFFFFFFFC, 0x100, 0x200, 2, false, 0, false, true, 1, [], [], 0, none⟩
    let s : State := { tm B (fun t => { t with scratch := mwriteN [] 0x204 4 1 }) with ops := [(7, opOf (.l2 w) none)] }
    (match s.walk 0 1 0x100000000000 with
      | .missing _ => true
      | _ => false) = true ∧ ((s.die 0).tlb.all fun e => e.covers 1 0x100000000000 == false) = true ∧ (1, vpageOf 0x100000000000 0) ∉ (s.die 0).pending ∧
    (s.die 0).pending.length < 256 ∧ w.checked = true ∧ w.stopWord = none ∧ w.next < w.k ∧ w.k ≤ 65536 ∧
    (s.ctx? 0).map (fun c => (c.asid, c.core / 96)) = some (1, 0) ∧ ∃ t, s.team? 0 0 = some t ∧
      (let i := BitVec.ofNat 32 (mreadN t.scratch (w.idx + 4 * w.next) 4)
       (0x100000000000 : Pair) = w.base + (if w.sx then i.signExtend 64 else i.setWidth 64) * BitVec.ofNat 64 w.width) ∧ canonical 0x100000000000 = true :=
  ⟨by decide +kernel, by decide +kernel, by decide +kernel, by decide +kernel, rfl, rfl, by decide, by decide, by decide +kernel, some_of (by decide +kernel)⟩
/-- A thread parked at its page, with the command of the die. -/
def parked (kind busy : Nat) : State :=
  let s := thr B fun t => { t with run := .waiting (.park 0x100000000000 kind 3) }
  s.modDie 0 fun d => { d with pending := [(1, vpageOf 0x100000000000 0), (1, 7)], sysvec := 0x2000, tcb := { d.tcb with
    busy, carg := 1 + BitVec.ofNat 64 (65536 * vpageOf 0x100000000000 0) } }
/-- The contexts, teams and threads of a state, as lists of their numbers. -/
def distinctB (s : State) : Bool :=
  decide (s.ctxs.map (·.1)).Nodup && s.ctxs.all fun c => decide (c.2.teams.map (·.1)).Nodup && c.2.teams.all fun t => decide (t.2.threads.map (·.1)).Nodup
theorem distinct_of {s : State} (h : distinctB s = true) : s.distinct := by
  simpa [distinctB, State.distinct, List.all_eq_true] using h
theorem witness_TranslationCommands_replay : (parked 0 1).distinct ∧ ((parked 0 1).die 0).tcb.busy = 1 := ⟨distinct_of (by decide +kernel), by decide +kernel⟩
theorem witness_TranslationCommands_refuse : ([0, 1, 2].all fun kind => let s := parked kind 2
    distinctB s && (s.die 0).tcb.busy == 2 && (s.die 0).pending.contains ((s.die 0).tcb.carg.toNat % 65536, (s.die 0).tcb.carg.toNat / 65536 % 2 ^ 40) &&
      (s.thread? K).any fun th => th.parkedAt == some (0x100000000000, kind, 3) && s.takes 0 th (if kind = 2 then 0x031 else 0x030)) = true := by
  decide +kernel
theorem witness_TranslationCommands_invalidate : ∀ cmd ∈ [3, 4, 5], let s := B.modDie 0 fun d => { d with tcb := { d.tcb with busy := cmd } }
    (s.die 0).tcb.busy = cmd ∧ s.translatedInFlight 0 none = false ∧ (∀ c ∈ s.cores, c.2.l1 = []) ∧ s.cores.length = 1 := by decide +kernel

/-- Two windows, the second not enabled. -/
def windows2 (x : Window) : State := B.modPkg fun p => { p with windows := [(2, ⟨0x10000, 0x20000, 0x40000, 1, true⟩), (3, x)] }
theorem witness_ControlSpaceWrites : let s := windows2 ⟨0x50000, 0x60000, 0x70000, 2, false⟩
    (s.win 3).en = false ∧ (s.win 2).en = true ∧ ¬(s.clashes 3 (s.win 3)) := by
  refine ⟨by decide +kernel, by decide +kernel, ?_⟩
  have h1 : (windows2 ⟨0x50000, 0x60000, 0x70000, 2, false⟩).win 3 = ⟨0x50000, 0x60000, 0x70000, 2, false⟩ := by decide +kernel
  have h2 : (windows2 ⟨0x50000, 0x60000, 0x70000, 2, false⟩).pkg.windows =
    [(2, ⟨0x10000, 0x20000, 0x40000, 1, true⟩), (3, ⟨0x50000, 0x60000, 0x70000, 2, false⟩)] := by decide +kernel
  have h3 : (⟨0x50000, 0x60000, 0x70000, 2, false⟩ : Window).ranges = ((0x50000, 0x60000), (0x70000, 0x70800)) := by decide +kernel
  have h4 : (⟨0x10000, 0x20000, 0x40000, 1, true⟩ : Window).ranges = ((0x10000, 0x20000), (0x40000, 0x40400)) := by decide +kernel
  rw [h1]
  simp only [State.clashes, h2, Window.overlaps, h3]
  rintro (⟨a, h⟩ | ⟨e, he, hn, hen, x, hx, y, hy, a, h⟩)
  · omega
  · simp only [List.mem_cons, List.not_mem_nil, or_false] at he hx
    obtain rfl | rfl := he
    · rw [h4] at hy
      simp only [List.mem_cons, List.not_mem_nil, or_false] at hy
      obtain rfl | rfl := hx <;> obtain rfl | rfl := hy <;> simp only at h <;> omega
    · exact absurd hen (by decide)
theorem witness_ControlSpaceWrites_clash : let s := windows2 ⟨0x1FFFF, 0x30000, 0x50000, 0, false⟩
    (s.win 3).en = false ∧ s.clashes 3 (s.win 3) := by
  refine ⟨by decide +kernel, .inr ⟨(2, ⟨0x10000, 0x20000, 0x40000, 1, true⟩), by decide +kernel, by decide, by decide +kernel, ?_⟩⟩
  exact ⟨(0x1FFFF, 0x30000), by decide +kernel, (0x10000, 0x20000), by decide +kernel, 0x1FFFF, by decide, by decide, by decide, by decide⟩
theorem witness_ControlSpaceWrites_id : (B.modPkg fun p => { p with stage := 1 }).pkg.stage ≠ 0 ∧ B.pkg.stage ≠ 0 := by decide +kernel

/-! ## Queues, launches, contexts -/

/-- A queue in an empty memory. -/
def queueState (ctl wr : Nat) (x : Queue) : State := { described B ctl wr with queues := [(0, x)] }
def queue0 (on : Bool) (taking ridx : Word) (bins : Tab (List Word)) : Queue := { (B.queue 0) with on, taking, ridx, bins }
def describedB (s : State) : Bool := inHbm (s.qAddr 0 + 63) && s.qAddr 0 % 64 == 0 && s.pkg.subs.isEmpty && s.pkg.stage == 2 && decide (s.pkg.l2.length ≤ 12)

/-- An enabled queue to serve, one of size 2, one whose ring is at a wrong place, and one that is no longer enabled. -/
theorem witness_QueuesServe : ([(0x441, false), (0x141, false), (0xF41, false), (0x440, true)].all fun x =>
    let s := queueState x.1 0 (queue0 x.2 0 0 [])
    describedB s && s.qEn 0 == (x.1 != 0x440) && (s.queue 0).on == x.2 &&
      (decide (4 ≤ s.qLog 0 ∧ s.qLog 0 ≤ 20) && s.qRing 0 % (s.qSize 0 * s.qSlotBytes 0) == 0) == (x.1 == 0x441 || x.1 == 0x440)) = true := by
  decide +kernel
def slot (s : State) (a : Nat) (l : List Word) : State := s.modPkg fun p => { p with hbm := hwriteL p.hbm a (l.flatMap fun w => leBytes 4 w.toNat) }
def packet (w11 w12 stamp : Word) : List Word := [0x3000, 0, 0, 0, 0, 0, 0, 0, 0, 0, 0, w11, w12, 100, 0, stamp]
/-- What QueuesServe supposes of the next slot of queue 0. -/
def taken (s : State) (task : Bool) : Bool :=
  let x := s.queue 0
  describedB s && s.served 0 && s.qMode 0 == task && decide ((s.qWidx 0 - x.taking).toNat ≤ s.qSize 0) && decide ((x.taking - x.ridx).toNat < s.qSize 0) &&
    !(x.lost.contains x.taking) && inHbm (s.slotAddr 0 x.taking) && x.taking != s.qWidx 0 && x.finished.isEmpty && x.taking == x.ridx &&
    s.homeNat (s.slotAddr 0 x.taking + if task then 28 else 60) 4 == 2 ^ 31 + x.taking.toNat % 2 ^ 31
/-- The slot at index 2^32 − 1 of a queue of packets and of one of task entries. -/
theorem witness_QueuesServe_packet :
    taken (slot (queueState 0x441 0 (queue0 true 0xFFFFFFFF 0xFFFFFFFF [])) 0x503C0 (packet 0 0x20080 0xFFFFFFFF)) false = true := by decide +kernel
theorem witness_QueuesServe_task :
    taken (slot (queueState 0x443 0 (queue0 true 0xFFFFFFFF 0xFFFFFFFF [])) 0x501E0 [0x3000, 0x7F, 1, 2, 3, 4, 5, 0xFFFFFFFF]) true = true := by decide +kernel
/-- A request of the placed thread, to which an entry may have been assigned. -/
def reqOf (got : Option (Nat × Word)) : QReq := ⟨K, 8, 0, 9, 0, false, got⟩
def asking (s : State) (got : Option (Nat × Word)) : State :=
  { thr s (fun t => { t with pend := [(8, .landing 9), (15, .landing 9)], counts := t.counts.setIfInBounds 0 1 }) with qreqs := [reqOf got] }
/-- The current bin has an entry; it has none, or 4,096 have been served of it, and the next one is at 0, or is it again. -/
theorem witness_QueuesServe_assign : ([(63, 4095, 63), (0, 7, 63), (63, 4096, 63)].all fun x =>
    let s := asking (queueState 0x443 1 { queue0 true 1 0 [(x.1, [0])] with cur := 63, served := x.2.1 }) none
    let y := s.queue 0
    describedB s && s.served 0 && s.qMode 0 && (s.qreqs.all fun e => e.got.isNone) && s.qreqs.find? (fun r => r.queue == 0 && !r.withdrawn) == some (reqOf none) &&
      y.cur == 63 && (if x.2.1 = 4095 then y.bin 63 == [0] && decide (y.served < 4096) else
        (y.bin 63 == [] || y.served == 4096) && y.bin x.1 == [0] && (List.range 64).all fun b => b == x.1 || y.bin b == [])) = true := by decide +kernel
theorem witness_QueuesServe_land : ([true, false].all fun live =>
    let s := asking (queueState 0x443 1 (queue0 true 1 0 [])) (some (63, 0))
    let s := if live then s else thr s fun t => { t with run := .ended }
    let x := s.queue 0
    describedB s && s.served 0 && s.qMode 0 && s.qreqs.find? (fun r => r.queue == 0 && r.got.isSome) == some (reqOf (some (63, 0))) && x.puts.isEmpty && x.lost.isEmpty &&
      decide ((s.qWidx 0 - 0).toNat ≤ s.qSize 0) && decide ((0 - x.ridx).toNat < s.qSize 0) && inHbm (s.slotAddr 0 0) &&
      (s.thread? K).any fun th => (th.run != .ended) == live) = true := by decide +kernel
theorem witness_QueuesServe_closed : let s := asking (queueState 0x447 1 (queue0 true 1 1 [])) none
    describedB s = true ∧ s.served 0 = true ∧ s.qMode 0 = true ∧ s.qClosed 0 = true ∧ (s.queue 0).taking = s.qWidx 0 ∧ (s.queue 0).bins = [] ∧
      (s.thread? K).map (·.run) = some .issuing ∧ s.qreqs.find? (fun r => r.queue == 0 && !r.withdrawn) = some (reqOf none) := by decide +kernel

/-- A step that leaves a queue enabled and served. -/
theorem witness_QueuesServe_on : let s : State := { queueState 0x441 0 (queue0 true 0 0 []) with agenda := [.event (.queueSlotTaken 0)] }
    (match step s with
    | .next t => (tget t.queues 0).any fun x => x.on && t.qEn 0
    | _ => false) = true := by decide +kernel

/-- Launches of two priorities, one of them with no cluster left. -/
def launching : State :=
  { B with launches := [(5, { launch0 with nextCluster := 0 }), (7, { launch0 with prio := 1, ready := 3, nextCluster := 0 }),
      (9, { launch0 with prio := 1, ready := 2, nextCluster := 1, clusters := 2 }), (11, { launch0 with prio := 3, ready := 4 })] }.modDie 0 fun d =>
    { d with binds := [(0, ⟨0, 1, 0, 0, 0, 5⟩)] }
theorem witness_LaunchesRun : let s := launching
    let may := fun e : Nat × Launch => e.2.die = 0 ∧ e.2.ready ≠ 0 ∧ e.2.failed = false ∧ e.2.nextCluster < e.2.clusters
    (∀ e ∈ s.launches, e.2.ready ≠ 0 ∨ e.2.refused.isSome = true ∨ e.2.done = true) ∧ (s.launches.map (·.1)).Nodup ∧
      (∃ l, tget s.launches 9 = some l ∧ may (9, l) ∧
        ∀ e ∈ s.launches, may e → e = (9, l) ∨ e.2.prio < l.prio ∨ (e.2.prio = l.prio ∧ l.ready < e.2.ready)) ∧
      tget (s.die 0).binds 1 = none ∧ (∀ j < 1, (tget (s.die 0).binds j).isSome = true) ∧ inHbm (s.packetCopy 0 1 + 63) = true ∧
      launch0.packet.length = 16 ∧ s.pkg.l2.length ≤ 12 ∧ s.pkg.subs = [] :=
  ⟨by decide +kernel, by decide +kernel, some_of (by decide +kernel), by decide +kernel⟩
/-- The last core of a die, the others disabled: a cluster that is bound there, one that is placed there, and one that cannot be,
two contexts of other kinds having come there. -/
def binding (st : Nat) (busy : Bool) : State :=
  let s := ({ B with launches := [(7, { launch0 with packet := packet 0x403 0x10 0 })], fresh := 50 } : State).modDie 0 fun d =>
    { d with disabled := List.range 95, binds := [(1, ⟨1, st, 6, if st = 2 then 95 else 0xFFFF, 0, 7⟩)] }
  if busy then { s with ctxs := s.ctxs ++ [(8, { probeCtx with core := 95, typed := true }), (9, { probeCtx with core := 95, place := .hot })] } else s
theorem witness_LaunchesRun_cluster : ([(1, false), (2, false), (2, true)].all fun x => let s := binding x.1 x.2
    (tget s.launches 7).any fun l => l.die == 0 && (l.packet.getD 12 0).extractLsb' 8 7 == 0 &&
      (s.die 0).binds.find? (fun b => b.2.launch == 7 && b.2.st == x.1) == some (1, ⟨1, x.1, 6, if x.1 = 2 then 95 else 0xFFFF, 0, 7⟩) &&
      ((s.die 0).binds.find? (fun b => b.2.launch == 7 && b.2.st == 2)).isNone == (x.1 == 1) && !((s.die 0).disabled.contains 95) &&
      s.accepts 95 l == !x.2 && ((List.range 95).all fun p => !(s.accepts p l)) && (x.2 || (s.resident 95).isEmpty) &&
      (s.ctxs.all fun e => e.2.moving.isNone) && canonical (pairOf (l.packet.getD 0 0) (l.packet.getD 1 0)) &&
      ((l.packet.getD 11 0).extractLsb' 0 10).toNat + 1 == 4 && ((l.packet.getD 11 0).extractLsb' 10 10).toNat + 1 == 2) = true := by decide +kernel
theorem witness_LaunchesRun_end : let t : Team := { probeTeam CtxRegs.reset with threads := [(0, { probeThread CtxRegs.reset with run := .ended })] }
    let s : State := (cx { B with launches := [(0, launch0)] } fun c => { c with teams := [(0, t)] }).modCore 0 fun c => { c with groups := [] }
    distinctB s = true ∧ (s.team? 0 0) = some t ∧ (∀ e ∈ t.threads, e.2.run = .ended) ∧ s.ops = [] ∧ s.loads = [] ∧ s.atoms = [] ∧ s.feWaits = [] ∧ s.landings = [] ∧
      s.remotes = [] ∧ s.pkg.subs = [] ∧ (∀ c ∈ s.cores, c.2.l1 = []) ∧ s.qreqs = [] ∧ (∀ d < 4, (s.die d).lanterns = [] ∧ (s.die d).leaseQ = []) ∧ launch0.writing = false ∧
      t.tail = none ∧ tget s.launches t.launch = some launch0 ∧
      launch0.packet.getD 4 0 = 0 ∧ launch0.packet.getD 5 0 = 0 ∧ 0 < launch0.teamsLeft := by decide +kernel

/-- A second context of two threads, one of them parked. -/
def other (p : Place) (core : Nat) : Ctx :=
  let th := { probeThread CtxRegs.reset with run := .waiting (.park 0x9000 0 1) }
  { probeCtx with place := p, core, teams := [(0, { probeTeam CtxRegs.reset with threads := [(0, th), (1, { th with run := .runnable })] })] }
def withOther (c : Ctx) : State := { B with ctxs := [(0, probeCtx), (4, c)] }
/-- A context of another cluster than the placed one's. -/
def foreign (p : Place) (core : Nat) : Ctx := { other p core with teams := tmap (other p core).teams fun _ t => { t with cluster := 1 } }
/-- The hot context of core 0 alone, or with a member of its cluster on core 1, which can be restored or not; the active one's cluster has another
member on core 2. -/
def switching (third : Option Ctx) : State := { B with
  ctxs := [(0, probeCtx), (4, foreign .hot 0)] ++ (third.map fun c => [(6, c)]).getD [] ++ [(8, other .active 2)] }
theorem witness_ContextsMove_switch : ([(none, true), (some (foreign .hot 1), true), (some (foreign .saved 1), false),
    (some { foreign .active 1 with gangOut := true }, false)].all fun x => let s := switching x.1
    distinctB s && (s.core 0).groups.length == 1 && s.inPlace 0 .hot == some 4 && (s.ctxs.all fun e => e.2.left.isNone) && s.gangReady 4 == x.2 &&
      s.inPlace 0 .active == some 0 && s.ops.isEmpty && (s.gang 4 == [4]) == x.1.isNone && s.gang 0 == [0, 8] && s.pkg.stage == 2) = true := by decide +kernel
theorem witness_ContextsMove_switch_in : let s : State := { B with ctxs := [(4, foreign .hot 0)] }
    distinctB s = true ∧ (s.core 0).groups.length = 1 ∧ s.inPlace 0 .hot = some 4 ∧ (∀ e ∈ s.ctxs, e.2.left = none) ∧ s.gangReady 4 = true ∧
      s.gang 4 = [4] ∧ s.inPlace 0 .active = none := by decide +kernel
/-- A launch with PERSIST, a team of which is in the active context, while a cluster pends on the die. -/
theorem witness_ContextsMove_persists : let l := { launch0 with packet := packet 0 0x40080 0 }
    let s := ({ B with launches := [(0, l)] } : State).modDie 0 fun d => { d with binds := [(0, ⟨0, 1, 0, 0xFFFF, 0, 5⟩)] }
    s.inPlace 0 .hot = none ∧ (∀ e ∈ s.ctxs, e.2.left = none) ∧ ∃ e, s.activeOf 0 = some e ∧ (∃ b ∈ (s.die (e.2.core / 96)).binds, b.2.st = 1) ∧ ∃ t ∈ e.2.teams,
      tget s.launches t.2.launch = some l ∧ (l.packet.getD 12 0).getLsbD 18 = true := ⟨by decide +kernel, by decide +kernel, some_of (by decide +kernel)⟩
theorem witness_ContextsMove_out : let s := withOther (other .hot 0)
    (s.ctx? 4).map (·.place) = some .hot ∧ (0x30000#64).toNat % 65536 = 0 ∧ s.streamFree 0 = true ∧ s.persists (other .hot 0) = false := by decide +kernel
theorem witness_ContextsMove_saves : ∃ c, (withOther { other .streamingOut 0 with image := 0x30000 }).ctx? 4 = some c ∧ c.place = .streamingOut ∧ c.moving = none ∧
    ((withOther { other .streamingOut 0 with image := 0x30000 }).imagePages c .store).1.isSome = true := some_of (by decide +kernel)
theorem witness_ContextsMove_saves_not : ∃ c, (withOther { other .streamingOut 0 with image := 0x1000000000000 }).ctx? 4 = some c ∧ c.place = .streamingOut ∧
    c.moving = none ∧ ((withOther { other .streamingOut 0 with image := 0x1000000000000 }).imagePages c .store).1 = none := some_of (by decide +kernel)
theorem witness_ContextsMove_in : let s := withOther (other .saved 383)
    (s.ctx? 4).map (fun c => (c.place, c.core)) = some (.saved, 383) ∧ 383 < 384 ∧ 383 % 96 ∉ (s.die (383 / 96)).disabled ∧ s.streamFree 383 = true ∧
      (s.resident 383).length < 3 := by decide +kernel
/-- A context that is read back from an image at 0x30000, and the pages of the image. -/
def reading : Ctx := { foreign .streamingIn 5 with image := 0x30000 }
def imageOf : List (Nat × Pair) := (List.range 31).map fun k => (k + 3, BitVec.ofNat 64 (0x30000 + 65536 * k))
theorem witness_ContextsMove_restores : distinctB (withOther reading) = true ∧ (withOther reading).ctx? 4 = some reading ∧ reading.place = .streamingIn ∧
    (withOther reading).restoreBank 4 5 = some .active ∧ (withOther reading).gang 4 = [4] ∧ reading.image.toNat % 65536 = 0 ∧ ((withOther reading).imagePages reading .load).1 = some imageOf ∧ (withOther reading).pkg.subs = [] ∧
    (∀ q ∈ imageOf, (withOther reading).isLocal q.2 = true) ∧ reading.imageSize = 0x1F0000 := by decide +kernel
theorem image_at (off : Nat) (h : off < 0x1F0000) : ∃ pa, pageAddr imageOf (reading.image + BitVec.ofNat 64 off).toNat = some pa ∧
    (withOther reading).isLocal pa = true ∧ inHbm (localOf pa) = true ∧ localOf pa = 0x30000 + off := by
  have hp : ∀ q < 31, imageOf.find? (fun p => p.1 == q + 3) = some (q + 3, BitVec.ofNat 64 (0x30000 + 65536 * q)) := by decide
  have hn : (reading.image + BitVec.ofNat 64 off).toNat = 0x30000 + off := by
    rw [show reading.image + BitVec.ofNat 64 off = BitVec.ofNat 64 (0x30000 + off) by rw [BitVec.ofNat_add]; rfl, BitVec.toNat_ofNat]
    omega
  have hpa : (BitVec.ofNat 64 (0x30000 + 65536 * (off / 65536)) + BitVec.ofNat 64 ((0x30000 + off) % 65536) : Pair) = BitVec.ofNat 64 (0x30000 + off) := by
    rw [← BitVec.ofNat_add]
    congr 1
    omega
  have hl : localOf (BitVec.ofNat 64 (0x30000 + off)) = 0x30000 + off := by
    simp only [localOf, BitVec.toNat_ofNat]
    omega
  refine ⟨_, ?_, ?_, ?_, hl⟩
  · rw [pageAddr, hn, show (0x30000 + off) / 65536 = off / 65536 + 3 by omega, hp _ (by omega), Option.map_some, hpa]
  · rw [State.isLocal, show (withOther reading).pkg.deviceId = BitVec.ofNat 19 0 by decide +kernel, beq_iff_eq, devOf]
    apply BitVec.eq_of_toNat_eq
    simp only [BitVec.extractLsb'_toNat, BitVec.toNat_ofNat, Nat.shiftRight_eq_div_pow]
    omega
  · rw [hl]
    simp only [inHbm, decide_eq_true_eq]
    omega
theorem witness_ContextsMove_restores_not : let s := withOther { reading with image := 0x1000000000000 }
    distinctB s = true ∧ ∃ c, s.ctx? 4 = some c ∧ c.place = .streamingIn ∧ s.restoreBank 4 c.core = some .active ∧ (s.imagePages c .load).1 = none :=
  ⟨by decide +kernel, some_of (by decide +kernel)⟩
/-- One whose image lies on another device of the server, and has not been read yet. -/
theorem witness_ContextsMove_restores_far : (let c := { reading with image := 0x5000000000 }
    let s := (withOther c).modPkg fun p => { p with
      routing := { p.routing with members := 2 }
      hbm := hwriteN p.hbm (0x102000 + 8 * 5) 8 (0x20000000001F + 0x5000000000) }
    distinctB s && s.restoreBank 4 5 == some .active && s.gang 4 == [4] && decide (100 < c.imageSize) && s.fetched.isEmpty &&
      (s.imagePages c .load).1.any fun pages => (pageAddr pages (c.image + BitVec.ofNat 64 100).toNat).any fun pa => !(s.isLocal pa)) = true := by decide +kernel
/-- A migration request of island 0, with a cooler island to go to, and with migration disabled. -/
def migrating (en : Bool) : State :=
  ((withOther (other .hot 2)).modDie 0 fun d => { d with power := { d.power with
    migen := en, islands := d.power.islands.modify 0 fun i => { i with migReq := true } } }).modCore 0 fun c => { c with groups := [] }
def noWorkB (s : State) : Bool := s.ops.isEmpty && s.loads.isEmpty && s.atoms.isEmpty && s.feWaits.isEmpty && s.remotes.isEmpty && s.pkg.subs.isEmpty
/-- The context is free to move, its streaming bank is not, or its switch-out is requested. -/
theorem witness_ContextsMove_migrate : ([(true, false), (false, false), (true, true)].all fun x =>
    let s : State := { migrating true with ctxs := [(0, { probeCtx with gangOut := x.2 }), (4, other .hot 2)] ++ if x.1 then [] else [(7, { reading with core := 0 })] }
    distinctB s && noWorkB s && ((s.die 0).power.islands[0]?).any (·.migReq) && (s.movingFrom 0 0).isNone && (s.die 0).power.migen &&
      (s.heaviest 0 0).any (fun e => e.1 == 0 && s.streamFree e.2.core == x.1 && e.2.gangOut == x.2) && (s.core 0).groups.isEmpty &&
      (s.coolest (s.targets 0)).any fun g => (s.freeBank g).isSome) = true := by decide +kernel
theorem witness_ContextsMove_lapse : (let s := migrating false
    distinctB s && ((s.die 0).power.islands[0]?).any (·.migReq) && (s.movingFrom 0 0).isNone && !(s.die 0).power.migen) = true := by decide +kernel
/-- An arrival at the place kept for it, and one at the free one of two where another context has taken that; on the die, and on another. -/
theorem witness_ContextsMove_arrive : ([90, 383].all fun g => [(none, Place.active, Place.active), (some (foreign .active g), .active, .hot),
    (some (foreign .hot g), .hot, .active)].all fun x =>
    let s : State := { B with ctxs := [(0, probeCtx), (4, { other .streamingOut 2 with moving := some (g, x.2.1) })] ++ (x.1.map fun c => [(6, c)]).getD [] }
    let held := fun r => s.ctxs.any fun e => e.2.core == g && e.2.place == r
    distinctB s && noWorkB s && (s.ctx? 4).map (·.moving) == some (some (g, x.2.1)) && (s.movingFrom 0 (islandOf 2)).isSome == (g == 90) &&
      (if x.1.isNone then x.2.2 == x.2.1 && !(held x.2.1) else held x.2.1 && !(held x.2.2) && (x.2.2 == .active || held .active))) = true := by decide +kernel
theorem witness_ContextsMove_die : let s := migrating false
    distinctB s = true ∧ noWorkB s = true ∧ (s.ctx? 4).map (fun c => (c.place, c.core / 96, c.moving, c.gangOut)) = some (.hot, 0, none, false) ∧ 383 / 96 ≠ 0 ∧
      383 % 96 ∉ (s.die 3).disabled ∧ s.streamFree 2 = true ∧ (s.freeBank 383).isSome = true ∧ (s.core 2).groups = [] := by decide +kernel

/-! ## The package -/

/-- Samples at a temperature, just below the trip and at it. -/
def sampled (t : Nat) : State := { (B.modPkg fun p => { p with up := 19999 }) with
  env := [{ temps := List.replicate 4 (List.replicate 32 t), currents := [], issue := [], demand := [2400, 2400, 2400, 2400] }] }
theorem witness_IntervalsPass : (sampled 119).pkg.stage = 2 ∧ ∀ d < 4, ∀ k < 32, min 255 (((sampled 119).env.head?.map fun e =>
    (e.temps.getD d []).getD k 0).getD 0) = 119 := by decide +kernel
theorem witness_IntervalsPass_trip : (sampled 120).pkg.stage = 2 ∧ 20000 ≤ (sampled 120).pkg.up + 1 ∧ (sampled 120).pkg.tripped = false ∧
    ((sampled 120).env.head?.map fun e => (e.temps.getD 3 []).getD 31 0) = some 120 := by decide +kernel

def lamp (st : LanternSt) (why : SnuffFor) : State := { B.setLantern 3 31 ⟨st, 0, 0, true, 7, 1, 3, 4, 60, why, []⟩ with us := 100 }
theorem witness_LanternsChange : ([(LanternSt.warming, SnuffFor.lease), (.snuffed, .cap), (.snuffed, .lease), (.glowing, .lease)].all fun x =>
    let s := lamp x.1 x.2
    (s.die 3).leaseQ.isEmpty && decide ((s.holders 3).length ≤ (s.die 3).power.cap) && (s.lantern 3 31).st == x.1 && (s.lantern 3 31).why == x.2 &&
      decide ((s.lantern 3 31).since + 40 ≤ s.us) &&
      (List.range 32).all fun j => j == 31 || (s.lantern 3 j).st != .glowing) = true := by decide +kernel

def safeStage (verified : Bool) : State := B.modPkg fun p => { p with stage := 1, verified }
/-- A management request of so many bytes to a target and an offset, a read or a write. -/
def requestTo (target off n : Nat) (write : Bool) : PacketHead :=
  ⟨false, 0x10, 0, n, carried n write, false, 3, 0, 0x99, BitVec.ofNat 64 (target * 2 ^ 56 + off)⟩
def askedB (s : State) (target off n : Nat) (write : Bool) : Bool :=
  let p := requestTo target off n write
  s.pkg.stage != 0 && p.dst == s.pkg.deviceId && p.addr.toNat / 2 ^ 56 == target && p.addr.toNat % 2 ^ 48 == off
theorem asked_of {s : State} {t off n : Nat} {write : Bool} (h : askedB s t off n write = true) : s.asked (requestTo t off n write) t off n write := by
  simp only [askedB, Bool.and_eq_true, beq_iff_eq, bne_iff_ne] at h
  exact ⟨h.1.1.1, h.1.1.2, rfl, rfl, rfl, rfl, h.1.2, h.2⟩
theorem witness_PackageStarts : (safeStage false).pkg.stage = 1 ∧ (safeStage false).pkg.verified = false ∧ (safeStage false).pkg.vfail = false ∧
    (safeStage false).pkg.tripped = false ∧ (safeStage true).pkg.verified = true ∧ (safeStage true).pkg.subs = [] := by decide +kernel
theorem witness_PackageStarts_restart : let p := requestTo 5 (2 ^ 48 - 1) 33 true
    ({ B with restartAsk := some p } : State).asked p 5 (p.addr.toNat % 2 ^ 48) p.bytes true := asked_of (by decide +kernel)

theorem witness_ErrorsCount : (B.modPkg fun p => { p with cecnt := 0xFFFFFFFF }).pkg.cecnt = 0xFFFFFFFF ∧
    (B.modPkg fun p => { p with cecnt := 0xFFFFFFFE }).pkg.cecnt ≠ 0xFFFFFFFF := by decide +kernel
theorem witness_ErrorsCount_tlb : ([0, 95, 96].all fun core => let e : ErrorSite := ⟨.tlb, 3, 0, core, 0, true, 0⟩
    e.storage == .tlb && decide (e.die < 4) && decide (e.core < 96) == (core != 96) && B.pkg.cecnt != 0xFFFFFFFF) = true := by decide +kernel
def errorSite (st : Storage) : ErrorSite := ⟨st, 3, 0x3000, 5, 1, true, 0x40⟩
theorem witness_ErrorsCount_clean : let h := { homeSector with st := .clean }
    let s := B.modPkg fun p => { p with l2 := [(96, h)] }
    rising s.pkg.l2 ∧ tget s.pkg.l2 (localOf (errorSite .l2).addr / 128) = some h ∧ h.st = .clean ∧ h.sideDirty = false ∧ s.pkg.cecnt ≠ 0xFFFFFFFF :=
  ⟨rising_one _ _, by decide +kernel⟩
theorem witness_ErrorsCount_lost : ([Storage.hbm, .l2, .l1, .regScratch, .typedBuffer, .other].all fun st =>
    let s := inL1 (B.modPkg fun p => { p with elput := 0xFFFFFFFF, l2 := [(96, homeSector)] }) 96 dirty
    let e : ErrorSite := { errorSite st with die := if st = .l1 then 0 else 3, core := 0 }
    decide (e.die < 4) && s.cleanCopy e == false) = true := by decide +kernel

/-- Every target, at offsets and widths that its clauses name. -/
theorem witness_ManagementAnswers : ([(0, 0x4028, 4, true), (0, 0x20C, 4, false), (0, 32 * 15 + 8, 8, true), (0, 32 * 15 + 24, 4, true), (0, 2 ^ 48 - 4, 4, true),
    (0, 2 ^ 48 - 4, 4, false), (0, 0x200, 5, false), (2, 20, 4, false), (2, 4, 4, true), (2, 0, 8, false), (3, 2 ^ 26 - 256, 256, true), (3, 2 ^ 26 - 1, 1, false),
    (3, 2 ^ 26, 1, true), (4, 0, 256, false), (4, 0, 32, true), (6, 7, 4, false), (255, 0, 1, true)].all fun x =>
    askedB B x.1 x.2.1 x.2.2.1 x.2.2.2) = true ∧ B.asked (requestTo 1 (3 * 2 ^ 48 + 0x2C) 4 false) 1 0x2C 4 false := by
  refine ⟨by decide +kernel, ?_⟩
  refine ⟨by decide +kernel, by decide +kernel, rfl, rfl, rfl, rfl, by decide +kernel, by decide +kernel⟩
theorem witness_ManagementAnswers_values : (0x4028, false) ∈ (ctlWrites B 7).map (fun e => (e.1, e.2.1)) ∧ (65537 : Pair).toNat % 65536 ≠ 0 ∧
    (∀ d < 4, (∀ t ∈ (B.die d).power.temps, t < 256) ∧ ∀ w ∈ (B.die d).power.words, w.2 < 2 ^ 32) ∧ Mem.wf B.pkg.flash = true ∧ B.pkg.measurement.length = 64 := by
  decide +kernel
theorem witness_ManagementAnswers_clash : let s := windows2 ⟨0x1FFFF, 0x30000, 0x50000, 0, false⟩
    s.asked (requestTo 0 (32 * 3 + 24) 4 true) 0 (32 * 3 + 24) 4 true ∧ (s.win 3).en = false ∧ (1#64 : Pair).getLsbD 0 = true ∧ (1#64 : Pair).extractLsb' 1 2 ≠ 3 ∧
      s.clashes 3 { s.win 3 with fmt := (1#64 : Pair).extractLsb' 1 2 } :=
  ⟨asked_of (by decide +kernel), by decide +kernel, by decide, by decide, .inr ⟨(2, ⟨0x10000, 0x20000, 0x40000, 1, true⟩), by decide +kernel, by decide,
    by decide +kernel, (0x1FFFF, 0x30000), by decide +kernel, (0x10000, 0x20000), by decide +kernel, 0x1FFFF, by decide, by decide, by decide, by decide⟩⟩
/-- Requests that are malformed: reserved bits, another kind, and a LEN that does not match BYTES; a flash write of other bytes than it says. -/
theorem witness_ManagementAnswers_malformed : B.pkg.stage ≠ 0 ∧ (requestTo 3 0 64 true).dst = B.pkg.deviceId ∧
    ({ requestTo 5 0 4 true with reserved := true } : PacketHead).reserved = true ∧ ({ requestTo 5 0 4 true with kind := 0x11 } : PacketHead).kind ≠ 0x10 ∧
    ({ requestTo 0 0 64 true with len := 0 } : PacketHead).len ≠ carried 64 true ∧ ({ requestTo 0 0 64 false with len := 1 } : PacketHead).len ≠ carried 64 false ∧
    ([1, 2, 3] : List Byte).length ≠ (requestTo 3 0 64 true).bytes := by decide +kernel
theorem witness_ManagementAnswers_response : let s : State := { B with mgmt := [⟨requestTo 2 0 4 false, false, []⟩, ⟨{ requestTo 5 0 1 true with tag := 0xFFFF }, true, [1, 2, 3]⟩] }
    ∃ m, s.mgmt.find? (fun x => x.head.tag.toNat == 0xFFFF) = some m ∧ m.reject = true := some_of (by decide +kernel)

/-- A packet of the fabric of a kind, to an address. -/
def head (kind bytes len : Nat) (res : Bool) (a : Pair) : PacketHead := ⟨res, kind, 3, bytes, len, false, 4, 0, 9, a⟩
/-- The last bytes of the memory, of every length and width. -/
theorem witness_FabricServes : B.pkg.stage = 2 ∧ (head 1 0 0 false 0).dst = B.pkg.deviceId ∧ (head 1 0 0 true 0).reserved = true ∧ B.pkg.discarded = none ∧
    B.pkg.l2.length ≤ 12 ∧ (∀ n ∈ [1, 32, 33, 256], (head 3 n (if n ≤ 32 then 0 else (n + 31) / 64) false (512000000000 - BitVec.ofNat 64 n)).addr.toNat % 2 ^ 45 + n ≤ 512000000000) ∧
    inHbm ((head 5 8 0 false 511999999992).addr.toNat % 2 ^ 45) = true ∧ (head 5 8 0 false 511999999992).addr.toNat % 2 ^ 45 % 8 = 0 ∧
    (head 5 8 0 false 511999999992).aop ≤ 12 ∧ (head 5 8 0 false 511999999992).aop ≠ 11 := by decide +kernel
theorem witness_FabricServes_later : let s := B.modPkg fun p => { p with discarded := some 5, up := 2006 }
    ∀ d, s.pkg.discarded = some d → d + 2000 < s.pkg.up := all_of (o := (B.modPkg fun p => { p with discarded := some 5, up := 2006 }).pkg.discarded)
  (P := fun d => d + 2000 < 2006) (by decide +kernel)

/-- A request of each kind, sent 2,000 µs ago or a microsecond earlier, and the response to it. -/
def remote (k : RemKind) (late : Bool) : State := { (B.modPkg fun p => { p with up := if late then 2006 else 2005 }) with
  remotes := [(9, ⟨0x200000003008, 1, 0, k, 5⟩), (10, ⟨0x200000003008, 1, 0, .fill false, 5⟩)], ops := [(7, opOf (.qdone 5 0x0FFFFFFF true) none)]
  launches := [(0, launch0)] }
/-- A constant load whose bytes 1 and 2 are asked for, of which nothing or byte 3 is then left. -/
def konstReq (rest : List (Pair × Nat × Nat)) : ConstReq := ⟨K, 11, some 8, ⟨0x1000, 1⟩, 0x55, 1, 2, rest⟩
def kinds : List RemKind := [.fill true, .fill false, .read 7 false, .read 7 true, .image 4 false, .image 4 true, .konst (konstReq []),
  .konst (konstReq [(0x200000004000, 3, 1)]), .wait 0, .atom turns, .write none none, .write (some ⟨K, 0x1000, 0⟩) (some 7), .qdone 7]
theorem witness_FabricAnswers : ([true, false].all fun late => kinds.all fun k => let s := remote k late
    (head 2 256 4 false 0).dst == s.pkg.deviceId && s.remotes.find? (fun r => r.1 % 2 ^ 16 == (head 2 256 4 false 0).tag.toNat) == some (9, ⟨0x200000003008, 1, 0, k, 5⟩) &&
      tget s.remotes 9 == some ⟨0x200000003008, 1, 0, k, 5⟩ && s.loads.isEmpty && s.atoms.isEmpty && (s.launches.all fun e => !e.2.writing) &&
      decide (5 + 2000 < s.pkg.up) == late && (s.cores.all fun c => c.2.l1.isEmpty) && (s.team? 0 0).any fun t => t.launch == 0 && !t.live.isEmpty && decide (t.flog.length < 16)) =
    true := by decide +kernel
/-- Responses of the lengths that their kinds have, and malformed ones. -/
theorem witness_FabricAnswers_heads : (head 2 256 4 false 0).len = flits 256 ∧ (head 2 2 0 false 0).len = flits (konstReq []).n ∧ (head 4 0 0 true 0).reserved = true ∧
    (head 4 0 1 false 0).len ≠ 0 ∧ (head 6 16 0 false 0).len = flits 16 ∧ (head 7 0 0 false 0).kind = 7 ∧
    ∀ k, (konstReq []).first ≤ k → k < (konstReq []).first + 2 → (konstReq []).word.extractLsb' (8 * k) 8 = 0#8 := by
  refine ⟨by decide, by decide, by decide, by decide, by decide, by decide, fun k h1 h2 => ?_⟩
  obtain rfl | rfl : k = 1 ∨ k = 2 := by simp only [konstReq] at h1 h2; omega
  all_goals decide
theorem witness_FabricAnswers_atom : [3, 5].length = turns.turns.length ∧ turns.width = 8 ∧ turns.ord = 0 ∧ (turns.turns.map (·.landing)).Nodup := by decide +kernel
theorem witness_FabricAnswers_qdone : ∃ o, tget (remote (.qdone 7) false).ops 7 = some o ∧ o.work = .qdone 5 0x0FFFFFFF true ∧ o.result = none := some_of (by decide +kernel)

/-! ## Steps -/

/-- The placed word is fetched and decoded. -/
theorem witness_StepRunsDecoded : (let s := put (.lea D 4 6)
    let t : State := { s with agenda := [] }
    s.agenda == [.issue 0 0] && (tget (t.core 0).groups 0).any fun g => g.started && t.executing g == [(0, 0)] &&
      (match t.fetchAll g.ctx (t.executing g) (wordVa g.h g.word) with
        | (some w0, [], u) => (match u.fetchSecond g (t.executing g) w0 with
          | (some w1, [], _) => (decodeWords w0 w1).toOption == some (.lea D 4 6)
          | _ => false)
        | _ => false)) = true := by decide +kernel
/-- A group of the laneset that comes before another: the one that the laneset issued from last, or an older one; it can issue, or waits. -/
def rivals (last : Option Nat) (ready : Bool) : State :=
  let s := two (put (.lea D 4 6)) fun th => { th with run := .issuing, pc := ⟨0x1000, 1⟩, pend := if ready then [] else [(4, .landing 9)] }
  s.modCore 0 fun c => { c with greedy := (last.map fun n => [(0, n)]).getD [], groups := c.groups.flatMap fun g =>
    [(0, { g.2 with order := 9 }), (1, { g.2 with members := [(0, 1)], order := last.getD 3 }), (4, { g.2 with members := [(0, 1)], order := 1 })] }
theorem witness_StepRunsDecoded_before : (put (.lea D 4 6)).canIssue 0 0 = true ∧ ([(none, true), (none, false), (some 20, true)].all fun x =>
    let s := rivals x.1 x.2
    (tget (s.core 0).groups 0).any fun g => (s.core 0).groups.any fun e => e.1 / 4 == 0 && tget (s.core 0).greedy 0 != some g.order &&
      (tget (s.core 0).greedy 0 == some e.2.order || decide (e.2.order < g.order)) && s.canIssue 0 e.1 == x.2 && !(s.stalls (.lea D 4 6))) = true := by decide +kernel
theorem witness_StepRunsDecoded_stall :
    (thr (put (.lea D 4 6)) fun t => { t with pend := [(4, .landing 9)] }).stalls (.lea D 4 6) = true ∧
    ({ B with agenda := [.engine 7] } : State).agenda = .engine 7 :: [] := by decide +kernel
theorem witness_StepRunsDecoded_event : ({ B with agenda := [.event .correctedError] } : State).agenda = .event .correctedError :: [] ∧
    Instr.correctedError.isTurn = true := by decide +kernel
theorem witness_MemoryKept : B.memWf = true ∧ (match step B with
    | .next t => t.agenda == []
    | _ => false) = true := by decide +kernel

/-! ## WellFormed refuses an ill-formed term for each check -/

theorem wf_event : Instr.wellFormed .correctedError = false := by decide +kernel
theorem wf_own_row : Instr.wellFormed (.syswr 4 0x39) = false ∧ Instr.wellFormed (.syswr 4 0x102) = false := by decide +kernel
/-- Qualifier 2: a value in a field that the form does not use. -/
theorem wf_unused : ([.hopr D 4 5 3 1 0 false, .br 6 4 0 0, .redux D 4 0 0 1 0, .atom ⟨3, false⟩ 4 6 1 0 4 0 0, .ldsx D 4 5 false 1 0 false 0 0 0,
    .stsx 6 4 5 false 1 0 0 0 0, .atoms D 4 6 8 0 1 0 3 false 0, .copy D 6 4 7 1 0 0 4 1 2 0 0].all fun i =>
    encodingFault i == some 2 && !i.wellFormed) = true := by decide +kernel
/-- Qualifier 1: a reserved value in a used field, of every instruction that has one. -/
def reserved1 : List Instr := [.shli D 4 32, .shri D 4 32, .sari D 4 0xFF, .flags D 3, .flgclr 64, .mad D 4 5 6 1 false, .bfe D 4 false 31 1, .bfi D 4 5 16 16,
  .leax D 4 5 3 0 0, .clzw D 4 3, .ffsw D 4 3, .popcw D 4 3, .padd D 4 5 0, .psub D 4 5 3, .padds D 4 5 1 1 false, .psubs D 4 5 0 0 false,
  .pmin D 4 5 0 false, .pmax D 4 5 3 false, .pmul D 4 5 0 false false, .pdot4 D 4 5 6 1 false false, .rqenc D 4 1, .cvti D 4 8 0 0, .ialui D 4 1 0,
  .falui D 4 0x39 0, .fopr D 4 5 0x33 0 0, .ffma D 4 5 6 4 0, .frnd D 4 0 1, .fcvt D 4 2 2 0 0 true, .ftoi D 4 2 2 0 1 false, .itof D 4 4 2 0 0,
  .fdiv D 4 5 0 1 0, .fsqrt D 4 4 0 0, .dadd D 4 6 4 0]
def reserved2 : List Instr := [.dsub D 4 6 7 0, .dmul D 4 6 5 0, .dfma D 4 6 4 6 0, .dcmp D 4 6 4, .hfma2 D 4 5 6 4 0 false, .hopr D 4 5 5 0 0 false, .jset 16,
  .jwait 16, .jdrop 255, .rep 0 0, .br 7 4 5 0, .shfl D 4 5 0 6, .redux D 4 3 0 0 0, .fence 0 4, .flush 4 0, .inval 4 6, .pref 4 2,
  .ldgx D 4 5 0 false false true 0 0, .stgx 6 4 5 0 false true 1 0, .atom D 4 6 0 0 4 2 0, .cas D 4 6 8 1 4 0 0, .lds D 4 3 0, .ldt D 4 3 false 0,
  .stt 6 4 2 true 0, .qpop ⟨0, true⟩, .trap 4 16, .sysrd D 8, .syswr 4 0x18, .clock D 2]
def reserved3 : List Instr := [.ldsx D 4 5 false 0 3 false 0 0 0, .stsx 6 4 5 true 12 0 0 0 0, .atoms D 4 6 0 0 3 0 0 false 0,
  .copy D 6 4 7 0 3 0 4 1 2 0 0, .mloop D 6 7 1 0 0 0 false false 0, .mfold D 3, .cvtdn D 6 16 0 0 false 0, .mzero D 15 1, .gather D 6 7 8 0 2 false 0,
  .scatter D 6 7 8 0 6 false 0, .scadd D 6 7 8 1 4 0 false false 0, .substat D 6 2 0, .lease D 2 0, .mrg D 5 6 5 0 4 0, .nbrgrid D 5 6 1 0,
  .nbrbin D 5 6 2 0, .nbrpair D 5 6 0 0, .nbrchk D 5 6 6 0, .qput D 5 6 0 0, .qdone D 20 4 6, .mov D 0x84, .mov D 0xC0, .callx D 0x90]
theorem wf_reserved1 : (reserved1.all fun i => encodingFault i == some 1 && !i.wellFormed) = true := by decide +kernel
theorem wf_reserved2 : (reserved2.all fun i => encodingFault i == some 1 && !i.wellFormed) = true := by decide +kernel
theorem wf_reserved3 : (reserved3.all fun i => encodingFault i == some 1 && !i.wellFormed) = true := by decide +kernel
/-- Qualifier 9: a destination named with NW = 1; qualifier 5: a latch where none may stand. -/
theorem wf_no_write : encodingFault (.add ⟨3, true⟩ 4 5) = some 9 ∧ (Instr.add ⟨0, true⟩ 4 5).wellFormed = true := by decide +kernel
theorem wf_latch : encodingFault (.dadd D 0x80 4 0 0) = some 5 ∧ encodingFault (.ldg D 0x80 0) = some 5 ∧ (Instr.add D 0x83 4).wellFormed = true := by
  decide +kernel
theorem wf_plain : (computing.all Instr.wellFormed && parts.all Instr.wellFormed && pairs.all Instr.wellFormed && conditional.all Instr.wellFormed) = true := by
  decide +kernel

/-! ## The words that the spec writes out -/

theorem decode_integer : decodeTableWord 32 0x02010809 = some (.add ⟨0, true⟩ 8 9) ∧ decodeTableWord 32 0x0B1480A2 = some (.shl ⟨10, false⟩ 0x80 0xA2) ∧
    decodeTableWord 32 0x1B060164 = some (.addi ⟨3, false⟩ 1 0x64) ∧ decodeTableWord 64 0x000003E894060102 = some (.ialui ⟨3, false⟩ 1 2 0x3E8) ∧
    decodeTableWord 64 0x00100000860A0600 = some (.clzw ⟨5, false⟩ 6 2) ∧ decodeTableWord 64 0x001000008B0E0809 = some (.padds ⟨7, false⟩ 8 9 2 0 false) := by
  decide +kernel
theorem decode_float : decodeTableWord 64 0x3FC00000980A0630 = some (.falui ⟨5, false⟩ 6 0x30 0x3FC00000) ∧
    decodeTableWord 64 0x30220000990A0607 = some (.fopr ⟨5, false⟩ 6 7 0x30 1 1) ∧ decodeTableWord 64 0x030200009A080102 = some (.ffma ⟨4, false⟩ 1 2 3 0 1) ∧
    decodeTableWord 64 0x120200009C080500 = some (.fcvt ⟨4, false⟩ 5 1 2 0 1 false) := by decide +kernel
theorem decode_control : decodeTableWord 64 0x00000018B0400B0D = some (.br 2 0x0B 0x0D 0x18) ∧ decodeTableWord 64 0x00000028B13C0000 = some (.call ⟨30, false⟩ 0x28) ∧
    decodeTableWord 32 0x53000002 = some (.jset 2) ∧ decodeTableWord 32 0x58000303 = some (.rep 3 3) ∧ decodeTableWord 32 0x60080900 = some (.ballot ⟨4, false⟩ 9) := by
  decide +kernel
theorem decode_memory : decodeTableWord 32 0x680C0404 = some (.ldg ⟨6, false⟩ 4 4) ∧ decodeTableWord 32 0x691204FE = some (.stg 9 4 0xFE) ∧
    decodeTableWord 64 0x11080006C00E0409 = some (.ldgx ⟨7, false⟩ 4 9 1 false false true 1 6) ∧ decodeTableWord 32 0x6A0A0202 = some (.ldk ⟨5, false⟩ 2 2) ∧
    decodeTableWord 64 0x03011000C20A0408 = some (.atom ⟨5, false⟩ 4 8 3 0 4 1 0) ∧ decodeTableWord 32 0x70100E80 = some (.lds ⟨8, false⟩ 0x0E 2 0) := by decide +kernel
theorem decode_engines : decodeTableWord 64 0x07090500CB120604 = some (.copy ⟨9, false⟩ 6 4 7 0 1 0 4 1 2 0 0) ∧
    decodeTableWord 64 0x0055B001D0280000 = some (.mloop ⟨20, false⟩ 0 0 0 5 5 2 true true 1) ∧
    decodeTableWord 64 0x08010014D8120607 = some (.gather ⟨9, false⟩ 6 7 8 0 4 false 20) ∧ decodeTableWord 64 0x00000000DB18140E = some (.stand ⟨12, false⟩ 0x14 0x0E 0) ∧
    decodeTableWord 64 0x00010000E2140506 = some (.mrg ⟨10, false⟩ 5 6 0 0 4 0) ∧ decodeTableWord 64 0x00004000E8120506 = some (.qput ⟨9, false⟩ 5 6 1 0) := by
  decide +kernel

/-! ## Values that the rules give -/

/-- Register 10 after one word at operands in g4 to g7. -/
def gives (i : Instr) (a b c d : Word) : Word := (TH (next (exec i (regs (put i) [(4, a), (5, b), (6, c), (7, d)])))).get 10

/-- R89, R90. -/
theorem test_add_wraps : gives (.add D 4 5) 0xFFFFFFFF 2 0 0 = 1 := by decide +kernel
theorem test_sub_order : gives (.sub D 4 5) 1 2 0 0 = 0xFFFFFFFF := by decide +kernel
theorem test_mulhi : gives (.mulhi D 4 5) 0xFFFFFFFF 2 0 0 = 0xFFFFFFFF ∧ gives (.mulhiu D 4 5) 0xFFFFFFFF 2 0 0 = 1 := by decide +kernel
theorem test_shifts : gives (.shl D 4 5) 1 32 0 0 = 0 ∧ gives (.sar D 4 5) 0x80000000 99 0 0 = 0xFFFFFFFF ∧ gives (.rol D 4 5) 0x80000001 33 0 0 = 3 := by decide +kernel
theorem test_signed : gives (.min D 4 5) 0x80000000 1 0 0 = 0x80000000 ∧ gives (.minu D 4 5) 0x80000000 1 0 0 = 1 ∧ gives (.absd D 4 5) 0x80000000 0x7FFFFFFF 0 0 = 0xFFFFFFFF := by
  decide +kernel
theorem test_bits : gives (.clz D 4) 0 0 0 0 = 32 ∧ gives (.ffs D 4) 0x80000000 0 0 0 = 32 ∧ gives (.popc D 4) 0xF0F00001 0 0 0 = 9 ∧ gives (.brev D 4) 1 0 0 0 = 0x80000000 := by
  decide +kernel
theorem test_addi_negative : gives (.addi D 4 0xFF) 0 0 0 0 = 0xFFFFFFFF := by decide +kernel
/-- R96: a signed field at bits 31 to 28. -/
theorem test_bfe : gives (.bfe D 4 true 3 28) 0x90000000 0 0 0 = 0xFFFFFFF9 ∧ gives (.bfe D 4 false 3 28) 0x90000000 0 0 0 = 9 := by decide +kernel
/-- R101, R102: packed sums wrap or clamp; R98: LEA adds a signed offset to a pair. -/
theorem test_packed : gives (.padd D 4 5 2) 0xFF7F0180 0x01010180 0 0 = 0x00800200 ∧ gives (.padds D 4 5 2 0 false) 0x7F800000 0x01FF0000 0 0 = 0x7F800000 := by decide +kernel
theorem test_lea : gives (.lea D 4 6) 0 1 0xFFFFFFFF 0 = 0xFFFFFFFF ∧ (TH (next (exec (.lea D 4 6) (regs (put (.lea D 4 6)) [(5, 1), (6, 0xFFFFFFFF)])))).get 11 = 0 := by
  decide +kernel
/-- R42, R43: −1 has the residues 256, 254 and 255. -/
theorem test_residues : gives (.rqenc D 4 0) 0xFFFFFFFF 0 0 0 = 0x0100FEFF ∧ gives (.rqdec D 4) 0x0100FEFF 0 0 0 = 0xFFFFFFFF := by decide +kernel
/-- R111, R32: 1 + 2^-24 is a tie, and rounds to even. -/
theorem test_fadd_tie : gives (.fadd D 4 5) 0x3F800000 0x33800000 0 0 = 0x3F800000 ∧ gives (.fopr D 4 5 0x30 3 0) 0x3F800000 0x33800000 0 0 = 0x3F800001 := by decide +kernel
theorem test_compare_zero : gives (.fseq D 4 5) 0x80000000 0 0 0 = 1 ∧ gives (.fslt D 4 5) 0x80000000 0 0 0 = 0 ∧ gives (.fsun D 4 5) 0x7FC00000 0 0 0 = 1 := by decide +kernel
/-- R116: a fused product is rounded once: (1 + 2^-12)^2 − 1 keeps its last bit. -/
theorem test_ffma_once : gives (.ffma D 4 5 6 0 1) 0x3F800800 0x3F800800 0xBF800000 0 = 0x3A000400 := by decide +kernel
/-- R11: g0 takes no write. -/
theorem test_g0 : (TH (next (exec (.movi ⟨0, false⟩ 7) (put (.movi ⟨0, false⟩ 7))))).get 0 = 0 := by decide +kernel
/-- R270: an illegal word in user mode enters the handler at supervisor level. -/
theorem test_illegal : let t := TH (next (exec (.clzw D 4 3) (armed (put (.clzw D 4 3)))))
    t.pc = ⟨0x2000, 0⟩ ∧ t.priv = true ∧ t.estat.extractLsb' 0 9 = 0x001 := by decide +kernel
/-- R275: TRAP 5 has cause 0x125 and resumes after itself. -/
theorem test_trap : let t := TH (next (exec (.trap 4 5) (armed (put (.trap 4 5)))))
    t.estat.extractLsb' 0 9 = 0x125 ∧ t.epc = 0x1008 ∧ t.estat.extractLsb' 14 4 = 0 := by decide +kernel
/-- R158, R160: a load of a byte in L1 is on its way, sign-extended. -/
theorem test_load_byte : let s := inL1 (regs (put (.ldgx D 4 5 0 false false true 2 0)) [(4, 0x3000)]) 96 { sector with data := 0x80 }
    (next (exec (.ldgx D 4 5 0 false false true 2 0) s)).landings.map (·.2.regs) = [[(10, 0xFFFFFF80)]] := by decide +kernel
/-- R219: an ATOMS add of 4 bytes leaves its neighbours. -/
theorem test_atoms : let i : Instr := .atoms D 4 6 0 0 1 0 3 false 0
    let s := tm (regs (put i) [(4, 0x24), (6, 1)]) fun t => { t with scratch := mwriteN [] 0x20 12 0x1111111122FFFFFF33333333 }
    mreadN (TM (next (exec i s))).scratch 0x20 12 = 0x111111112300000033333333 := by decide +kernel
/-- R207: only the member in position 2 has a nonzero operand. -/
theorem test_ballot : (next (exec (.ballot D 4) (three (.ballot D 4)))).landings.map (·.2.regs) = [[(10, 4)], [(10, 4)], [(10, 4)]] := by decide +kernel
/-- R22, R60: an operand that is pending holds the word back. -/
theorem test_stall : (put (.add D 4 5)).stalls (.add D 4 5) = false ∧
    (thr (put (.add D 4 5)) fun t => { t with pend := [(4, .landing 9)] }).stalls (.add D 4 5) = true := by decide +kernel
/-- R22: step runs the placed word. -/
theorem test_step : (match step (regs (put (.addi D 4 100)) [(4, 5)]) with
    | .next t => (TH t).get 10
    | _ => 0) = 105 := by decide +kernel
/-- The memories are in their canonical form after reset. -/
theorem reset_memory : State.reset.memWf = true := by decide +kernel

end Sys2Proof.Tests
end

section
/-! SUPPORT. One turn of a step: what a fetch leaves alone, which group of a laneset goes first, and the step of each kind of turn. -/

namespace Sys2Proof.Machine

variable {s t : State}

/-- Every row of the table has a meaning that answers a next state. -/
theorem exec_next (i : Instr) (s : State) : ∃ t, exec i s = .next t := by
  cases i <;> exact ⟨_, rfl⟩

/-- Issuing a word answers a next state. -/
theorem issueWord_next (s s' : State) (core slot : Nat) (i : Instr) : ∃ t, s.issueWord s' core slot i = .next t := by
  obtain ⟨u, hu⟩ := exec_next i s'
  unfold State.issueWord
  split
  · exact ⟨_, by rw [hu]; rfl⟩
  · exact ⟨s, rfl⟩

/-- Every turn answers a next state. -/
theorem run_next (t : Turn) (s : State) : ∃ u, run t s = .next u := by
  cases t with
  | event i =>
    simp only [run]
    split
    · exact exec_next i s
    · exact ⟨s, rfl⟩
  | issue core slot =>
    simp only [run]
    split
    · exact issueWord_next ..
    · exact ⟨_, rfl⟩
  | engine op => exact ⟨_, rfl⟩

theorem step_safe (s : State) : safeStep s := by
  obtain ⟨u, hu⟩ := run_next s.nextTurn.1 s.nextTurn.2
  exact ⟨_, by rw [step, State.takeStep, hu]; rfl⟩

/-- A step takes the first turn of its agenda. -/
theorem step_of_agenda {turn : Turn} {rest : List Turn} (h : s.agenda = turn :: rest) :
    step s = mirrored { s with agenda := rest } (run turn { s with agenda := rest }) := by
  rw [step, State.takeStep, State.nextTurn, h]

/-! ## Fetching -/

theorem State.steady_fetchVia (h : s.steady t) {k : Key} {c : Ctx} {va : Pair} {w : Walk} : s.steady (t.fetchVia k c va w).2 := by
  unfold State.fetchVia
  split
  · exact h
  · rename_i th _
    have h1 := State.steady_threadAns h (k := k) (c := c) (va := va) (acc := .fetch) (r := t.judge va .fetch th.priv w)
    split <;> rename_i e <;> rw [e] at h1
    · exact h1
    · exact State.steady_readCode h1

theorem State.steady_fetchAll (h : s.steady t) {c : Nat} {ms : List (Nat × Nat)} {va : Pair} : s.steady (t.fetchAll c ms va).2.2 := by
  unfold State.fetchAll
  split
  · exact h
  · rename_i x _
    dsimp only
    refine List.foldlRecOn (motive := fun acc : _ × _ × State => s.steady acc.2.2) ms _ (State.steady_lookup h) fun acc ha m _ => ?_
    have h2 := State.steady_fetchVia ha (k := ⟨c, m.1, m.2⟩) (c := x) (va := va)
      (w := (t.lookup (some x.core) (dieOf x.core) x.asid va).1)
    split <;> rename_i e <;> rw [e] at h2 <;> exact h2

theorem State.steady_fetchSecond (h : s.steady t) {g : Group} {ms : List (Nat × Nat)} {w0 : Word} :
    s.steady (t.fetchSecond g ms w0).2.2 := by
  unfold State.fetchSecond
  split
  · exact State.steady_fetchAll h
  · exact h

@[simp] theorem State.core_leaveRep (s : State) (g : Group) (i : Instr) (ms : List (Nat × Nat)) (j : Nat) :
    (s.leaveRep g i ms).core j = s.core j := by
  unfold State.leaveRep
  split <;> rfl

/-! ## Which group issues -/

/-- A laneset takes a group where none of those before it can issue (09 R203). -/
theorem State.laneTakes_iff {core slot : Nat} {g : Group} (hg : tget (s.core core).groups slot = some g) :
    s.laneTakes core slot = true ↔ ∀ e ∈ (s.core core).groups,
      (e.1 / 4 = slot / 4 ∧ tget (s.core core).greedy (slot / 4) ≠ some g.order ∧
        (tget (s.core core).greedy (slot / 4) = some e.2.order ∨ e.2.order < g.order)) → s.canIssue core e.1 = false := by
  simp only [State.laneTakes, hg, Core.before, beq_iff_eq]
  split
  · rename_i h
    simp [h]
  · rename_i h
    simp only [List.all_map, List.all_eq_true, List.mem_filter, Bool.and_eq_true, Bool.or_eq_true, beq_iff_eq, decide_eq_true_eq,
      Function.comp_apply, Bool.not_eq_true', ne_eq, h, not_false_eq_true, true_and, and_imp]

/-- A group whose members fetch a word that decodes comes to execute it. -/
theorem State.prepare_run {core slot : Nat} {g : Group} {w0 w1 : Word} {i : Instr} {u v : State}
    (hg : tget (s.core core).groups slot = some g) (hs : g.started = true) (hm : s.executing g ≠ [])
    (h0 : s.fetchAll g.ctx (s.executing g) (wordVa g.h g.word) = (some w0, [], u))
    (h1 : u.fetchSecond g (s.executing g) w0 = (some w1, [], v)) (hi : decodeWords w0 w1 = .ok i) :
    s.prepare core slot =
      .run i (({ v with site := g.site core slot (s.executing g) w0 } : State).leaveRep g i (s.executing g)) := by
  have hm' : (s.executing g).isEmpty = false := by simpa using hm
  simp [State.prepare, hg, hs, hm', h0, h1, hi]

/-- Settles O58: a turn of the agenda unfolds to the run of its instruction, and every meaning answers a next state. -/
theorem stepRunsDecoded : Obligations.StepRunsDecoded := by
  unfold Obligations.StepRunsDecoded
  refine ⟨?_, fun s rest op h => step_of_agenda h, fun s rest i h hi => ?_, step_safe⟩
  · intro s core slot rest g w0 w1 i u v ha t hg hs hm h0 h1 hi x last first
    have hrun : step s = mirrored t (t.issueWord x core slot i) := by
      rw [step_of_agenda ha, run, State.prepare_run hg hs hm h0 h1 hi]
    have hu : t.steady u := by
      have := State.steady_fetchAll (State.steady_refl t) (c := g.ctx) (ms := t.executing g) (va := wordVa g.h g.word)
      rwa [h0] at this
    have hv : t.steady v := by
      have := State.steady_fetchSecond hu (g := g) (ms := t.executing g) (w0 := w0)
      rwa [h1] at this
    have hx : tget (x.core core).groups slot = some g := by
      rw [← hg, ← hv.2.2.1 core]
      exact congrArg (fun c : Core => tget c.groups slot) (State.core_leaveRep ..)
    have hlane := State.laneTakes_iff hx
    refine ⟨fun h => ?_, fun hst ⟨e, he, hf, hc⟩ => ?_⟩
    · rw [hrun, State.issueWord, if_pos]
      rw [Bool.or_eq_true]
      exact h.imp_right hlane.mpr
    · have hl : x.laneTakes core slot = false := by
        rw [Bool.eq_false_iff]
        intro hl
        exact Bool.false_ne_true ((hlane.mp hl e he hf).symm.trans hc)
      rw [hrun, State.issueWord, hst, hl]
      rfl
  · rw [step_of_agenda h, run, if_pos hi]

end Sys2Proof.Machine
end

section
/-! SUPPORT. Operand fields and the registers they name: their widths, and which OPERAND qualifier a word raises (01 R11 to R13). -/

namespace Sys2Proof.Machine

theorem wide_pos (w : BitVec 2) : 0 < wide w := by unfold wide; split <;> decide
theorem intWords_pos (t : BitVec 4) : 0 < intWords t := by unfold intWords; split <;> decide
theorem fltWords_pos (t : BitVec 4) : 0 < fltWords t := by unfold fltWords; split <;> decide
theorem scrWords_pos (q w : BitVec 2) : 0 < scrWords q w := by
  unfold scrWords
  split
  · decide
  · exact wide_pos w

/-- A list of operand fields each of which names at least one register. -/
def WordsPos (l : List Opd) : Prop := ∀ o ∈ l, 0 < o.words

@[simp] theorem wordsPos_nil : WordsPos [] := by simp [WordsPos]
@[simp] theorem wordsPos_append {l m : List Opd} : WordsPos (l ++ m) ↔ WordsPos l ∧ WordsPos m := List.forall_mem_append
@[simp] theorem wordsPos_cons {o : Opd} {l : List Opd} : WordsPos (o :: l) ↔ 0 < o.words ∧ WordsPos l := List.forall_mem_cons
theorem wordsPos_dstOpd {d : Dst} {n : Nat} (h : 0 < n) : WordsPos (dstOpd d n) := by
  unfold dstOpd
  split <;> simp [h]

/-- Every operand field of every instruction names at least one register. -/
theorem opds_wordsPos (i : Instr) : WordsPos (opds i) := by
  cases i <;> simp only [opds, wordsPos_append, wordsPos_cons, wordsPos_nil, wordsPos_dstOpd, selOpd, onlyOpd, pairOpd, regOpd,
    wide_pos, intWords_pos, fltWords_pos, scrWords_pos, Nat.one_pos, Nat.ofNat_pos, and_true] <;>
    (split_ifs <;> simp [wordsPos_dstOpd, wide_pos])

/-! ## OPERAND qualifiers (R12, R13) -/

/-- Outside a REP clause, the OPERAND qualifier of one operand field. -/
theorem operandFault_unrepeated {n : Nat} (th : Thread) (o : Opd) (hn : n ≤ 128) :
    operandFault none th n o =
      if 128 ≤ o.sel.toNat then none
      else if n ≤ o.sel.toNat then some 1
      else if o.sel.toNat % o.words ≠ 0 then some 2
      else if n < o.sel.toNat + o.words then some 1 else none := by
  simp only [operandFault, stepOf, Nat.add_zero, Nat.min_eq_left hn, ge_iff_le, gt_iff_lt]

/-- Outside a REP clause, an operand field is free of faults exactly where the registers it names are aligned and allocated. -/
theorem operandFault_eq_none_iff {n : Nat} (th : Thread) {o : Opd} (hn : n ≤ 128) (hw : 0 < o.words) :
    operandFault none th n o = none ↔ (o.sel.toNat < 128 → o.sel.toNat % o.words = 0 ∧ o.sel.toNat + o.words ≤ n) := by
  rw [operandFault_unrepeated th o hn]
  split_ifs <;> simp <;> omega

/-- Outside a REP clause, an aligned operand field takes qualifier 1 or none: 1 where its registers pass the allocation. -/
theorem operandFault_of_aligned {n : Nat} (th : Thread) {o : Opd} (hn : n ≤ 128) (hw : 0 < o.words)
    (ha : o.sel.toNat < 128 → o.sel.toNat % o.words = 0) :
    operandFault none th n o = if o.sel.toNat < 128 ∧ n < o.sel.toNat + o.words then some 1 else none := by
  rw [operandFault_unrepeated th o hn]
  grind

/-- Outside a REP clause, an allocated operand field takes qualifier 2 or none: 2 where its registers are misaligned. -/
theorem operandFault_of_allocated {n : Nat} (th : Thread) {o : Opd} (hn : n ≤ 128)
    (ha : o.sel.toNat < 128 → o.sel.toNat < n ∧ (o.sel.toNat % o.words = 0 → o.sel.toNat + o.words ≤ n)) :
    operandFault none th n o = if o.sel.toNat < 128 ∧ o.sel.toNat % o.words ≠ 0 then some 2 else none := by
  rw [operandFault_unrepeated th o hn]
  grind

/-- Where all faults of a list are the same, the first of them is that one. -/
theorem findSome?_ite_const {α : Type*} {f : α → Option Nat} {p : α → Prop} [DecidablePred p] {k : Nat} {l : List α}
    (hf : ∀ a ∈ l, f a = if p a then some k else none) (ha : ∃ a ∈ l, p a) : l.findSome? f = some k := by
  induction l with
  | nil => simp at ha
  | cons a l ih =>
    rw [List.forall_mem_cons] at hf
    by_cases hp : p a
    · simp [hf.1, hp]
    · rw [List.findSome?_cons, hf.1, if_neg hp]
      exact ih hf.2 (by simpa [hp] using ha)

/-- A word that its encoding, its place and its latches let pass takes the first OPERAND fault of its fields. -/
theorem wordFault_of_accepted {i : Instr} {st : Site} {th : Thread} (n : Nat) (hr : st.rep = none) (hq : wordQual i st = none)
    (hl : unwrittenLatch i th = false) (hm : repMisuse i none st.count st.wi (encode i).length = false) :
    wordFault i st th n = ((opds i).findSome? (operandFault none th n)).map (0x10 + ·) := by
  simp [wordFault, hq, hl, hr, insWords, hm]

/-- R12, R13 for a word of any instruction: no OPERAND fault, all of qualifier 1, all of qualifier 2. -/
theorem wordFault_operands {i : Instr} {st : Site} {th : Thread} {n : Nat} (hr : st.rep = none) (hn : n ≤ 128)
    (hq : wordQual i st = none) (hl : unwrittenLatch i th = false)
    (hm : repMisuse i none st.count st.wi (encode i).length = false) :
    (wordFault i st th n = none ↔
      ∀ o ∈ opds i, o.sel.toNat < 128 → o.sel.toNat % o.words = 0 ∧ o.sel.toNat + o.words ≤ n) ∧
    ((∃ o ∈ opds i, o.sel.toNat < 128 ∧ n < o.sel.toNat + o.words) → (∀ o ∈ opds i, o.sel.toNat < 128 → o.sel.toNat % o.words = 0) →
      wordFault i st th n = some 0x011) ∧
    ((∃ o ∈ opds i, o.sel.toNat < 128 ∧ o.sel.toNat % o.words ≠ 0) →
      (∀ o ∈ opds i, o.sel.toNat < 128 → o.sel.toNat < n ∧ (o.sel.toNat % o.words = 0 → o.sel.toNat + o.words ≤ n)) →
      wordFault i st th n = some 0x012) := by
  rw [wordFault_of_accepted n hr hq hl hm]
  refine ⟨?_, fun he ha => ?_, fun he ha => ?_⟩
  · rw [Option.map_eq_none_iff, List.findSome?_eq_none_iff]
    exact forall₂_congr fun o ho => operandFault_eq_none_iff th hn (opds_wordsPos i o ho)
  · rw [findSome?_ite_const (fun o ho => operandFault_of_aligned th hn (opds_wordsPos i o ho) (ha o ho)) he]
    rfl
  · rw [findSome?_ite_const (fun o ho => operandFault_of_allocated th hn (ha o ho)) he]
    rfl

/-- Operand fields that all name registers hold no latch. -/
theorem unwrittenLatch_of_registers {i : Instr} (th : Thread) (h : ∀ o ∈ opds i, o.sel.toNat < 128) :
    unwrittenLatch i th = false := by
  rw [unwrittenLatch, List.any_eq_false]
  intro o ho
  have := h o ho
  simp [Opd.isLatch, show ¬ 0x80 ≤ o.sel.toNat by omega]

/-- A word that shows no fault by its place shows no misuse of NW. -/
theorem nwMisuse_of_wordQual {i : Instr} {st : Site} (h : wordQual i st = none) : nwMisuse i = false := by
  rw [Bool.eq_false_iff]
  intro hnw
  simp only [wordQual, encodingFault, hnw] at h
  split_ifs at h

theorem mem_dstOpd {d : Dst} {n : Nat} {o : Opd} :
    o ∈ dstOpd d n ↔ d.nw = false ∧ o = ⟨.d, d.r.setWidth 8, n, true, true, false⟩ := by
  unfold dstOpd
  cases d.nw <;> simp

theorem toNat_register_lt (r : BitVec 7) : (r.setWidth 8).toNat < 128 := by
  have := r.isLt
  simp only [BitVec.toNat_setWidth]
  omega
theorem toNat_register (r : BitVec 7) : (r.setWidth 8).toNat = r.toNat := by
  have := r.isLt
  simp only [BitVec.toNat_setWidth]
  omega

/-! ## Reads and writes of registers (R11, R13) -/

@[simp] theorem Thread.get_zero (th : Thread) : th.get 0 = 0 := rfl
@[simp] theorem Thread.set_zero (th : Thread) (v : Word) : th.set 0 v = th := rfl
theorem Thread.get_set_same (th : Thread) (v : Word) {r : Nat} (h0 : 0 < r) (hr : r < 128) : (th.set r v).get r = v := by
  simp [Thread.get, Thread.set, Nat.ne_of_gt h0, hr]
theorem Thread.get_set_ne (th : Thread) (v : Word) {r q : Nat} (h : q ≠ r) : (th.set r v).get q = th.get q := by
  unfold Thread.set Thread.get
  split_ifs <;> simp [h.symm]

/-- An ADD of three registers of which one lies past the allocation. -/
theorem wordFault_add_past {st : Site} (th : Thread) {n : Nat} {d : Dst} {a b : Sel} (hr : st.rep = none) (hn : n ≤ 128)
    (hq : wordQual (.add d a b) st = none) (ha : a.toNat < 128) (hb : b.toNat < 128)
    (h : n ≤ d.r.toNat ∨ n ≤ a.toNat ∨ n ≤ b.toNat) : wordFault (.add d a b) st th n = some 0x011 := by
  have hmem : ∀ o ∈ opds (.add d a b), o.sel.toNat < 128 ∧ o.words = 1 := by
    simp only [opds, List.forall_mem_append, List.forall_mem_cons]
    refine ⟨fun o ho => ?_, ⟨ha, rfl⟩, ⟨hb, rfl⟩, nofun⟩
    obtain ⟨-, rfl⟩ := mem_dstOpd.mp ho
    exact ⟨toNat_register_lt d.r, rfl⟩
  refine (wordFault_operands hr hn hq (unwrittenLatch_of_registers th fun o ho => (hmem o ho).1) rfl).2.1 ?_ ?_
  · have hA : selOpd .a a 1 ∈ opds (.add d a b) := by simp [opds]
    have hB : selOpd .b b 1 ∈ opds (.add d a b) := by simp [opds]
    rcases h with h | h | h
    · by_cases hnw : d.nw
      · have h0 : d.r = 0 := by simpa [nwMisuse, hnw] using nwMisuse_of_wordQual hq
        rw [h0] at h
        exact ⟨_, hA, ha, Nat.lt_succ_of_le (h.trans (Nat.zero_le _))⟩
      · exact ⟨⟨.d, d.r.setWidth 8, 1, true, true, false⟩,
          List.mem_append_left _ (mem_dstOpd.mpr ⟨by simpa using hnw, rfl⟩), toNat_register_lt d.r,
          Nat.lt_succ_of_le (by rwa [toNat_register])⟩
    · exact ⟨_, hA, ha, Nat.lt_succ_of_le h⟩
    · exact ⟨_, hB, hb, Nat.lt_succ_of_le h⟩
  · intro o ho _
    rw [(hmem o ho).2, Nat.mod_one]

/-- A LEA whose destination or first source is an odd register, which no earlier field's fault precedes. -/
theorem wordFault_lea_odd {st : Site} (th : Thread) {n : Nat} {d : Dst} {a b : Sel} (hr : st.rep = none) (hn : n ≤ 128)
    (hq : wordQual (.lea d a b) st = none) (ha : a.toNat < 128) (hb : b.toNat < 128) (hd : d.r.toNat < n)
    (h : d.r.toNat % 2 = 1 ∨ (a.toNat % 2 = 1 ∧ a.toNat < n ∧ d.r.toNat + 2 ≤ n)) :
    wordFault (.lea d a b) st th n = some 0x012 := by
  have hmem : ∀ o ∈ opds (.lea d a b), o.sel.toNat < 128 := by
    simp only [opds, List.forall_mem_append, List.forall_mem_cons]
    refine ⟨fun o ho => ?_, ha, hb, nofun⟩
    obtain ⟨-, rfl⟩ := mem_dstOpd.mp ho
    exact toNat_register_lt d.r
  have hD : operandFault none th n ⟨.d, d.r.setWidth 8, 2, true, true, false⟩ =
      if d.r.toNat % 2 = 1 then some 2 else if n < d.r.toNat + 2 then some 1 else none := by
    rw [operandFault_unrepeated _ _ hn]
    have := d.r.isLt
    simp only [toNat_register]
    grind
  have hA : a.toNat % 2 = 1 → a.toNat < n → operandFault none th n (selOpd .a a 2) = some 2 := by
    intro h1 h2
    simp [operandFault_unrepeated _ _ hn, selOpd, h1, Nat.not_le.mpr ha, Nat.not_le.mpr h2]
  rw [wordFault_of_accepted n hr hq (unwrittenLatch_of_registers th hmem) rfl]
  by_cases hnw : d.nw
  · have h0 : d.r = 0 := by simpa [nwMisuse, hnw] using nwMisuse_of_wordQual hq
    obtain h1 | ⟨h1, h2, -⟩ := h
    · simp [h0] at h1
    · simp [opds, dstOpd, hnw, hA h1 h2]
  · by_cases h1 : d.r.toNat % 2 = 1
    · simp [opds, dstOpd, hnw, hD, h1]
    · obtain ⟨h2, h3, h4⟩ := h.resolve_left h1
      simp [opds, dstOpd, hnw, hD, h1, hA h2 h3, Nat.not_lt.mpr h4]

/-- Settles O7: `wordFault` of an accepted word is the first OPERAND fault of its fields, each of which names at least one register. -/
theorem registersRead : Obligations.RegistersRead := by
  unfold Obligations.RegistersRead
  refine ⟨fun st th n i hr hn hq hl hm => ?_, fun th r q v => ⟨rfl, rfl, th.get_set_same v, th.get_set_ne v⟩,
    fun th r => ⟨rfl, fun h => if_neg (Nat.ne_of_gt h)⟩, fun th st v => ?_,
    fun st th n d a b => wordFault_add_past th, fun st th n d a b => wordFault_lea_odd th⟩
  · obtain ⟨hnone, hone, htwo⟩ := wordFault_operands (n := n) hr hn hq hl hm
    refine ⟨hnone.trans ?_, fun he ha => hone ?_ fun o ho h => ha _ _ ⟨o, ho, rfl, rfl, h⟩,
      fun he ha => htwo ?_ fun o ho h => ha _ _ ⟨o, ho, rfl, rfl, h⟩⟩
    · exact ⟨fun h r w ⟨o, ho, hr, hw, hlt⟩ => hr ▸ hw ▸ h o ho (hr ▸ hlt), fun h o ho hlt => h _ _ ⟨o, ho, rfl, rfl, hlt⟩⟩
    · obtain ⟨_, _, ⟨o, ho, rfl, rfl, hlt⟩, hp⟩ := he
      exact ⟨o, ho, hlt, hp⟩
    · obtain ⟨_, _, ⟨o, ho, rfl, rfl, hlt⟩, hp⟩ := he
      exact ⟨o, ho, hlt, hp⟩
  · cases hr : st.rep with
    | none => simp [Thread.gotPair, dstReg, stepOf, hr]
    | some r => simp

end Sys2Proof.Machine
end

section
/-! SUPPORT. Landings: what a list of register writes leaves in a thread, which waits end, and what REGISTER_RESULT_LANDS leaves
(01 R17, R22). -/

namespace Sys2Proof.Machine

/-! ## Register writes in order -/

theorem Thread.set_eq (th : Thread) (r : Nat) (v : Word) : th.set r v = { th with regs := (th.set r v).regs } := by
  unfold Thread.set
  split <;> rfl

theorem Thread.writes_cons (th : Thread) (w : Nat × Word) (ws : List (Nat × Word)) :
    th.writes (w :: ws) = (th.set w.1 w.2).writes ws := rfl

/-- Register writes leave the rest of the thread. -/
theorem Thread.writes_eq (th : Thread) (ws : List (Nat × Word)) : th.writes ws = { th with regs := (th.writes ws).regs } := by
  induction ws generalizing th with
  | nil => rfl
  | cons w ws ih =>
    rw [th.writes_cons]
    refine (ih _).trans ?_
    rw [th.set_eq]

/-- A register that no write names keeps its value. -/
theorem Thread.get_writes_of_notMem (th : Thread) {ws : List (Nat × Word)} {r : Nat} (h : ∀ w ∈ ws, w.1 ≠ r) :
    (th.writes ws).get r = th.get r := by
  induction ws generalizing th with
  | nil => rfl
  | cons w ws ih =>
    rw [List.forall_mem_cons] at h
    rw [th.writes_cons, ih _ h.2, th.get_set_ne _ h.1.symm]

/-- Writes to registers of which no two are the same leave in each what its own write says. -/
theorem Thread.get_writes (th : Thread) {ws : List (Nat × Word)} (hd : (ws.map (·.1)).Nodup) {r : Nat} (h0 : 0 < r) (hr : r < 128) :
    (th.writes ws).get r = match ws.find? fun w => w.1 == r with
      | some w => w.2
      | none => th.get r := by
  induction ws generalizing th with
  | nil => rfl
  | cons w ws ih =>
    obtain ⟨hw, hd⟩ := List.nodup_cons.mp hd
    rw [th.writes_cons]
    by_cases h : w.1 = r
    · subst h
      rw [Thread.get_writes_of_notMem _ fun x hx he => hw (List.mem_map.mpr ⟨x, hx, he⟩), th.get_set_same _ h0 hr]
      simp
    · rw [ih _ hd, th.get_set_ne _ (Ne.symm h), List.find?_cons_of_neg (by simpa using h)]

/-! ## Waits that end (R22) -/

/-- `Thread.awake` says where a thread whose wait is over goes. -/
theorem Thread.awake_eq (th : Thread) (out : Tab Landing) :
    th.awake out = if th.waitOver out then .runnable else th.run := by
  unfold Thread.waitOver Thread.awake Thread.pendingOn
  cases h : th.run with
  | waiting w =>
    cases w with
    | reg r => by_cases h0 : r = 0 <;> simp [h0]
    | _ => simp
  | _ => simp

/-- Waking a thread whose wait is over puts it where `Thread.awake` says. -/
theorem Thread.wake_eq_awake (th : Thread) (out : Tab Landing) :
    (if th.waitOver out then th.wake false else th) = { th with run := th.awake out } := by
  rw [th.awake_eq]
  split <;> rfl

theorem State.thread?_wakeCtx (s : State) (c : Nat) (k : Key) :
    (s.wakeCtx c).thread? k =
      if k.ctx = c then (s.thread? k).map fun th => { th with run := th.awake s.landings } else s.thread? k := by
  unfold State.wakeCtx State.thread? State.team?
  rw [State.ctx?_modCtx]
  split_ifs
  · cases s.ctx? k.ctx with
    | none => rfl
    | some x =>
      simp only [Option.map_some, Option.bind_some, tget_tmap, Thread.wake_eq_awake]
      cases tget x.teams k.tslot with
      | none => rfl
      | some t => simp only [Option.map_some, Option.bind_some, tget_tmap]
  · rfl

/-- A change of a context that leaves its teams leaves every thread. -/
theorem State.thread?_modCtx_of_teams (s : State) (c : Nat) {f : Ctx → Ctx} (h : ∀ x, (f x).teams = x.teams) (k : Key) :
    (s.modCtx c f).thread? k = s.thread? k := by
  unfold State.thread? State.team?
  rw [State.ctx?_modCtx]
  split_ifs
  · cases s.ctx? k.ctx <;> simp [h]
  · rfl

/-! ## A landing in its thread (R17) -/

/-- The registers that a landing writes: those still pending on it. -/
def Thread.landWrites (th : Thread) (id : Nat) (l : Landing) : List (Nat × Word) :=
  l.regs.filter fun w => tget th.pend w.1 == some (.landing id)

/-- A thread after a landing, field by field. -/
theorem Thread.land_eq (th : Thread) (id : Nat) (l : Landing) :
    th.land id l = { th with
      regs := (th.writes (th.landWrites id l)).regs
      pend := th.pend.filter fun p => p.2 != .landing id
      flags := th.flags ||| l.flags
      latches := th.latches.map fun y => if y = .pending id then .value l.latchVal else y
      counts := match l.kind with
        | some k => th.counts.setIfInBounds k (th.count k - 1)
        | none => th.counts } := by
  have h := th.writes_eq (th.landWrites id l)
  unfold Thread.land
  rw [Thread.landWrites] at h
  cases l.kind <;> (simp only; rw [h]) <;> rfl

/-- R17: a register still pending on the landing holds the landing's word for it, any other what it held. -/
theorem Thread.land_get (th : Thread) (id : Nat) {l : Landing} (hd : (l.regs.map (·.1)).Nodup) {r : Nat} (h0 : 0 < r) (hr : r < 128) :
    (th.land id l).get r = match l.regs.find? fun w => w.1 == r with
      | some w => if tget th.pend r = some (.landing id) then w.2 else th.get r
      | none => th.get r := by
  have hget : (th.land id l).get r = (th.writes (th.landWrites id l)).get r := by
    rw [th.land_eq]
    rfl
  have hfind : (th.landWrites id l).find? (fun w => w.1 == r) =
      if tget th.pend r = some (.landing id) then l.regs.find? fun w => w.1 == r else none := by
    rw [Thread.landWrites, List.find?_filter]
    split_ifs with h
    · refine congrArg (List.find? · l.regs) (funext fun w => ?_)
      by_cases hw : w.1 = r <;> simp [hw, h]
    · rw [List.find?_eq_none]
      rintro w - hw
      simp only [beq_iff_eq, decide_eq_true_eq] at hw
      exact h (hw.2 ▸ hw.1)
  have hnd : ((th.landWrites id l).map (·.1)).Nodup := hd.sublist (List.filter_sublist.map _)
  rw [hget, th.get_writes hnd h0 hr, hfind]
  split_ifs with h
  · rfl
  · cases l.regs.find? fun w => w.1 == r <;> rfl

/-- R17: a landing lowers the count of its kind. -/
theorem Thread.land_count (th : Thread) (id : Nat) (l : Landing) {j : Nat} (hj : j < 8) :
    (th.land id l).count j = if l.kind = some j then th.count j - 1 else th.count j := by
  rw [th.land_eq]
  unfold Thread.count
  cases l.kind with
  | none => simp
  | some k => by_cases h : k = j <;> simp [h, hj]

/-! ## REGISTER_RESULT_LANDS -/

/-- Another thread after REGISTER_RESULT_LANDS. -/
theorem State.land_thread?_ne {s : State} {id : Nat} {l : Landing} (hl : tget s.landings id = some l) {k : Key} (h : k ≠ l.key) :
    (s.land id).thread? k =
      if k.ctx = l.key.ctx then (s.thread? k).map fun th => { th with run := th.awake (tdel s.landings id) } else s.thread? k := by
  simp only [State.land, hl, State.thread?_wakeCtx, State.thread?_modCtx_of_teams, implies_true, State.thread?_modThread, h, if_false]
  rfl

/-- The thread of a landing after REGISTER_RESULT_LANDS. -/
theorem State.land_thread?_self {s : State} {id : Nat} {l : Landing} (hl : tget s.landings id = some l) :
    (s.land id).thread? l.key = (s.thread? l.key).map fun th =>
      let x := if th.run = .ended then th else th.land id l
      { x with run := x.awake (tdel s.landings id) } := by
  simp only [State.land, hl, State.thread?_wakeCtx, State.thread?_modCtx_of_teams, implies_true, State.thread?_modThread, if_true,
    Option.map_map]
  rfl

/-- Settles O39: the landing writes its own thread (`Thread.land_eq`), then the waits of its context that are over end. -/
theorem resultsLand : Obligations.ResultsLand := by
  unfold Obligations.ResultsLand
  intro s id l th c hl hth hrun hc hd
  have hself := State.land_thread?_self hl
  rw [hth, Option.map_some, if_neg hrun] at hself
  have hctx : ∃ ts, (s.land id).ctx? l.key.ctx = some { c with satcount := satAdd c.satcount l.sat, teams := ts } := by
    have hc' : ({ s with landings := tdel s.landings id } : State).ctx? l.key.ctx = some c := hc
    simp only [State.land, hl, State.wakeCtx, State.modThread, State.modTeam, State.ctx?_modCtx_self, hc', Option.map_some]
    exact ⟨_, rfl⟩
  obtain ⟨ts, hts⟩ := hctx
  refine ⟨s.land id, _, _, rfl, hself, hts, fun r h0 hr => th.land_get id hd h0 hr, ?_, ?_, fun j hj => th.land_count id l hj, ?_, ?_,
    ?_, rfl, rfl, fun k hk => ?_, fun k hk => ?_, ?_, ?_⟩
  · rw [th.land_eq]
  · rw [th.land_eq]
  · rw [th.land_eq]
  · have hv : (s.land id).landings = tdel s.landings id := by simp [State.land, hl, State.wakeCtx]
    have hr : (th.land id l).run = th.run := by rw [th.land_eq]
    rw [hv, ← hr]
  · rw [th.land_eq]
  · rw [State.land_thread?_ne hl hk]
    split_ifs
    · rw [Option.map_map]
      rfl
    · rfl
  · have : k ≠ l.key := fun h => hk (congrArg Key.ctx h)
    rw [State.land_thread?_ne hl this, if_neg hk]
  · simp [State.land, hl, State.wakeCtx]
  · simp only [State.land, hl]
    rfl

end Sys2Proof.Machine
end

section
/-! SUPPORT. Threads that end: what the release tests after an EXIT leave in a team, and when JOIN_CYCLE does not trap
(01 R23, 06 R137 to R139). -/

namespace Sys2Proof.Machine

/-! ## Changes of one team -/

theorem State.modTeam_modTeam (s : State) (c k : Nat) (f g : Team → Team) :
    (s.modTeam c k f).modTeam c k g = s.modTeam c k fun t => g (f t) := by
  unfold State.modTeam State.modCtx
  simp only [tmod_tmod]

theorem State.modTeam_congr (s : State) (c k : Nat) {f g : Team → Team} (h : ∀ t, s.team? c k = some t → f t = g t) :
    s.modTeam c k f = s.modTeam c k g := by
  unfold State.modTeam State.modCtx
  congr 1
  refine tmod_congr fun x hx => ?_
  congr 1
  refine tmod_congr fun t ht => h t ?_
  rw [State.team?, State.ctx?, hx]
  exact ht

/-- An entry under another key stays. -/
theorem mem_tmod_of_ne {α : Type} {l : Tab α} {k : Nat} {f : α → α} {e : Nat × α} (h : e ∈ l) (hk : e.1 ≠ k) : e ∈ tmod l k f := by
  induction l with
  | nil => exact h
  | cons a r ih =>
    obtain ⟨j, v⟩ := a
    unfold tmod
    obtain rfl | hr := List.mem_cons.mp h
    · rw [if_neg (Ne.symm hk)]
      exact List.mem_cons_self
    · split_ifs
      · exact List.mem_cons_of_mem _ hr
      · exact List.mem_cons_of_mem _ (ih hr)

/-- An entry of a changed table whose keys are different is the changed one, or stood there under another key. -/
theorem mem_tmod {α : Type} {l : Tab α} {k : Nat} {f : α → α} {e : Nat × α} (hd : (l.map (·.1)).Nodup) (h : e ∈ tmod l k f) :
    (e.1 ≠ k ∧ e ∈ l) ∨ ∃ v, e = (k, f v) := by
  induction l with
  | nil => exact absurd h List.not_mem_nil
  | cons a r ih =>
    obtain ⟨j, v⟩ := a
    obtain ⟨hj, hd⟩ := List.nodup_cons.mp hd
    unfold tmod at h
    split_ifs at h with hk
    · subst hk
      obtain rfl | hr := List.mem_cons.mp h
      · exact .inr ⟨v, rfl⟩
      · exact .inl ⟨fun he => hj (List.mem_map.mpr ⟨e, hr, he⟩), List.mem_cons_of_mem _ hr⟩
    · obtain rfl | hr := List.mem_cons.mp h
      · exact .inl ⟨Ne.symm hk, List.mem_cons_self⟩
      · exact (ih hd hr).imp_left fun he => ⟨he.1, List.mem_cons_of_mem _ he.2⟩

/-- Where the changed value does not count, what holds of some value of a table after the change holds of one under another key. -/
theorem any_tmod {α : Type} {l : Tab α} {k : Nat} {f : α → α} {p : α → Bool} (hd : (l.map (·.1)).Nodup) (hp : ∀ v, p (f v) = false) :
    (tmod l k f).any (fun e => p e.2) = l.any fun e => e.1 != k && p e.2 := by
  rw [Bool.eq_iff_iff, List.any_eq_true, List.any_eq_true]
  constructor
  · rintro ⟨e, he, hpe⟩
    obtain ⟨hk, hl⟩ | ⟨v, rfl⟩ := mem_tmod hd he
    · exact ⟨e, hl, by simp [hk, hpe]⟩
    · simp [hp] at hpe
  · rintro ⟨e, he, hpe⟩
    simp only [Bool.and_eq_true, bne_iff_ne] at hpe
    exact ⟨e, mem_tmod_of_ne he hpe.1, hpe.2⟩

/-! ## The release test -/

/-- A thread after its team's barrier `b` has been released. -/
def Thread.opened (b : Nat) (th : Thread) : Thread :=
  match th.run with
  | .waiting (.barrier b' after _) => if b' = b ∧ th.bar b = .arrived then { th.setBar b .none with pc := after, run := .runnable } else th
  | _ => th

/-- A team after its barrier `b` has been released. -/
def Team.opened (t : Team) (b : Nat) : Team := { t with threads := tmap t.threads fun _ => Thread.opened b }

theorem State.opened_eq (s : State) (c k b : Nat) : s.opened c k b = s.modTeam c k (·.opened b) := rfl

theorem Thread.opened_of_atBarrier {th : Thread} (b : Nat) (h : th.atBarrier = none) : th.opened b = th := by
  unfold Thread.atBarrier at h
  unfold Thread.opened
  split
  · rename_i hr
    simp [hr] at h
  · rfl

/-- A thread that has not arrived at a barrier is not released from it. -/
theorem Thread.opened_of_bar {th : Thread} {b : Nat} (h : th.bar b ≠ .arrived) : th.opened b = th := by
  unfold Thread.opened
  split
  · rw [if_neg fun hb => h hb.2]
  · rfl

theorem Thread.atBarrier_ended {th : Thread} (h : th.run = .ended) : th.atBarrier = none := by
  unfold Thread.atBarrier
  rw [h]

/-- Whether a thread is live and EXPECTED on a barrier. -/
def Thread.expects (b : Nat) (th : Thread) : Bool := th.run != .ended && th.bar b == .expected

/-- The release of a barrier leaves which threads are live and on which barriers they are EXPECTED. -/
theorem Thread.expects_opened (a b : Nat) (th : Thread) : (th.opened b).expects a = th.expects a := by
  unfold Thread.opened
  split
  · rename_i hr
    split_ifs with h
    · obtain ⟨-, hb⟩ := h
      have hbar : (th.setBar b .none).bar a = if a = b then .none else th.bar a := by
        by_cases hab : a = b
        · subst hab
          by_cases h16 : a < 16 <;> simp [Thread.bar, Thread.setBar, h16]
        · simp [Thread.bar, Thread.setBar, hab, Ne.symm hab]
      show (Run.runnable != .ended && (th.setBar b .none).bar a == .expected) = (th.run != .ended && th.bar a == .expected)
      rw [hbar, hr]
      by_cases hab : a = b
      · subst hab
        rw [if_pos rfl, hb]
        rfl
      · rw [if_neg hab]
        rfl
    · rfl
  · rfl

/-- The release test of a team in which the threads that are live and EXPECTED are known. -/
theorem Team.releaseTest_eq {x : Team} {b : Nat} {e : Bool} (h : (x.threads.any fun y => y.2.expects b) = e) :
    x.releaseTest b = if e then x else x.opened b := by
  have hexp : ((x.threads.filter fun y => y.2.run != .ended).any fun y => y.2.bar b == .expected) = e := by
    rw [List.any_filter, ← h]
    rfl
  unfold Team.releaseTest
  simp only [hexp]
  by_cases harr : (x.threads.filter fun y => y.2.run != .ended).any fun y => y.2.bar b == .arrived
  · cases e with
    | true => rfl
    | false =>
      simp only [harr]
      rfl
  · have hid : x.opened b = x := by
      have : tmap x.threads (fun _ => Thread.opened b) = tmap x.threads fun _ th => th := by
        refine tmap_congr fun y hy => ?_
        by_cases hrun : y.2.run = .ended
        · exact Thread.opened_of_atBarrier b (Thread.atBarrier_ended hrun)
        · refine Thread.opened_of_bar fun hb => harr ?_
          rw [List.any_filter, List.any_eq_true]
          exact ⟨y, hy, by simp [hrun, hb]⟩
      unfold Team.opened
      rw [this]
      simp [tmap]
    simp [harr, hid]

/-- The release tests of a team in which, of each barrier, whether a live thread is EXPECTED is known. -/
theorem Team.releaseTests_eq (e : Nat → Bool) (l : List Nat) (x : Team) (h : ∀ b, (x.threads.any fun y => y.2.expects b) = e b) :
    l.foldl Team.releaseTest x = l.foldl (fun x b => if e b then x else x.opened b) x := by
  induction l generalizing x with
  | nil => rfl
  | cons b l ih =>
    rw [List.foldl_cons, List.foldl_cons, Team.releaseTest_eq (h b)]
    refine ih _ fun a => ?_
    split_ifs
    · exact h a
    · simp only [Team.opened, tmap, List.any_map, Function.comp_def, Thread.expects_opened]
      exact h a

/-- Some live thread of the team waits at no barrier, or none is live: JOIN_CYCLE does not trap. -/
def Team.acyclic (x : Team) : Prop :=
  (∃ e ∈ x.threads, e.2.run ≠ .ended ∧ e.2.atBarrier = none) ∨ ∀ e ∈ x.threads, e.2.run = .ended

theorem Team.acyclic_opened {x : Team} (b : Nat) (h : x.acyclic) : (x.opened b).acyclic := by
  obtain ⟨e, he, hr, hb⟩ | h := h
  · refine .inl ⟨_, List.mem_map.mpr ⟨e, he, rfl⟩, ?_⟩
    simp only [Thread.opened_of_atBarrier b hb]
    exact ⟨hr, hb⟩
  · refine .inr fun e he => ?_
    obtain ⟨y, hy, rfl⟩ := List.mem_map.mp he
    simp only [Thread.opened_of_atBarrier b (Thread.atBarrier_ended (h y hy))]
    exact h y hy

/-- What holds of a team and is kept by every release holds after the tests. -/
theorem Team.releaseTests_induct {P : Team → Prop} (h : ∀ x b, P x → P (x.opened b)) (e : Nat → Bool) (l : List Nat) {x : Team}
    (hx : P x) : P (l.foldl (fun x b => if e b then x else x.opened b) x) := by
  induction l generalizing x with
  | nil => exact hx
  | cons b l ih =>
    rw [List.foldl_cons]
    split_ifs
    · exact ih hx
    · exact ih (h x b hx)

theorem State.joinCycle_of_acyclic {s : State} {c k : Nat} {x : Team} (hx : s.team? c k = some x) (h : x.acyclic) :
    s.joinCycle c k = s := by
  unfold State.joinCycle
  rw [hx]
  dsimp only
  split
  · rfl
  · rename_i tid th rest hl
    obtain ⟨e, he, hr, hb⟩ | h := h
    · have hmem : e ∈ (tid, th) :: rest := by
        rw [← hl]
        exact List.mem_filter.mpr ⟨he, by simpa using hr⟩
      split_ifs with hany
      · rfl
      · obtain rfl | hrest := List.mem_cons.mp hmem
        · rw [hb]
        · exact absurd (List.any_eq_true.mpr ⟨e, hrest, by simp [hb]⟩) hany
    · have hmem : (tid, th) ∈ x.live := by rw [hl]; simp
      obtain ⟨hm, hr⟩ := List.mem_filter.mp hmem
      exact absurd (h _ hm) (by simpa using hr)

/-! ## The end of a thread -/

/-- A thread that has ended: NONE on every barrier. -/
def Thread.exited (th : Thread) : Thread := { th with run := .ended, bars := Vector.replicate 16 .none }

/-- A team one of whose threads has ended and whose other threads have been released: `t` is the team before, `th` its thread. -/
def Team.exited (x t : Team) (tid : Nat) (th : Thread) : Team :=
  (List.range 16).foldl (fun x b => if t.expectsOther tid b then x else x.opened b)
    { x with endFlags := x.endFlags ||| th.flags, threads := tmod x.threads tid Thread.exited }

/-- The release tests of a state are those of its team. -/
theorem State.tested_foldl (s : State) (c : Nat) (m : Nat × Nat) (t : Team) (h : Team → Team) (l : List Nat) :
    l.foldl (fun u b => u.tested c m t b) (s.modTeam c m.1 h) =
      s.modTeam c m.1 fun x => l.foldl (fun x b => if t.expectsOther m.2 b then x else x.opened b) (h x) := by
  induction l generalizing h with
  | nil => rfl
  | cons b l ih =>
    simp only [List.foldl_cons]
    unfold State.tested
    by_cases he : t.expectsOther m.2 b
    · simp only [he, if_true]
      exact ih h
    · simp only [he, Bool.false_eq_true, if_false, State.opened_eq, State.modTeam_modTeam]
      exact ih _

section
variable {s : State} {m : Nat × Nat} {t x : Team} {th : Thread}

theorem Team.tget_exited (hth : tget x.threads m.2 = some th) : tget (x.exited t m.2 th).threads m.2 = some th.exited := by
  refine Team.releaseTests_induct (P := fun y => tget y.threads m.2 = some th.exited) (fun y b hy => ?_) _ _ ?_
  · simp only [Team.opened, tget_tmap, hy, Option.map_some]
    rw [Thread.opened_of_atBarrier b (Thread.atBarrier_ended rfl)]
  · simp [hth]

/-- R23, R137: what ends a thread in its team, where the team has the threads of `t`. -/
theorem Team.endThread_releaseAll (hx : x.threads = t.threads) (hth : tget x.threads m.2 = some th) (hr : th.run ≠ .ended)
    (hd : (t.threads.map (·.1)).Nodup) : (x.endThread m.2).releaseAll = x.exited t m.2 th := by
  have hE : x.endThread m.2 = { x with endFlags := x.endFlags ||| th.flags, threads := tmod x.threads m.2 Thread.exited } := by
    unfold Team.endThread
    rw [hth]
    exact if_neg hr
  rw [hE]
  refine Team.releaseTests_eq _ _ _ fun b => ?_
  rw [any_tmod (p := Thread.expects b) (hx ▸ hd) fun v => rfl, hx]
  simp only [Team.expectsOther, Thread.expects, Bool.and_assoc]

theorem Team.acyclic_exited (hx : x.threads = t.threads) (hd : (t.threads.map (·.1)).Nodup)
    (hj : (∃ e ∈ t.threads, e.1 ≠ m.2 ∧ e.2.run ≠ .ended ∧ e.2.atBarrier = none) ∨ ∀ e ∈ t.threads, e.1 ≠ m.2 → e.2.run = .ended) :
    (x.exited t m.2 th).acyclic := by
  refine Team.releaseTests_induct (fun _ b hy => Team.acyclic_opened b hy) _ _ ?_
  rw [Team.acyclic, hx]
  obtain ⟨e, he, hk, hr, hb⟩ | h := hj
  · exact .inl ⟨e, mem_tmod_of_ne he hk, hr, hb⟩
  · refine .inr fun e he => ?_
    obtain ⟨hk, hl⟩ | ⟨v, rfl⟩ := mem_tmod hd he
    · exact h e hl hk
    · rfl

/-- R23, R137, R366: the end of a thread of a team whose threads are those of `t`, `F` having changed the rest of the team. -/
theorem State.endThread_eq {F : Team → Team} {c : Nat} (hF : (F t).threads = t.threads) (ht : s.team? c m.1 = some t)
    (hth : tget t.threads m.2 = some th) (hr : th.run ≠ .ended) (hd : (t.threads.map (·.1)).Nodup)
    (hj : (∃ e ∈ t.threads, e.1 ≠ m.2 ∧ e.2.run ≠ .ended ∧ e.2.atBarrier = none) ∨ ∀ e ∈ t.threads, e.1 ≠ m.2 → e.2.run = .ended) :
    (s.modTeam c m.1 F).endThread ⟨c, m.1, m.2⟩ =
      (s.modTeam c m.1 fun x => (F x).exited t m.2 th).dropRequests ⟨c, m.1, m.2⟩ := by
  have hth' : tget (F t).threads m.2 = some th := hF ▸ hth
  have h1 : (s.modTeam c m.1 F).modTeam c m.1 (fun x => (x.endThread m.2).releaseAll) =
      s.modTeam c m.1 fun x => (F x).exited t m.2 th := by
    rw [State.modTeam_modTeam]
    refine State.modTeam_congr s c m.1 fun x hx => ?_
    obtain rfl : t = x := Option.some.inj (ht.symm.trans hx)
    exact Team.endThread_releaseAll hF hth' hr hd
  have h2 : (s.modTeam c m.1 fun x => (F x).exited t m.2 th).team? c m.1 = some ((F t).exited t m.2 th) := by
    simp [State.team?_modTeam, ht]
  unfold State.endThread State.dropRequests
  rw [h1, State.joinCycle_of_acyclic h2 (Team.acyclic_exited hF hd hj)]

/-- What EXIT and TAIL leave: their thread has ended, the barriers are tested, and nothing else changes. -/
theorem State.retire_ended {F : Team → Team} (i : Instr) (hF : (F t).threads = t.threads) (h : s.readyOne i m t th)
    (hd : (t.threads.map (·.1)).Nodup)
    (hj : (∃ e ∈ t.threads, e.1 ≠ m.2 ∧ e.2.run ≠ .ended ∧ e.2.atBarrier = none) ∨ ∀ e ∈ t.threads, e.1 ≠ m.2 → e.2.run = .ended) :
    let v := (s.modTeam s.site.ctx m.1 F).retire i [(m, .ended)]
    v.thread? (s.key m) = some th.exited ∧
      (((List.range 16).foldl (fun u b => u.tested s.site.ctx m t b)
        ((s.modTeam s.site.ctx m.1 fun x => { F x with endFlags := (F x).endFlags ||| th.flags }).modThread (s.key m)
          Thread.exited)).dropRequests (s.key m)).alike v := by
  intro v
  obtain ⟨hk, hrun, hg, -⟩ := State.readyOne_thread h
  obtain ⟨ht, hth, -⟩ := State.member?_eq s m t th h.2.2
  have hr : th.run ≠ .ended := by rw [hrun]; exact Run.noConfusion
  have hteam : (s.modTeam s.site.ctx m.1 F).team? s.site.ctx m.1 = some (F t) := by simp [State.team?_modTeam, ht]
  have halive : (s.modTeam s.site.ctx m.1 F).alive (s.key m) = true := by
    simp only [State.alive, State.thread?, State.key, hteam, Option.bind_some, hF, hth]
    simpa using hr
  have hset : (s.modTeam s.site.ctx m.1 F).settle i m .ended =
      (s.modTeam s.site.ctx m.1 fun x => (F x).exited t m.2 th).dropRequests (s.key m) := by
    refine Eq.trans ?_ (State.endThread_eq hF ht hth hr hd hj)
    unfold State.settle
    simp only
    rw [if_neg (by simpa [State.key] using halive)]
    rfl
  constructor
  · refine (State.retire_left (s.modTeam s.site.ctx m.1 F) i m .ended rfl).trans ?_
    rw [hset]
    show (s.modTeam s.site.ctx m.1 fun x => (F x).exited t m.2 th).thread? (s.key m) = _
    simp only [State.thread?, State.key, State.team?_modTeam, ht, and_self, if_true, Option.map_some, Option.bind_some]
    exact Team.tget_exited (hF ▸ hth)
  · have hfold : (List.range 16).foldl (fun u b => u.tested s.site.ctx m t b)
        ((s.modTeam s.site.ctx m.1 fun x => { F x with endFlags := (F x).endFlags ||| th.flags }).modThread (s.key m) Thread.exited) =
        s.modTeam s.site.ctx m.1 fun x => (F x).exited t m.2 th := by
      unfold State.modThread State.key
      rw [State.modTeam_modTeam, State.tested_foldl]
      rfl
    rw [hfold, ← hset]
    exact State.retire_one (s.modTeam s.site.ctx m.1 F) i m .ended hg (by rw [hset]; rfl) (by rw [hset]; rfl)

end

/-- Settles O14: EXIT and TAIL end their thread by `State.retire_ended`; a bad TAIL is a trap of `State.issueEach_trap`. -/
theorem threadsEnd : Obligations.ThreadsEnd := by
  unfold Obligations.ThreadsEnd
  refine ⟨fun s m t th h hd hj => ?_, fun s a retain m t th core h hc hd hj => ⟨fun h64 => ?_, fun h64 ht => ?_⟩⟩
  · have hid : s.modTeam s.site.ctx m.1 id = s := by
      unfold State.modTeam State.modCtx
      rw [tmod_id]
      intro x _
      rw [tmod_id]
      exact fun _ _ => rfl
    obtain ⟨hx, ha⟩ := State.retire_ended (F := id) .exit rfl h hd hj
    rw [hid] at hx ha
    refine ⟨_, th.exited, rfl, ?_, rfl, rfl, ?_⟩
    · rw [State.issueEach_one s .exit _ h]
      exact hx
    · rw [State.issueEach_one s .exit _ h]
      exact ha
  · let F : Team → Team := fun x => { x with tail := x.tail.or (some (rd64 s.site.rep th .a a, retain)) }
    obtain ⟨hx, ha⟩ := State.retire_ended (F := F) (.tail a retain) rfl h hd hj
    have hv : exec (.tail a retain) s = .next ((s.modTeam s.site.ctx m.1 F).retire (.tail a retain) [(m, .ended)]) := by
      show execTail a retain s = _
      unfold execTail
      rw [State.issueEach_one s (.tail a retain) _ h]
      simp only [h64, ne_eq, not_true_eq_false, if_false]
      rfl
    exact ⟨_, th.exited, hv, hx, rfl, ha⟩
  · refine ⟨_, rfl, State.issueEach_trap s (.tail a retain) _ h hc ?_ ht⟩
    exact if_pos h64

end Sys2Proof.Machine
end

section
/-! SUPPORT. A counterexample: a core whose table of groups has a second entry for the slot of the group that executes YIELD. -/

namespace Sys2Proof.Machine

/-- The word of YIELD. -/
def yieldWord : Word := (encode .yield).headD 0

/-- YIELD placed in a clause of its own, the slot of its group having two entries in the core's table. -/
def State.twinGroups : State :=
  (State.reset.placeWords yieldWord 0).modCore 0 fun c => { c with groups := c.groups ++ [(0, probeGroup yieldWord)] }

theorem twinGroups_readyOne :
    State.twinGroups.readyOne .yield (0, 0) (probeTeam CtxRegs.reset) (probeThread CtxRegs.reset) :=
  ⟨by decide +kernel, by decide +kernel, by decide +kernel⟩

/-- The group dissolves at the end of its clause, which frees the first entry of its slot: the second one is not to dissolve. -/
theorem twinGroups_yield :
    (State.twinGroups.groupOf (State.twinGroups.issueEach .yield fun s k _ _ =>
      ((s.modThread k fun th => { th with deferred := true }).modGroup fun g => { g with dissolve := true }, .next))).any
        (fun g => !g.dissolve) = true := by
  decide +kernel

/-- Refutes O15: of a core with two entries for the issuing slot, YIELD at the end of its clause leaves one whose group is not to
dissolve (`State.twinGroups`), against "its group is to dissolve" of every group that is left in the slot. -/
theorem not_yieldsAndRepeats : ¬ Obligations.YieldsAndRepeats := by
  unfold Obligations.YieldsAndRepeats
  rintro ⟨hyield, -⟩
  obtain ⟨v, hv, -, hdis⟩ := hyield State.twinGroups (0, 0) _ _ twinGroups_readyOne
  obtain rfl : State.twinGroups.issueEach .yield _ = v := Host.Outcome.next.inj hv
  obtain ⟨g, hg, hg'⟩ := exists_of_any twinGroups_yield
  simp [hdis g hg] at hg'

end Sys2Proof.Machine
end

section
/-! SUPPORT. Where the one member that executed a word stands after it, and what the end of the issue leaves of its latches and its
repeat index (`State.leads`; 01 R16, 03 R70, 06 R129, R142). -/

namespace Sys2Proof.Machine

variable {s u : State}

/-! ## Members of a group -/

/-- A change of the given threads of a context, thread by thread. -/
theorem State.thread?_mapMembers_eq (s : State) (c : Nat) (ms : List (Nat × Nat)) (f : Thread → Thread) (k : Key) :
    (s.mapMembers c ms fun _ _ _ th => f th).thread? k =
      (s.thread? k).map fun th => if k.ctx = c ∧ (k.tslot, k.tid) ∈ ms then f th else th := by
  unfold State.thread? State.team? State.mapMembers
  rw [State.ctx?_modCtx]
  by_cases hc : k.ctx = c
  · rw [if_pos hc]
    cases s.ctx? k.ctx with
    | none => rfl
    | some x =>
      simp only [Option.map_some, Option.bind_some, tget_tmap]
      cases tget x.teams k.tslot with
      | none => rfl
      | some t => simp [hc]
  · simp [hc]

/-- A thread after its group has dissolved. -/
def Thread.freed (g : Group) (th : Thread) : Thread :=
  let th := { th.noLatches with pc := interruptedPC g th.pc th.repidx }
  if th.run = .issuing then { th with run := .runnable } else th

theorem State.thread?_dissolve {core slot : Nat} {g : Group} (hg : tget (s.core core).groups slot = some g) (k : Key) :
    (s.dissolve core slot).thread? k =
      (s.thread? k).map fun th => if k.ctx = g.ctx ∧ (k.tslot, k.tid) ∈ g.members then th.freed g else th := by
  unfold State.dissolve
  rw [hg]
  exact State.thread?_mapMembers_eq s g.ctx g.members (Thread.freed g) k

/-- At the start of a clause, the dissolution of its group leaves a thread where it stands. -/
theorem Thread.freed_of_wi {g : Group} {th : Thread} (h : th.pc.wi = 0) : (th.freed g).pc = th.pc ∧ (th.freed g).repidx = th.repidx := by
  have hpc : interruptedPC g th.pc th.repidx = th.pc := by
    unfold interruptedPC
    split
    · rw [← h]
    · rfl
  unfold Thread.freed
  dsimp only
  split <;> exact ⟨hpc, rfl⟩

/-! ## Where the group stands -/

/-- A group whose members all stand at one place, or one of whose members stays at its REP word, leaves every thread where it stands;
where that place is in the group's clause, it leaves them as they are. -/
theorem State.regroup_inLine {core slot : Nat} {g : Group} {p : PC} (hg : tget (s.core core).groups slot = some g)
    (hp : p.wi = 0 ∨ p.h = g.h)
    (h : (g.rep.isSome ∧ ∃ m ∈ g.members, ∃ th, s.thread? ⟨g.ctx, m.1, m.2⟩ = some th ∧ th.pc = ⟨g.h, 1⟩) ∨
      ∀ m ∈ g.members, ∀ th, s.thread? ⟨g.ctx, m.1, m.2⟩ = some th → th.pc = p) {k : Key} {th : Thread} (hk : s.thread? k = some th) :
    ∃ x, (s.regroup core slot false false).thread? k = some x ∧ x.pc = th.pc ∧ x.repidx = th.repidx ∧ (p.wi ≠ 0 → x = th) := by
  have same : ∀ v : State, v.thread? k = s.thread? k →
      ∃ x, v.thread? k = some x ∧ x.pc = th.pc ∧ x.repidx = th.repidx ∧ (p.wi ≠ 0 → x = th) :=
    fun v hv => ⟨th, hv.trans hk, rfl, rfl, fun _ => rfl⟩
  unfold State.regroup
  rw [hg]
  dsimp only
  split
  · exact same _ rfl
  · rename_i t0 r hths
    have hmem := fun t => List.mem_filterMap (l := g.members) (f := fun m => s.thread? ⟨g.ctx, m.1, m.2⟩) (b := t)
    simp only [Bool.false_and, Bool.false_eq_true, if_false, Bool.not_false, Bool.true_and]
    split
    · exact same _ rfl
    · rename_i hbusy
      have hall : ∀ m ∈ g.members, ∀ th, s.thread? ⟨g.ctx, m.1, m.2⟩ = some th → th.pc = p := by
        refine h.resolve_left fun ⟨hrep, m, hm, y, hy, hpc⟩ => hbusy ?_
        rw [hrep, Bool.true_and, List.any_eq_true]
        exact ⟨y, (hmem y).mpr ⟨m, hm, hy⟩, by simp [hpc]⟩
      have hpc : ∀ t ∈ g.members.filterMap fun m => s.thread? ⟨g.ctx, m.1, m.2⟩, t.pc = p := fun t ht => by
        obtain ⟨m, hm, ht⟩ := (hmem t).mp ht
        exact hall m hm t ht
      have h0 : t0.pc = p := hpc t0 (hths ▸ List.mem_cons_self)
      split
      · exact same _ rfl
      · rw [if_neg]
        · split
          · exact same _ rfl
          · rename_i hwi
            have hwi : p.wi = 0 := by
              by_contra hne
              exact hwi (by simp [h0, hne, hp.resolve_left hne])
            split
            · rw [State.thread?_dissolve (g := g) (by simp), State.thread?_modCore, hk, Option.map_some]
              have hx : (if k.ctx = g.ctx ∧ (k.tslot, k.tid) ∈ g.members then th.freed g else th).pc = th.pc ∧
                  (if k.ctx = g.ctx ∧ (k.tslot, k.tid) ∈ g.members then th.freed g else th).repidx = th.repidx := by
                split_ifs with hin
                · obtain ⟨hc, hin⟩ := hin
                  refine Thread.freed_of_wi ?_
                  rw [hall _ hin th (by rw [← hc]; exact hk), hwi]
                · exact ⟨rfl, rfl⟩
              exact ⟨_, rfl, hx.1, hx.2, fun hne => absurd hwi hne⟩
            · exact same _ rfl
        · rw [List.any_eq_true]
          rintro ⟨t, ht, hne⟩
          simp [hpc t ht, h0] at hne

/-! ## The end of an issue -/

/-- What `State.sited` says of the issuing group. -/
theorem State.sited_group (h : s.sited = true) : ∃ g, tget (s.core s.site.core).groups s.site.slot = some g ∧
    g.ctx = s.site.ctx ∧ g.h = s.site.h ∧ g.rep = s.site.rep := by
  obtain ⟨g, hg, h'⟩ := exists_of_any h
  rw [Bool.and_eq_true, beq_iff_eq] at h'
  refine ⟨g, hg, ?_⟩
  rw [h'.1]
  exact ⟨rfl, rfl, rfl⟩

theorem State.sited_of_rooted (h : s.rooted u) : u.sited = s.sited := by
  unfold State.sited
  rw [h.1, h.2]

/-- A member after a word that it goes on from: past it, or at the REP word with its repeat index raised (R16, R129, R142). -/
def Thread.advanced (st : Site) (i : Instr) (th : Thread) : Thread :=
  match st.rep with
  | none => { th with pc := st.past i }
  | some r => if th.repidx.toNat + 1 < r.n then { th with repidx := th.repidx + 1, pc := ⟨st.h, 1⟩ }
      else { th with repidx := 0, pc := st.past i }

theorem afterWord_eq_past (st : Site) (i : Instr) : afterWord st.h st.count st.wi (insWords i) = st.past i := rfl

theorem State.settle_next (s : State) (i : Instr) (m : Nat × Nat) (h : s.alive (s.key m) = true) :
    s.settle i m .next = s.modThread (s.key m) (Thread.advanced s.site i) := by
  have h' : s.alive ⟨s.site.ctx, m.1, m.2⟩ = true := h
  unfold State.settle
  simp only [h', Bool.not_true, Bool.false_eq_true, if_false, afterWord_eq_past]
  refine State.modThread_congr s (s.key m) fun th _ => ?_
  unfold Thread.advanced
  cases s.site.rep with
  | none => rfl
  | some r =>
    by_cases hn : th.repidx.toNat + 1 < r.n
    · simp [hn, Nat.not_le.mpr hn]
    · simp [hn, Nat.not_lt.mp hn]

/-- What `State.leads` asks of a member that has gone on. -/
theorem Thread.advanced_leads (st : Site) (i : Instr) (th x : Thread) (hpc : x.pc = (th.advanced st i).pc)
    (hrep : x.repidx = (th.advanced st i).repidx) (hx : (st.past i).wi ≠ 0 → x = th.advanced st i) (hlen : 0 < (encode i).length) :
    match st.rep with
      | none => x.pc = st.past i ∧ (st.wi + (encode i).length ≤ st.count → x.latches = th.latches)
      | some r => if th.repidx.toNat + 1 < r.n then x.pc = ⟨st.h, 1⟩ ∧ x.repidx = th.repidx + 1
          else x.pc = st.past i ∧ x.repidx = 0 := by
  unfold Thread.advanced at hpc hrep hx
  cases hr : st.rep with
  | none =>
    simp only [hr] at hpc hx
    refine ⟨hpc, fun hcount => ?_⟩
    rw [hx]
    unfold Site.past
    rw [if_neg (Nat.not_lt.mpr hcount)]
    exact Nat.ne_of_gt (Nat.add_pos_right _ hlen)
  | some r =>
    simp only [hr] at hpc hrep
    simp only
    split_ifs with hn
    · rw [if_pos hn] at hpc hrep
      exact ⟨hpc, hrep⟩
    · rw [if_neg hn] at hpc hrep
      exact ⟨hpc, hrep⟩

/-- Where the member stands after the end of the issue, in a group that is in line. -/
theorem State.retire_next_inLine {i : Instr} {m : Nat × Nat} {th : Thread} (hs : u.sited = true) (hm : u.site.members = [m])
    (hk : u.thread? (u.key m) = some th) (hr : th.run ≠ .ended) (hin : u.inLine i) :
    ∃ x, (u.retire i [(m, .next)]).thread? (u.key m) = some x ∧ x.pc = (th.advanced u.site i).pc ∧
      x.repidx = (th.advanced u.site i).repidx ∧ ((u.site.past i).wi ≠ 0 → x = th.advanced u.site i) := by
  obtain ⟨g, hg, hctx, hh, hrep⟩ := State.sited_group hs
  obtain ⟨g', hg', hothers⟩ := hin
  obtain rfl : g = g' := Option.some.inj (hg.symm.trans hg')
  have halive : u.alive (u.key m) = true := by simpa [State.alive, hk] using hr
  unfold State.retire
  simp only [List.foldl_cons, List.foldl_nil, State.settle_next u i m halive]
  let d : Group → Group := fun g => g.drop fun n => [(m, Out.next)].any fun o => o.1 == n && o.2.leaves
  let w : State := (u.modThread (u.key m) (Thread.advanced u.site i)).modCore u.site.core fun c => { c with groups := tmod c.groups u.site.slot d }
  have hgw : tget (w.core u.site.core).groups u.site.slot = some (d g) := by simp [w, State.core_modCore, hg]
  have hkw : ∀ k, w.thread? k = if k = u.key m then (u.thread? k).map (Thread.advanced u.site i) else u.thread? k := fun k => by
    simp only [w, State.thread?_modCore, State.thread?_modThread]
  have hkm : w.thread? (u.key m) = some (th.advanced u.site i) := by rw [hkw, if_pos rfl, hk, Option.map_some]
  have hother : ∀ n ∈ g.members, n ≠ m → ∀ y, w.thread? ⟨g.ctx, n.1, n.2⟩ = some y → y.pc = u.site.past i := by
    intro n hn hne y hy
    have hk' : (⟨g.ctx, n.1, n.2⟩ : Key) = u.key n := by rw [hctx]; rfl
    have hkey : u.key n ≠ u.key m := fun h => hne (Prod.ext (congrArg Key.tslot h) (congrArg Key.tid h))
    rw [hk', hkw, if_neg hkey] at hy
    exact hothers n hn (by simpa [hm] using hne) y hy
  have hd := Group.drop_members g fun n => [(m, Out.next)].any fun o => o.1 == n && o.2.leaves
  have hpast : (u.site.past i).wi = 0 ∨ (u.site.past i).h = (d g).h := by
    unfold Site.past
    split
    · exact .inl rfl
    · exact .inr hh.symm
  have hmself : ∀ y, w.thread? ⟨g.ctx, m.1, m.2⟩ = some y → y = th.advanced u.site i := by
    rw [hctx]
    exact fun y hy => Option.some.inj (hy.symm.trans hkm)
  refine State.regroup_inLine hgw hpast ?_ hkm
  by_cases hstay : m ∈ (d g).members ∧ (th.advanced u.site i).pc ≠ u.site.past i
  · obtain ⟨hmd, hne⟩ := hstay
    refine .inl ?_
    unfold Thread.advanced at hne
    cases hsr : u.site.rep with
    | none => simp [hsr] at hne
    | some r =>
      simp only [hsr] at hne
      refine ⟨by simp [d, Group.drop, hrep, hsr], m, hmd, _, by rw [hd.1, hctx]; exact hkm, ?_⟩
      unfold Thread.advanced
      simp only [hsr]
      split_ifs at hne ⊢ with hn
      · show (⟨u.site.h, 1⟩ : PC) = ⟨g.h, 1⟩
        rw [hh]
      · exact absurd rfl hne
  · refine .inr fun n hn y hy => ?_
    rw [hd.1] at hy
    by_cases hnm : n = m
    · subst hnm
      rw [hmself y hy]
      by_contra hne
      exact hstay ⟨hn, hne⟩
    · exact hother n (hd.2 n hn) hnm y hy

/-- What the end of an issue leaves whose one member goes on. -/
theorem State.retire_next_leads {i : Instr} {m : Nat × Nat} {th : Thread} (hs : u.sited = true) (hm : u.site.members = [m])
    (hk : u.thread? (u.key m) = some th) (hr : th.run ≠ .ended) (hlen : 0 < (encode i).length) :
    u.leads i (u.retire i [(m, .next)]) := by
  obtain ⟨hg, hall⟩ := State.groupHere_of_sited hs
  refine ⟨State.alike_retire u hg i _ fun o ho => ?_, fun hin n hn y hy => ?_⟩
  · obtain rfl := List.mem_singleton.mp ho
    exact ⟨rfl, hall m (by simp [hm])⟩
  · obtain rfl : n = m := by simpa [hm] using hn
    obtain rfl : th = y := Option.some.inj (hk.symm.trans hy)
    obtain ⟨x, hx, hpc, hrep, hsame⟩ := State.retire_next_inLine hs hm hk hr hin
    exact ⟨x, hx, Thread.advanced_leads u.site i th x hpc hrep hsame hlen⟩

/-- What a word of one member leaves that goes on from it: `u` is what the word itself leaves. -/
theorem State.issueEach_leads (i : Instr) (f : State → Key → Team → Thread → State × Out) {m : Nat × Nat} {t : Team} {th y : Thread}
    (h : s.readyOne i m t th) (hf : f s (s.key m) t th = (u, .next)) (hu : s.rooted u) (hy : u.thread? (s.key m) = some y)
    (hr : y.run = .issuing) (hlen : 0 < (encode i).length) : u.leads i (s.issueEach i f) := by
  have hk : u.key m = s.key m := by unfold State.key; rw [hu.1]
  have hs : u.sited = true := (State.sited_of_rooted hu).trans (State.ready_elim h.1).1
  rw [State.issueEach_one s i f h, hf]
  exact State.retire_next_leads hs (by rw [hu.1, h.2.1]) (hk ▸ hy) (by rw [hr]; exact Run.noConfusion) hlen

end Sys2Proof.Machine
end

section
/-! SUPPORT. The registers of a loaded value, and loads by way of L1: what one leaves that hits, and one that misses
(07 R154, R157, R158). -/

namespace Sys2Proof.Machine

variable {s u : State}

/-! ## Widths, and the registers of a value -/

theorem accBytes_eq (w : BitVec 2) : accBytes w = widthOf w := by decide +revert
theorem wide_eq (w : BitVec 2) : wide w = bytesWords (widthOf w) := by decide +revert
theorem widthOf_mem (w : BitVec 2) : widthOf w ∈ [1, 2, 4, 8] := by decide +revert

/-- A narrow value sign-extended to a word: what is added brings its sign to the top of the 32 bits. -/
theorem ofInt_sint {n v : Nat} (h0 : 0 < n) (hn : n ≤ 4) (hv : v < 2 ^ (8 * n)) :
    BitVec.ofInt 32 (sint (8 * n) v) = BitVec.ofNat 32 (extended n true v) := by
  rw [sint, Nat.mod_eq_of_lt hv, extended]
  apply BitVec.eq_of_toNat_eq
  rw [BitVec.toNat_ofInt, BitVec.toNat_ofNat]
  interval_cases n <;> simp at hv ⊢ <;> split_ifs <;> omega

/-- The registers of a 64-bit value. -/
theorem pairWrites_eq {r v : Nat} (hv : v < 2 ^ 64) : pairWrites r (BitVec.ofNat 64 v) = valueRegs (some r) 2 v := by
  have hlo : loWord (BitVec.ofNat 64 v) = BitVec.ofNat 32 (v / 2 ^ (32 * 0)) := by
    apply BitVec.eq_of_toNat_eq
    simp [loWord]
  have hhi : hiWord (BitVec.ofNat 64 v) = BitVec.ofNat 32 (v / 2 ^ (32 * 1)) := by
    apply BitVec.eq_of_toNat_eq
    simp [hiWord, Nat.shiftRight_eq_div_pow]
    omega
  unfold pairWrites valueRegs
  rw [hlo, hhi]
  simp only [true_and]
  rfl

/-- The register of a value of one word. -/
theorem valueRegs_word (r v : Nat) : valueRegs (some r) 1 v = [(r, BitVec.ofNat 32 v)] := by
  simp [valueRegs]

theorem extended_of_not {n v : Nat} {sx : Bool} (h : ¬(n < 4 ∧ sx = true)) : extended n sx v = v := by
  unfold extended
  rw [if_neg]
  tauto

/-- The registers of a value of 1, 2, 4 or 8 bytes. -/
theorem loadRegs_eq {n v : Nat} (hn : n ∈ [1, 2, 4, 8]) (sx : Bool) (d : Option Nat) (hv : v < 2 ^ (8 * n)) :
    loadRegs n sx d v = valueRegs d (bytesWords n) (extended n sx v) := by
  cases d with
  | none => rfl
  | some r =>
    by_cases h8 : n = 8
    · subst h8
      rw [extended_of_not (by decide +revert)]
      exact pairWrites_eq hv
    · have hn : 0 < n ∧ n ≤ 4 := by
        simp only [List.mem_cons, List.not_mem_nil, or_false] at hn
        omega
      have hw : bytesWords n = 1 := by
        unfold bytesWords
        rw [if_neg (by omega), if_neg h8]
      rw [hw, valueRegs_word, loadRegs, if_neg h8]
      cases sx with
      | true => rw [if_pos rfl, ofInt_sint hn.1 hn.2 hv]
      | false => rw [if_neg Bool.false_ne_true, extended_of_not (by simp)]

/-! ## Words of one member that hold for an access -/

/-- A word whose one member need not hold is issued. -/
theorem State.holdIf_of_not {i : Instr} {held : State → Key → Thread → Bool} (go : State → State) {m : Nat × Nat} {t : Team}
    {th : Thread} (h : s.readyOne i m t th) (hheld : held s (s.key m) th = false) : s.holdIf i held go = go s := by
  unfold State.holdIf
  rw [if_neg]
  have hheld : held s ⟨s.site.ctx, m.1, m.2⟩ th = false := hheld
  simp [h.2.1, h.2.2, hheld]

/-! ## Sectors in L1 -/

theorem getLsbD_maskOf (o n j : Nat) : (maskOf o n).getLsbD j = (decide (j < 128) && (decide (o ≤ j) && decide (j - o < n))) := by
  unfold maskOf
  rw [BitVec.getLsbD_ofNat, Nat.testBit_mul_two_pow, Nat.testBit_two_pow_sub_one]

/-- A mask lies inside another where each of its bytes does. -/
theorem and_maskOf {v : SectorMask} {o n : Nat} (h : ∀ k < n, v.getLsbD (o + k) = true) : v &&& maskOf o n = maskOf o n := by
  refine BitVec.eq_of_getLsbD_eq fun j hj => ?_
  rw [BitVec.getLsbD_and, getLsbD_maskOf]
  by_cases hin : o ≤ j ∧ j - o < n
  · have := h (j - o) hin.2
    rw [Nat.add_sub_cancel' hin.1] at this
    simp [this]
  · rw [← Bool.decide_and, decide_eq_false hin]
    simp

/-- A load of bytes that no L1 of the domain holds finds none. -/
theorem State.l1Load_none {core sec asid : Nat} {na : Bool} {mask : SectorMask}
    (h : ∀ g, g = core ∨ g ∈ s.coreDomain core → tget (s.core g).l1 sec = none) : s.l1Load core sec asid na mask = (none, s) := by
  have howners : s.owners core sec = [] := by
    unfold State.owners
    rw [List.filter_eq_nil_iff]
    intro e he
    obtain ⟨g, hg, hge⟩ := List.mem_filterMap.mp he
    have hg : g = core ∨ g ∈ s.coreDomain core := (List.mem_cons.mp hg).imp_right fun hg => (List.mem_filter.mp hg).1
    simp [State.l1, h g hg] at hge
  unfold State.l1Load State.servedBy
  rw [State.l1, h core (.inl rfl), howners]

/-- A load of bytes that are valid in its core's L1 copy finds them there. -/
theorem State.l1Load_hit {core sec asid o n : Nat} {na : Bool} {x : L1Sector} (hx : tget (s.core core).l1 sec = some x)
    (hv : ∀ k < n, x.valid.getLsbD (o + k) = true) : s.l1Load core sec asid na (maskOf o n) = (some x.data, s) := by
  unfold State.l1Load
  rw [State.l1, hx]
  exact if_pos (and_maskOf hv)

/-! ## Landings of one member -/

/-- What `State.defer` does to the thread of a landing. -/
def Thread.deferring (id : Nat) (l : Landing) (th : Thread) : Thread :=
  let th := { th with pend := l.regs.foldl (fun p w => if w.1 = 0 then p else tset p w.1 (.landing id)) th.pend }
  let th := match l.latch with
    | some k => { th with latches := th.latches.setIfInBounds k (.pending id) }
    | none => th
  match l.kind with
  | some k => th.addCount k
  | none => th

theorem State.defer_eq (s : State) (l : Landing) :
    s.defer l = ({ s with fresh := s.fresh + 1, landings := tset s.landings s.fresh l } : State).modThread l.key
      (Thread.deferring s.fresh l) := rfl

theorem Thread.deferring_run (id : Nat) (l : Landing) (th : Thread) : (th.deferring id l).run = th.run := by
  unfold Thread.deferring
  cases l.latch <;> cases l.kind <;> rfl

theorem State.defer_thread? {l : Landing} {k : Key} {th : Thread} (hk : s.thread? k = some th) :
    ∃ y, (s.defer l).thread? k = some y ∧ y.run = th.run := by
  have hk' : ({ s with fresh := s.fresh + 1, landings := tset s.landings s.fresh l } : State).thread? k = some th := hk
  rw [State.defer_eq, State.thread?_modThread, hk']
  split_ifs
  · exact ⟨_, rfl, Thread.deferring_run s.fresh l th⟩
  · exact ⟨th, rfl, rfl⟩

theorem State.rooted_defer (h : s.rooted u) (l : Landing) : s.rooted (u.defer l) := h

/-- A member that goes on once its value is on its way. -/
theorem State.issueEach_delivering {i : Instr} (f : State → Key → Team → Thread → State × Out) {m : Nat × Nat} {t : Team}
    {th : Thread} (h : s.readyOne i m t th) (hlen : 0 < (encode i).length) (hu : s.rooted u) (hk : u.thread? (s.key m) = some th)
    (d : Dst) (n v kind : Nat)
    (hf : f s (s.key m) t th =
      (u.deferRegs (s.key m) (valueRegs (dstOf s.site th d (bytesWords n)) (bytesWords n) v) kind, .next)) :
    (u.delivering m th d n v kind).leads i (s.issueEach i f) := by
  have hd : u.deferRegs (s.key m) (valueRegs (dstOf s.site th d (bytesWords n)) (bytesWords n) v) kind =
      u.delivering m th d n v kind := by
    unfold State.deferRegs State.delivering State.key
    rw [hu.1]
  rw [hd] at hf
  obtain ⟨y, hy, hr⟩ := State.defer_thread? hk
  exact State.issueEach_leads i f h hf (State.rooted_defer hu _) hy (hr.trans (State.readyOne_thread h).2.1) hlen

/-! ## Global loads -/

/-- How a global load without sideband executes. -/
theorem exec_load {i : Instr} {d : Dst} {ea : Option Rep → Thread → Pair} {n : Nat} {sx : Bool}
    (h : loadForm i = some (d, ea, n, sx, false)) (s : State) :
    n ∈ [1, 2, 4, 8] ∧ 0 < (encode i).length ∧ ∃ na, exec i s = .next (s.issueMem i (ea s.site.rep) fun s k _ th =>
      s.loadAt k (ea s.site.rep th) n sx na false (dstOf s.site th d (bytesWords n))) := by
  unfold loadForm at h
  split at h
  · simp only [Option.some.injEq, Prod.mk.injEq] at h
    obtain ⟨rfl, rfl, rfl, rfl, -⟩ := h
    exact ⟨by decide, by simp [encode], false, rfl⟩
  · rename_i na _ _ w _
    simp only [Option.some.injEq, Prod.mk.injEq] at h
    obtain ⟨rfl, rfl, rfl, rfl, rfl⟩ := h
    refine ⟨widthOf_mem w, by simp [encode], na, ?_⟩
    rw [← wide_eq, ← accBytes_eq]
    rfl
  · exact absurd h nofun

section
variable {i : Instr} {d : Dst} {ea : Option Rep → Thread → Pair} {n : Nat} {sx : Bool} {m : Nat × Nat} {t : Team} {th : Thread}
  {c : Ctx} {pa : Pair}

/-- A load that may begin and reaches memory of this package goes by way of L1. -/
theorem State.loadAt_cached (hc : s.ctx? s.site.ctx = some c) {a : Pair} (hr : s.reaches m a n .load pa u) (hb : u.backed pa = true)
    (na : Bool) (d : Option Nat) : s.loadAt (s.key m) a n sx na false d =
      (u.cachedLoad (s.key m) c a pa n sx na d ⟨u.site.h, u.site.wi⟩, .next) := by
  obtain ⟨-, hcan, halign, htr⟩ := hr
  obtain ⟨hlocal, hhbm⟩ := Bool.and_eq_true _ _ ▸ hb
  have hea : eaFault a n 0x020 = none := by simp [eaFault, hcan, halign]
  have hctl : inControl (localOf pa) = false := by
    unfold inHbm at hhbm
    unfold inControl
    have := of_decide_eq_true hhbm
    simp only [Bool.and_eq_false_iff, decide_eq_false_iff_not]
    omega
  have hc : s.ctx? (s.key m).ctx = some c := hc
  simp only [State.loadAt, hea, hc, State.memLoad, htr, hlocal, hctl, hhbm, Bool.false_eq_true, if_true, if_false]

theorem State.reaches_steady {a : Pair} {acc : Acc} (hr : s.reaches m a n acc pa u) : s.steady u := by
  have h := State.steady_threadTr (State.steady_refl s) (k := s.key m) (va := a) (acc := acc)
  rwa [hr.2.2.2] at h

/-- R154, R157, R158: a load whose bytes are valid in its core's L1 copy. -/
theorem exec_load_hit {x : L1Sector} (hf : loadForm i = some (d, ea, n, sx, false)) (h : s.readyOne i m t th)
    (hc : s.ctx? s.site.ctx = some c) (hr : s.reaches m (ea s.site.rep th) n .load pa u) (hb : u.backed pa = true)
    (hx : tget (u.core c.core).l1 (pa.toNat / 128) = some x) (hv : ∀ k < n, x.valid.getLsbD (pa.toNat % 128 + k) = true) :
    ∃ v, exec i s = .next v ∧
      (u.delivering m th d n (extended n sx (x.data.toNat / 2 ^ (8 * (pa.toNat % 128)) % 2 ^ (8 * n))) 0).leads i v := by
  obtain ⟨hn, hlen, na, hexec⟩ := exec_load hf s
  have hst := State.reaches_steady hr
  refine ⟨_, hexec, ?_⟩
  unfold State.issueMem
  rw [State.holdIf_of_not _ h hr.1]
  refine State.issueEach_delivering _ h hlen (State.steady_rooted hst)
    ((State.steady_thread? hst _).trans (State.readyOne_thread h).1) d n _ 0 ?_
  simp only [State.loadAt_cached hc hr hb, State.cachedLoad, sectorOf, State.l1Load_hit hx hv, secGet]
  rw [loadRegs_eq hn sx _ (Nat.mod_lt _ (Nat.two_pow_pos _))]

/-- R22, R154: a load of bytes that no L1 of its snoop domain has. -/
theorem exec_load_miss (hf : loadForm i = some (d, ea, n, sx, false)) (h : s.readyOne i m t th)
    (hc : s.ctx? s.site.ctx = some c) (hr : s.reaches m (ea s.site.rep th) n .load pa u) (hb : u.backed pa = true)
    (hnone : ∀ g, g = c.core ∨ g ∈ u.coreDomain c.core → tget (u.core g).l1 (pa.toNat / 128) = none) :
    ∃ v l, exec i s = .next v ∧ tget v.loads u.fresh = some l ∧ l.key = s.key m ∧ l.core = c.core ∧ l.pa = pa ∧ l.width = n ∧
       l.landing = u.fresh ∧ v.fresh = u.fresh + 1 ∧ (∀ j, j ≠ u.fresh → tget v.loads j = tget u.loads j) ∧
       (({ u with fresh := v.fresh, loads := v.loads } : State).modThread (s.key m) fun y =>
         { y with pend := (valueRegs (dstOf s.site th d (bytesWords n)) (bytesWords n) 0).foldl (fun p w => if w.1 = 0 then p else
             tset p w.1 (.landing u.fresh)) y.pend, counts := y.counts.setIfInBounds 0 (y.count 0 + 1) }).leads i v := by
  obtain ⟨hn, hlen, na, hexec⟩ := exec_load hf s
  have hst := State.reaches_steady hr
  have hk : u.thread? (s.key m) = some th := (State.steady_thread? hst _).trans (State.readyOne_thread h).1
  let l : LoadReq := ⟨s.key m, c.core, ea s.site.rep th, pa, n, sx, dstOf s.site th d (bytesWords n), u.fresh, na, ⟨u.site.h, u.site.wi⟩⟩
  let mark : Thread → Thread := fun y =>
    { y with pend := (valueRegs (dstOf s.site th d (bytesWords n)) (bytesWords n) 0).foldl (fun p w => if w.1 = 0 then p else
        tset p w.1 (.landing u.fresh)) y.pend, counts := y.counts.setIfInBounds 0 (y.count 0 + 1) }
  let w : State := ({ u with fresh := u.fresh + 1, loads := tset u.loads u.fresh l } : State).modThread (s.key m) mark
  have hw : s.loadAt (s.key m) (ea s.site.rep th) n sx na false (dstOf s.site th d (bytesWords n)) = (w, .next) := by
    have hlocal := (Bool.and_eq_true _ _ ▸ hb).1
    have hzero : extended n sx 0 = 0 := by
      unfold extended
      rw [if_neg fun h => absurd h.2.2 (Nat.not_le.mpr (Nat.two_pow_pos _))]
    rw [State.loadAt_cached hc hr hb]
    simp only [State.cachedLoad, sectorOf, State.l1Load_none hnone]
    rw [loadRegs_eq hn sx _ (Nat.two_pow_pos _), hzero]
    exact congrArg (·, Out.next) (if_pos hlocal)
  have hkw : w.thread? (s.key m) = some (mark th) := by
    have hk' : ({ u with fresh := u.fresh + 1, loads := tset u.loads u.fresh l } : State).thread? (s.key m) = some th := hk
    simp only [w, State.thread?_modThread_self, hk', Option.map_some]
  have hrooted : s.rooted w := (State.steady_rooted hst : s.rooted u)
  have hleads : w.leads i (s.issueEach i fun s k _ th =>
      s.loadAt k (ea s.site.rep th) n sx na false (dstOf s.site th d (bytesWords n))) :=
    State.issueEach_leads i _ h hw hrooted hkw (State.readyOne_thread h).2.1 hlen
  refine ⟨_, l, hexec, ?_⟩
  unfold State.issueMem
  rw [State.holdIf_of_not _ h hr.1]
  generalize s.issueEach i _ = v at *
  have hloads : v.loads = tset u.loads u.fresh l := congrArg State.loads hleads.1.2.2.2
  have hfresh : v.fresh = u.fresh + 1 := congrArg State.fresh hleads.1.2.2.2
  rw [hloads, hfresh]
  exact ⟨tget_tset_self _ _ _, rfl, rfl, rfl, rfl, rfl, rfl, fun j hj => tget_tset_ne _ _ hj, hleads⟩

end

/-- Settles O21: a load by way of L1 finds its bytes (`exec_load_hit`) or not (`exec_load_miss`). -/
theorem globalLoads : Obligations.GlobalLoads := by
  unfold Obligations.GlobalLoads
  exact ⟨fun _ _ _ _ _ _ _ _ _ _ _ _ _ hf h hc hr hb hx hv => exec_load_hit hf h hc hr hb hx hv,
    fun _ _ _ _ _ _ _ _ _ _ _ _ hf h hc hr hb hnone => exec_load_miss hf h hc hr hb hnone⟩

end Sys2Proof.Machine
end

section
/-! SUPPORT. Scratch loads: the address that an access of scratch has, the registers of a value from scratch, and what a load leaves
that has its bytes or waits for the F bit (10 R214 to R218). -/

namespace Sys2Proof.Machine

variable {s : State}

theorem mem_of_tget {α : Type} {t : Tab α} {k : Nat} {v : α} (h : tget t k = some v) : (k, v) ∈ t := by
  induction t with
  | nil => exact absurd h nofun
  | cons e r ih =>
    obtain ⟨j, w⟩ := e
    unfold tget at h
    split_ifs at h with hk
    · cases h
      rw [hk]
      exact List.mem_cons_self
    · exact List.mem_cons_of_mem _ (ih h)

/-- `n` bytes make a number of `n` bytes. -/
theorem mreadN_lt (m : Mem) (a n : Nat) : mreadN m a n < 2 ^ (8 * n) := by
  induction n generalizing a with
  | zero => exact Nat.one_pos
  | succ n ih =>
    have hb := (mread m a).isLt
    have hr := ih (a + 1)
    have hp : 2 ^ (8 * (n + 1)) = 256 * 2 ^ (8 * n) := by ring
    unfold mreadN
    omega

/-- The registers of a value from scratch (R218). -/
theorem scrRegs_eq {n v : Nat} (hn : n ∈ [1, 2, 4, 8, 16]) (sx : Bool) (d : Option Nat) (hv : v < 2 ^ (8 * n)) :
    scrRegs n sx d v = valueRegs d (bytesWords n) (extended n sx v) := by
  cases d with
  | none => rfl
  | some r =>
    by_cases h16 : n = 16
    · subst h16
      rw [extended_of_not (by decide +revert)]
      simp [scrRegs, valueRegs, bytesWords]
    · rw [scrRegs, if_neg h16]
      exact loadRegs_eq (by simpa [h16] using hn) sx (some r) hv

/-! ## Scratch addresses -/

/-- R293: the team that a rank names, where no other live team of the cluster has that rank. -/
theorem State.peerTeam_eq {k : Key} {t x : Team} {c j r : Nat} (ht : s.team? k.ctx k.tslot = some t) (hx : s.team? c j = some x)
    (hl : x.launch = t.launch) (hc : x.cluster = t.cluster) (hr : x.rank = r) (hlive : x.live ≠ [])
    (hone : ∀ e ∈ s.ctxs, ∀ y ∈ e.2.teams, y.2.launch = t.launch → y.2.cluster = t.cluster → y.2.rank = r → y.2.live ≠ [] →
      (e.1, y.1) = (c, j)) : s.peerTeam k r = some (c, j) := by
  unfold State.peerTeam
  rw [ht]
  obtain ⟨cx, hcx, hteam⟩ := Option.bind_eq_some_iff.mp hx
  have hval : ∀ e ∈ s.ctxs, ∀ v, ((e.2.teams.find? fun t' =>
      t'.2.launch == t.launch && t'.2.cluster == t.cluster && t'.2.rank == r && !t'.2.live.isEmpty).map fun t' => (e.1, t'.1)) = some v →
      v = (c, j) := by
    intro e he v hv
    obtain ⟨y, hy, rfl⟩ := Option.map_eq_some_iff.mp hv
    have hp := List.find?_some hy
    simp only [Bool.and_eq_true, beq_iff_eq, Bool.not_eq_true', List.isEmpty_eq_false_iff] at hp
    obtain ⟨⟨⟨h1, h2⟩, h3⟩, h4⟩ := hp
    exact hone e he y (List.mem_of_find?_eq_some hy) h1 h2 h3 h4
  cases hfind : s.ctxs.findSome? fun e => (e.2.teams.find? fun t' =>
      t'.2.launch == t.launch && t'.2.cluster == t.cluster && t'.2.rank == r && !t'.2.live.isEmpty).map fun t' => (e.1, t'.1) with
  | some v =>
    obtain ⟨e, he, hv⟩ := List.exists_of_findSome?_eq_some hfind
    obtain rfl := hval e he v hv
    exact hfind
  | none =>
    have := List.findSome?_eq_none_iff.mp hfind (c, cx) (mem_of_tget hcx)
    rw [Option.map_eq_none_iff, List.find?_eq_none] at this
    exact absurd (by simpa [hl, hc, hr] using hlive) (this (j, x) (mem_of_tget hteam))

/-- The team whose scratch an access names, by context and slot. -/
def State.scrHome (s : State) (k : Key) : Option Nat → Option (Nat × Nat)
  | none => some (k.ctx, k.tslot)
  | some r => s.peerTeam k r

theorem State.scrHome_eq {m : Nat × Nat} {t x : Team} {th : Thread} {peer : Option Nat} {c k : Nat}
    (hm : s.member? m = some (t, th)) (hx : s.scratchOf m t peer c k x) : s.scrHome (s.key m) peer = some (c, k) := by
  obtain ⟨hteam, hpeer⟩ := hx
  cases peer with
  | none => exact congrArg some hpeer.symm
  | some r =>
    obtain ⟨hl, hc, hr, hlive, hone⟩ := hpeer
    exact State.peerTeam_eq (State.member?_eq s m t th hm).1 hteam hl hc hr hlive hone

/-- R214: the address of an access that is in its allocation and aligned. -/
theorem State.scrAddr_eq {key : Key} {x : Team} {peer : Option Nat} {c k n : Nat} {e : Word}
    (hhome : s.scrHome key peer = some (c, k)) (hx : s.team? c k = some x) (h0 : 0 < n) (halign : e.toNat % n = 0)
    (hsize : e.toNat + n ≤ x.scrSize) : s.scrAddr key peer e n = .inl ⟨c, k, e.toNat⟩ := by
  have hdef : s.scrAddr key peer e n = match s.scrHome key peer with
      | none => .inr 0x052
      | some (c, t) =>
        let size := ((s.team? c t).map (·.scrSize)).getD 0
        if size = 0 then .inr 0x050
        else if e.toNat % n ≠ 0 then .inr 0x051
        else if e.toNat + n > size then .inr 0x050
        else .inl ⟨c, t, e.toNat⟩ := by
    cases peer <;> rfl
  rw [hdef, hhome]
  simp only [hx, Option.map_some, Option.getD_some, halign]
  rw [if_neg (by omega), if_neg (by simp), if_neg (by omega)]

/-! ## Scratch loads -/

/-- A change of a team that leaves its threads leaves every thread. -/
theorem State.thread?_modTeam_of_threads (s : State) (c j : Nat) {f : Team → Team} (h : ∀ x, (f x).threads = x.threads) (k : Key) :
    (s.modTeam c j f).thread? k = s.thread? k := by
  unfold State.thread?
  rw [State.team?_modTeam]
  split_ifs
  · cases s.team? k.ctx k.tslot <;> simp [h]
  · rfl

/-- How a scratch load executes. -/
theorem exec_scrLoad {i : Instr} {d : Dst} {off : Option Rep → Thread → Word} {n : Nat} {sx : Bool} {mode : BitVec 2} {peer : Option Nat}
    (h : scrLoadForm i = some (d, off, n, sx, mode, peer)) (s : State) :
    n ∈ [1, 2, 4, 8, 16] ∧ 0 < (encode i).length ∧ exec i s = .next (s.issueScr i false fun s k _ th =>
      s.scrLoad i k th peer (off s.site.rep th) n sx mode (dstOf s.site th d (bytesWords n))) := by
  unfold scrLoadForm at h
  split at h
  · simp only [Option.some.injEq, Prod.mk.injEq] at h
    obtain ⟨rfl, rfl, rfl, rfl, rfl, rfl⟩ := h
    exact ⟨by decide, by simp [encode], rfl⟩
  · rename_i w qw _
    simp only [Option.some.injEq, Prod.mk.injEq] at h
    obtain ⟨rfl, rfl, rfl, rfl, rfl, rfl⟩ := h
    have hn : (if qw = 1 then 16 else widthOf w) ∈ [1, 2, 4, 8, 16] := by decide +revert
    have hb : scrBytes w qw = if qw = 1 then 16 else widthOf w := by rw [scrBytes, accBytes_eq]
    have hw : scrWords qw w = bytesWords (if qw = 1 then 16 else widthOf w) := by decide +revert
    refine ⟨hn, by simp [encode], ?_⟩
    rw [← hw, ← hb]
    rfl
  · exact absurd h nofun

section
variable {i : Instr} {d : Dst} {off : Option Rep → Thread → Word} {n : Nat} {sx : Bool} {mode : BitVec 2} {peer : Option Nat}
  {m : Nat × Nat} {t x : Team} {th : Thread} {c k : Nat}

/-- A scratch word that need not hold for an acquiring atomic is issued. -/
theorem State.issueScr_of_free {f : State → Key → Team → Thread → State × Out} (h : s.readyOne i m t th) (hfree : s.free m false = true) :
    s.issueScr i false f = s.issueEach i f := by
  refine State.holdIf_of_not _ h ?_
  simpa [State.free] using hfree

/-- The F bit of the granule that an access names. -/
theorem State.scrF_eq (hx : s.team? c k = some x) (e : Nat) : s.scrF ⟨c, k, e⟩ = decide (e / 16 ∈ x.fbits) := by
  simp [State.scrF, hx, Team.hasF]

/-- R214, R216 to R218: a scratch load that has its bytes on their way. -/
theorem exec_scrLoad_goes (hf : scrLoadForm i = some (d, off, n, sx, mode, peer)) (h : s.readyOne i m t th)
    (hfree : s.free m false = true) (hx : s.scratchOf m t peer c k x) (halign : (off s.site.rep th).toNat % n = 0)
    (hsize : (off s.site.rep th).toNat + n ≤ x.scrSize) (hF : mode = 0 ∨ (off s.site.rep th).toNat / 16 ∈ x.fbits) :
    ∃ v, exec i s = .next v ∧
      ((if mode = 2 then s.modTeam c k fun y => { y with fbits := y.fbits.filter (· != (off s.site.rep th).toNat / 16) } else s).delivering
        m th d n (extended n sx (mreadN x.scratch (off s.site.rep th).toNat n)) 2).leads i v := by
  obtain ⟨hn, hlen, hexec⟩ := exec_scrLoad hf s
  have h0 : 0 < n := by
    simp only [List.mem_cons, List.not_mem_nil, or_false] at hn
    omega
  have hk := (State.readyOne_thread h).1
  refine ⟨_, hexec, ?_⟩
  rw [State.issueScr_of_free h hfree]
  refine State.issueEach_delivering _ h hlen ?_ ?_ d n _ 2 ?_
  · split_ifs
    · exact State.rooted_modTeam (State.rooted_refl s) _ _ _
    · exact State.rooted_refl s
  · split_ifs
    · refine (State.thread?_modTeam_of_threads s c k ?_ (s.key m)).trans hk
      exact fun _ => rfl
    · exact hk
  · have hread : s.scrRead ⟨c, k, (off s.site.rep th).toNat⟩ n = mreadN x.scratch (off s.site.rep th).toNat n := by
      simp [State.scrRead, hx.1]
    have hgo : mode = 0 ∨ s.scrF ⟨c, k, (off s.site.rep th).toNat⟩ = true := by simpa [State.scrF_eq hx.1] using hF
    simp only [State.scrLoad, State.scrAddr_eq (State.scrHome_eq h.2.2 hx) hx.1 h0 halign hsize, if_pos hgo, State.feLoad, hread,
      scrRegs_eq hn sx _ (mreadN_lt _ _ _)]
    by_cases h2 : mode = 2#2
    · subst h2
      rfl
    · simp [h2]

/-- R22, R216: a scratch load that waits for its F bit. -/
theorem exec_scrLoad_waits (hf : scrLoadForm i = some (d, off, n, sx, mode, peer)) (h : s.readyOne i m t th)
    (hfree : s.free m false = true) (hx : s.scratchOf m t peer c k x) (halign : (off s.site.rep th).toNat % n = 0)
    (hsize : (off s.site.rep th).toNat + n ≤ x.scrSize) (hmode : mode ≠ 0) (hF : (off s.site.rep th).toNat / 16 ∉ x.fbits) :
    ∃ v w, exec i s = .next v ∧ v.feWaits = s.feWaits ++ [w] ∧ w.key = s.key m ∧ w.ctx = c ∧ w.tslot = k ∧
      w.granule = (off s.site.rep th).toNat / 16 ∧ w.off = (off s.site.rep th).toNat ∧ w.width = n ∧ w.take = (mode == 2) ∧
      (({ s with feWaits := v.feWaits } : State).modThread (s.key m) fun y =>
        { y with run := .waiting (.feBit peer ((off s.site.rep th).toNat / 16)) }).alike v := by
  obtain ⟨hn, hlen, hexec⟩ := exec_scrLoad hf s
  have h0 : 0 < n := by
    simp only [List.mem_cons, List.not_mem_nil, or_false] at hn
    omega
  obtain ⟨hk, hrun, hg, -⟩ := State.readyOne_thread h
  let w : FeWait := ⟨s.key m, c, k, (off s.site.rep th).toNat / 16, (off s.site.rep th).toNat, n, sx, mode == 2,
    dstOf s.site th d (bytesWords n), (s.goesOn i th).1, (s.goesOn i th).2⟩
  let u : State := { s with feWaits := s.feWaits ++ [w] }
  have hnot : ¬(mode = 0 ∨ s.scrF ⟨c, k, (off s.site.rep th).toNat⟩ = true) := not_or.mpr ⟨hmode, by simpa [State.scrF_eq hx.1] using hF⟩
  have hload : s.scrLoad i (s.key m) th peer (off s.site.rep th) n sx mode (dstOf s.site th d (bytesWords n)) =
      (u, .lag (.feBit peer ((off s.site.rep th).toNat / 16))) := by
    simp only [State.scrLoad, State.scrAddr_eq (State.scrHome_eq h.2.2 hx) hx.1 h0 halign hsize, if_neg hnot]
    rfl
  have hset : u.settle i m (.lag (.feBit peer ((off s.site.rep th).toNat / 16))) =
      u.modThread (s.key m) fun y => { y with run := .waiting (.feBit peer ((off s.site.rep th).toNat / 16)) } := by
    have halive : u.alive ⟨u.site.ctx, m.1, m.2⟩ = true := by
      have hk : u.thread? ⟨u.site.ctx, m.1, m.2⟩ = some th := hk
      simp [State.alive, hk, hrun]
    unfold State.settle
    simp only [halive, Bool.not_true, Bool.false_eq_true, if_false]
    rfl
  have halike := State.retire_one u i m (.lag (.feBit peer ((off s.site.rep th).toNat / 16))) hg (by rw [hset]; rfl) (by rw [hset]; rfl)
  rw [hset] at halike
  refine ⟨_, w, hexec, ?_⟩
  rw [State.issueScr_of_free h hfree, State.issueEach_one s i _ h]
  simp only [hload]
  have hwaits := congrArg State.feWaits halike.2.2.2
  rw [show (u.retire i [(m, .lag (.feBit peer ((off s.site.rep th).toNat / 16)))]).feWaits = s.feWaits ++ [w] from hwaits]
  exact ⟨rfl, rfl, rfl, rfl, rfl, rfl, rfl, rfl, halike⟩

end

/-- Settles O27: a scratch load goes on with its bytes (`exec_scrLoad_goes`) or waits for its F bit (`exec_scrLoad_waits`). -/
theorem scratchLoads : Obligations.ScratchLoads := by
  unfold Obligations.ScratchLoads
  exact ⟨fun _ _ _ _ _ _ _ _ _ _ _ _ _ _ hf h hfree hx halign hsize hF => exec_scrLoad_goes hf h hfree hx halign hsize hF,
    fun _ _ _ _ _ _ _ _ _ _ _ _ _ _ hf h hfree hx halign hsize hmode hF => exec_scrLoad_waits hf h hfree hx halign hsize hmode hF⟩

end Sys2Proof.Machine
end

section
/-! SUPPORT. What an access at the homes leaves alone: all but the memory, the cached sectors, the notes, the pushes and UNBK of the
package, and the next identifier (15 R297, 22 R399, R404). -/

namespace Sys2Proof.Machine

variable {s : State}

/-- A state but for what an access at the homes may change. -/
def State.offHome (s : State) : State :=
  { s with fresh := 0, pkg := { s.pkg with hbm := [], l2 := [], noted := [], subs := [], unbk := false } }

/-- A fold whose steps leave what lies off the homes. -/
theorem State.offHome_foldl {α : Type} {f : State → α → State} (hf : ∀ s a, (f s a).offHome = s.offHome) (l : List α) (s : State) :
    (l.foldl f s).offHome = s.offHome :=
  List.foldlRecOn (motive := fun t : State => t.offHome = s.offHome) l f rfl fun t ht a _ => (hf t a).trans ht

@[simp] theorem State.offHome_setUnbk : s.setUnbk.offHome = s.offHome := rfl

@[simp] theorem State.offHome_noteConst (sec : Nat) : (s.noteConst sec).offHome = s.offHome := by
  unfold State.noteConst
  split <;> rfl

section
variable {evict : State → Nat → State} (he : ∀ s sec, (evict s sec).offHome = s.offHome)
include he

theorem State.offHome_roomBy (sec : Nat) : (s.roomBy evict sec).offHome = s.offHome := by
  unfold State.roomBy
  dsimp only
  split
  · rfl
  · split
    · rfl
    · split
      · rfl
      · split
        · refine State.offHome_foldl (fun s k => ?_) _ s
          split
          · exact he s k
          · rfl
        · rfl

theorem State.offHome_expPutBy (a : Nat) (b : Byte) : (s.expPutBy evict a b).offHome = s.offHome := by
  have hroom : (if (tget s.pkg.l2 (a / 128)).any HomeSector.inUpdate then s.roomBy evict (a / 128) else s).offHome = s.offHome := by
    split
    · exact State.offHome_roomBy he _
    · rfl
  unfold State.expPutBy
  dsimp only
  split
  · rfl
  · rw [State.offHome_noteConst]
    split <;> exact hroom

theorem State.offHome_cleanBy (sec : Nat) : (s.cleanBy evict sec).offHome = s.offHome := by
  unfold State.cleanBy
  dsimp only
  split
  · rfl
  · split
    · split
      · split
        · exact State.offHome_foldl (fun s k => State.offHome_expPutBy he _ _) _ _
        · rfl
      · rfl
    · rfl

end

theorem State.offHome_evictDeep (n : Nat) : ∀ s sec, (State.evictDeep n s sec).offHome = State.offHome s := by
  induction n with
  | zero => exact fun s _ => rfl
  | succ n ih => exact fun s sec => State.offHome_cleanBy ih sec

@[simp] theorem State.offHome_l2Room (sec : Nat) : (s.l2Room sec).offHome = s.offHome :=
  State.offHome_roomBy (fun _ _ => State.offHome_evictDeep _ _ _) sec

@[simp] theorem State.offHome_filled (sec : Nat) : (s.filled sec).offHome = s.offHome := by
  unfold State.filled
  split
  · split <;> rfl
  · rfl

@[simp] theorem State.offHome_homeGet (sec : Nat) : (s.homeGet sec).2.offHome = s.offHome :=
  show ((s.l2Room sec).filled sec).offHome = s.offHome by simp

@[simp] theorem State.offHome_mergeHome (sec : Nat) (mask : SectorMask) (data : SectorData) :
    (s.mergeHome sec mask data).offHome = s.offHome := by
  unfold State.mergeHome
  split
  · rfl
  · split
    · rfl
    · rw [State.offHome_noteConst]
      exact State.offHome_homeGet sec

@[simp] theorem State.offHome_pushes (sec : Nat) (mask : SectorMask) (scope : Nat) : (s.pushes sec mask scope).offHome = s.offHome := by
  refine State.offHome_foldl (fun s k => ?_) _ s
  dsimp only
  split
  · rfl
  · split <;> rfl

@[simp] theorem State.offHome_homeWrite (a n v : Nat) : (s.homeWrite a n v).offHome = s.offHome :=
  (State.offHome_pushes ..).trans (State.offHome_mergeHome ..)

@[simp] theorem State.offHome_homeWriteL (a : Nat) (l : List Byte) : (s.homeWriteL a l).offHome = s.offHome := by
  induction l generalizing s a with
  | nil => rfl
  | cons b l ih => exact (ih (a + 1)).trans (State.offHome_homeWrite ..)

section
variable (s) (a : Nat) (l : List Byte)

@[simp] theorem State.homeWriteL_ctxs : (s.homeWriteL a l).ctxs = s.ctxs :=
  (congrArg State.ctxs (State.offHome_homeWriteL (s := s) a l) :)
@[simp] theorem State.homeWriteL_cores : (s.homeWriteL a l).cores = s.cores :=
  (congrArg State.cores (State.offHome_homeWriteL (s := s) a l) :)
@[simp] theorem State.homeWriteL_dies : (s.homeWriteL a l).dies = s.dies :=
  (congrArg State.dies (State.offHome_homeWriteL (s := s) a l) :)
@[simp] theorem State.homeWriteL_launches : (s.homeWriteL a l).launches = s.launches :=
  (congrArg State.launches (State.offHome_homeWriteL (s := s) a l) :)
@[simp] theorem State.homeWriteL_deviceId : (s.homeWriteL a l).pkg.deviceId = s.pkg.deviceId :=
  (congrArg (fun t : State => t.pkg.deviceId) (State.offHome_homeWriteL (s := s) a l) :)
@[simp] theorem State.homeWriteL_mirror : (s.homeWriteL a l).pkg.mirror = s.pkg.mirror :=
  (congrArg (fun t : State => t.pkg.mirror) (State.offHome_homeWriteL (s := s) a l) :)
@[simp] theorem State.homeWriteL_die (d : Nat) : (s.homeWriteL a l).die d = s.die d := by
  unfold State.die
  simp only [State.homeWriteL_dies]

end

/-! ## Bind records (R363) -/

/-- The bytes of a bind record in Wick's mirror. -/
def mirrorBytes : Option Bind → List Byte
  | none => List.replicate 16 0
  | some b => leBytes 4 (b.pri * 2 ^ 6 + b.st) ++ leBytes 4 (b.first * 2 ^ 16 + b.origin) ++ leBytes 8 b.packet.toNat

theorem State.mirrorBind_eq (s : State) (die k : Nat) :
    s.mirrorBind die k = s.homeWriteL (localOf s.pkg.mirror + 0x2000 * die + 16 * k) (mirrorBytes (tget (s.die die).binds k)) := by
  unfold State.mirrorBind
  dsimp only
  cases tget (s.die die).binds k <;> rfl

/-- The table of bind records with one written. -/
def State.bindTo (s : State) (die k : Nat) (b : Option Bind) : State :=
  s.modDie die fun d => { d with binds := match b with
    | some x => tset d.binds k x
    | none => tdel d.binds k }

theorem State.setBind_eq (s : State) (die k : Nat) (b : Option Bind) : s.setBind die k b =
    (s.bindTo die k b).homeWriteL (localOf s.pkg.mirror + 0x2000 * die + 16 * k) (mirrorBytes (tget ((s.bindTo die k b).die die).binds k)) :=
  State.mirrorBind_eq _ die k

section
variable (s) (die k : Nat) (b : Option Bind)

@[simp] theorem State.setBind_ctxs : (s.setBind die k b).ctxs = s.ctxs := by simp [State.setBind_eq, State.bindTo]
@[simp] theorem State.setBind_cores : (s.setBind die k b).cores = s.cores := by simp [State.setBind_eq, State.bindTo]
@[simp] theorem State.setBind_launches : (s.setBind die k b).launches = s.launches := by simp [State.setBind_eq, State.bindTo]
@[simp] theorem State.setBind_ctx? (j : Nat) : (s.setBind die k b).ctx? j = s.ctx? j := by simp [State.ctx?]

theorem State.setBind_binds (x : Bind) : ((s.setBind die k (some x)).die die).binds = tset (s.die die).binds k x := by
  simp [State.setBind_eq, State.bindTo]

end

theorem State.tget_setBind (s : State) (die k : Nat) (x : Bind) (j : Nat) :
    tget ((s.setBind die k (some x)).die die).binds j = if j = k then some x else tget (s.die die).binds j := by
  rw [State.setBind_binds, tget_tset]

end Sys2Proof.Machine
end

section
/-! SUPPORT. What the homes read after bytes have been written, while the sectors that they hold fit into every set: no sector leaves
(15 R297). -/

namespace Sys2Proof.Machine

variable {s : State}

/-! ## Bytes of a sector -/

theorem leNat_lt (l : List Byte) : leNat l < 2 ^ (8 * l.length) := by
  induction l with
  | nil => exact Nat.one_pos
  | cons b l ih =>
    have hb := b.isLt
    have hp : 2 ^ (8 * (l.length + 1)) = 256 * 2 ^ (8 * l.length) := by ring
    rw [leNat, List.length_cons, hp]
    omega

/-- The byte at a place of a number that bytes make. -/
theorem leNat_byte (l : List Byte) {k : Nat} (hk : k < l.length) : BitVec.ofNat 8 (leNat l / 2 ^ (8 * k)) = l[k] := by
  induction l generalizing k with
  | nil => exact absurd hk (Nat.not_lt_zero k)
  | cons b l ih =>
    have hb := b.isLt
    cases k with
    | zero =>
      apply BitVec.eq_of_toNat_eq
      simp only [leNat, BitVec.toNat_ofNat, List.getElem_cons_zero]
      omega
    | succ k =>
      have hp : 2 ^ (8 * (k + 1)) = 256 * 2 ^ (8 * k) := by ring
      rw [leNat, hp, ← Nat.div_div_eq_div_mul, show (b.toNat + 256 * leNat l) / 256 = leNat l by omega]
      exact ih (Nat.lt_of_succ_lt_succ hk)

/-- A number of no more bits than a bit vector has is its value. -/
theorem toNat_ofNat_of_bits {w n m : Nat} (h : n < 2 ^ m) (hm : m ≤ w) : (BitVec.ofNat w n).toNat = n := by
  rw [BitVec.toNat_ofNat, Nat.mod_eq_of_lt (h.trans_le (Nat.pow_le_pow_right Nat.two_pos hm))]

theorem secByte_secOf {l : List Byte} (hl : l.length ≤ 128) {k : Nat} (hk : k < l.length) : secByte (secOf l) k = l[k] := by
  rw [secByte, secOf, toNat_ofNat_of_bits (leNat_lt l) (by omega)]
  exact leNat_byte l hk

/-- A sector into which one byte has been merged. -/
theorem secByte_merge_one (v : Byte) (d : SectorData) {o j : Nat} (ho : o < 128) (hj : j < 128) :
    secByte (secMerge (maskOf o 1) (secPut o 1 v.toNat) d) j = if j = o then v else secByte d j := by
  have hbit : ∀ j < 128, (maskOf o 1).getLsbD j = decide (j = o) := by
    intro j hj
    rw [getLsbD_maskOf, Bool.eq_iff_iff]
    simp only [Bool.and_eq_true, decide_eq_true_eq]
    omega
  have h0 : maskOf o 1 ≠ 0 := fun h => by simpa [h] using hbit o ho
  have hall : maskOf o 1 ≠ maskAll := by
    intro h
    have h1 := hbit ((o + 1) % 128) (Nat.mod_lt _ (by decide))
    rw [h, maskAll, BitVec.getLsbD_allOnes, decide_eq_true (Nat.mod_lt _ (by decide))] at h1
    have := of_decide_eq_true h1.symm
    omega
  rw [secMerge, if_neg h0, if_neg hall, secByte_secOf (by simp) (by simpa using hj), List.getElem_map, List.getElem_range, hbit j hj]
  by_cases h : j = o
  · subst h
    have hv := v.isLt
    have hlt : v.toNat % 2 ^ (8 * 1) * 2 ^ (8 * j) < 2 ^ (8 + 8 * j) := by
      rw [Nat.pow_add]
      exact Nat.mul_lt_mul_of_pos_right (Nat.mod_lt _ (by decide)) (Nat.two_pow_pos _)
    rw [decide_eq_true rfl, if_pos rfl, if_pos rfl, secByte, secPut, toNat_ofNat_of_bits hlt (by omega),
      Nat.mul_div_cancel _ (Nat.two_pow_pos _)]
    apply BitVec.eq_of_toNat_eq
    rw [BitVec.toNat_ofNat]
    omega
  · rw [decide_eq_false h, if_neg Bool.false_ne_true, if_neg h]

/-! ## Room in the data arrays -/

theorem mem_tset {α : Type} {t : Tab α} {k : Nat} {v : α} {e : Nat × α} (h : e ∈ tset t k v) : e = (k, v) ∨ e ∈ t := by
  induction t with
  | nil => exact .inl (List.mem_singleton.mp h)
  | cons a r ih =>
    obtain ⟨j, w⟩ := a
    unfold tset at h
    split_ifs at h
    · exact List.mem_cons.mp h
    · exact (List.mem_cons.mp h).imp_right (List.mem_cons_of_mem _)
    · obtain rfl | h := List.mem_cons.mp h
      · exact .inr List.mem_cons_self
      · exact (ih h).imp_right (List.mem_cons_of_mem _)

theorem rising_tset {α : Type} {t : Tab α} (h : rising t) (k : Nat) (v : α) : rising (tset t k v) := by
  induction t with
  | nil => simp [rising, tset]
  | cons a r ih =>
    obtain ⟨j, w⟩ := a
    obtain ⟨hj, hr⟩ := List.pairwise_cons.mp (show List.Pairwise (· < ·) (j :: r.map (·.1)) from h)
    unfold tset
    split_ifs with h1 h2
    · refine List.pairwise_cons.mpr ⟨fun x hx => ?_, h⟩
      obtain rfl | hx := List.mem_cons.mp hx
      · exact h1
      · exact h1.trans (hj x hx)
    · subst h2
      exact h
    · refine List.pairwise_cons.mpr ⟨fun x hx => ?_, ih hr⟩
      obtain ⟨e, he, rfl⟩ := List.mem_map.mp hx
      obtain rfl | he := mem_tset he
      · show j < k
        omega
      · exact hj _ (List.mem_map_of_mem he)

/-- The sectors that the homes hold are among `S`, and no granule has a subscriber. -/
def State.holdsIn (s : State) (S : Finset Nat) : Prop := s.pkg.subs = [] ∧ ∀ e ∈ s.pkg.l2, e.1 ∈ S

/-- Of sixteen sectors, those on other lines than one of them are fewer than sixteen lines. -/
theorem State.l2Lines_lt {S : Finset Nat} (hS : S.card ≤ 16) (h : ∀ e ∈ s.pkg.l2, e.1 ∈ S) {sec : Nat} (hsec : sec ∈ S) :
    (s.l2Lines sec).length < 16 := by
  have key : rising (s.l2Lines sec) ∧ ∀ e ∈ s.l2Lines sec, e.1 ∈ (S.erase sec).image (· / 2) := by
    unfold State.l2Lines
    refine List.foldlRecOn (motive := fun acc : Tab Nat => rising acc ∧ ∀ e ∈ acc, e.1 ∈ (S.erase sec).image (· / 2)) s.pkg.l2 _
      ⟨List.Pairwise.nil, nofun⟩ fun acc hacc e he => ?_
    split
    · exact hacc
    · split
      · rename_i hline
        refine ⟨rising_tset hacc.1 _ _, fun x hx => ?_⟩
        obtain rfl | hx := mem_tset hx
        · refine Finset.mem_image.mpr ⟨e.1, Finset.mem_erase.mpr ⟨?_, h e he⟩, rfl⟩
          rintro rfl
          simp at hline
        · exact hacc.2 x hx
      · exact hacc
  have hnodup : ((s.l2Lines sec).map (·.1)).Nodup := key.1.imp fun h => Nat.ne_of_lt h
  have hsub : ((s.l2Lines sec).map (·.1)).toFinset ⊆ (S.erase sec).image (· / 2) := by
    intro x hx
    obtain ⟨e, he, rfl⟩ := List.mem_map.mp (List.mem_toFinset.mp hx)
    exact key.2 e he
  calc (s.l2Lines sec).length = ((s.l2Lines sec).map (·.1)).toFinset.card := by
        rw [List.toFinset_card_of_nodup hnodup, List.length_map]
    _ ≤ ((S.erase sec).image (· / 2)).card := Finset.card_le_card hsub
    _ ≤ (S.erase sec).card := Finset.card_image_le
    _ < S.card := Finset.card_erase_lt_of_mem hsec
    _ ≤ 16 := hS

theorem State.l2Room_of_holdsIn {S : Finset Nat} (hS : S.card ≤ 16) (h : s.holdsIn S) {sec : Nat} (hsec : sec ∈ S) :
    s.l2Room sec = s := by
  have hl := State.l2Lines_lt hS h.2 hsec
  unfold State.l2Room State.roomBy
  simp only [hl, if_true, ite_self]

/-! ## A byte written at its home -/

theorem State.pushes_of_subs (h : s.pkg.subs = []) (sec : Nat) (mask : SectorMask) (scope : Nat) : s.pushes sec mask scope = s := by
  unfold State.pushes
  refine List.foldlRecOn (motive := fun t : State => t = s) _ _ rfl fun t ht k _ => ?_
  rw [ht, h]
  split <;> rfl

@[simp] theorem HomeSector.merged_data (h : HomeSector) : h.merged.data = h.data := by
  unfold HomeSector.merged
  split <;> rfl

@[simp] theorem State.filled_l2 (sec : Nat) : (s.filled sec).pkg.l2 = s.pkg.l2 := by
  unfold State.filled
  split
  · split <;> rfl
  · rfl
@[simp] theorem State.filled_hbm (sec : Nat) : (s.filled sec).pkg.hbm = s.pkg.hbm := by
  unfold State.filled
  split
  · split <;> rfl
  · rfl
@[simp] theorem State.filled_subs (sec : Nat) : (s.filled sec).pkg.subs = s.pkg.subs := by
  unfold State.filled
  split
  · split <;> rfl
  · rfl

theorem State.fillSector_data (sec : Nat) :
    (s.fillSector sec).data = secOf ((List.range 128).map fun k => hread s.pkg.hbm (128 * sec + k)) := by
  unfold State.fillSector
  dsimp only
  split <;> rfl

theorem inHbm_sector (a : Nat) : inHbm (128 * (a / 128)) = inHbm a := by
  unfold inHbm
  rw [Bool.eq_iff_iff, decide_eq_true_eq, decide_eq_true_eq]
  omega

theorem State.homeByte_congr {t : State} (h1 : t.pkg.l2 = s.pkg.l2) (h2 : t.pkg.hbm = s.pkg.hbm) (x : Nat) : t.homeByte x = s.homeByte x := by
  unfold State.homeByte
  rw [h1, h2]

/-- The sector that a home gives while none leaves: the cached bytes, or those of the memory. -/
theorem State.homeGet_of_holdsIn {S : Finset Nat} (hS : S.card ≤ 16) (h : s.holdsIn S) {sec : Nat} (hsec : sec ∈ S)
    (hb : inHbm (128 * sec) = true) :
    (∀ j < 128, secByte (s.homeGet sec).1.data j = s.homeByte (128 * sec + j)) ∧
    (s.homeGet sec).2.pkg.l2 = tset s.pkg.l2 sec (s.homeGet sec).1 ∧ (s.homeGet sec).2.pkg.hbm = s.pkg.hbm ∧
    (s.homeGet sec).2.pkg.subs = s.pkg.subs := by
  unfold State.homeGet
  rw [State.l2Room_of_holdsIn hS h hsec]
  refine ⟨fun j hj => ?_, ?_, ?_, ?_⟩
  · have hx : inHbm (128 * sec + j) = true := by
      rw [← inHbm_sector, show (128 * sec + j) / 128 = sec by omega, hb]
    have hfill : (State.fillSector { s.filled sec with fresh := (s.filled sec).fresh + 1 } sec).data =
        secOf ((List.range 128).map fun k => hread s.pkg.hbm (128 * sec + k)) := by
      rw [State.fillSector_data]
      simp only [State.filled_hbm]
    show secByte ((tget (s.filled sec).pkg.l2 sec).getD
      (State.fillSector { s.filled sec with fresh := (s.filled sec).fresh + 1 } sec)).merged.data j = _
    rw [State.filled_l2, HomeSector.merged_data, State.homeByte, hx, show (128 * sec + j) / 128 = sec by omega,
      show (128 * sec + j) % 128 = j by omega]
    cases tget s.pkg.l2 sec with
    | some h => rfl
    | none =>
      rw [Option.getD_none, hfill, secByte_secOf (by simp) (by simpa using hj), List.getElem_map, List.getElem_range]
      rfl
  · exact congrArg (tset · sec _) (State.filled_l2 sec)
  · exact State.filled_hbm sec
  · exact State.filled_subs sec

@[simp] theorem State.noteConst_l2 (sec : Nat) : (s.noteConst sec).pkg.l2 = s.pkg.l2 := by
  unfold State.noteConst
  split <;> rfl
@[simp] theorem State.noteConst_hbm (sec : Nat) : (s.noteConst sec).pkg.hbm = s.pkg.hbm := by
  unfold State.noteConst
  split <;> rfl
@[simp] theorem State.noteConst_subs (sec : Nat) : (s.noteConst sec).pkg.subs = s.pkg.subs := by
  unfold State.noteConst
  split <;> rfl

section
variable {S : Finset Nat} (hS : S.card ≤ 16)
include hS

/-- A byte written at a home: it reads so, every other byte as before, and no further sector is held. -/
theorem State.homeWrite_of_holdsIn (h : s.holdsIn S) {a : Nat} (ha : a / 128 ∈ S) (hb : inHbm a = true) (b : Byte) :
    (s.homeWrite a 1 b.toNat).holdsIn S ∧ ∀ x, (s.homeWrite a 1 b.toNat).homeByte x = if x = a then b else s.homeByte x := by
  have hb' : inHbm (128 * (a / 128)) = true := (inHbm_sector a).trans hb
  obtain ⟨hdata, hl2, hhbm, hsubs⟩ := State.homeGet_of_holdsIn hS h ha hb'
  have hmask : maskOf (a % 128) 1 ≠ 0 := fun h0 => by
    have := getLsbD_maskOf (a % 128) 1 (a % 128)
    simp [h0, Nat.mod_lt a (show 0 < 128 by decide)] at this
  have hw : s.homeWrite a 1 b.toNat = (((s.homeGet (a / 128)).2.modPkg fun p => { p with
      l2 := tset p.l2 (a / 128) { (s.homeGet (a / 128)).1 with
        data := secMerge (maskOf (a % 128) 1) (secPut (a % 128) 1 b.toNat) (s.homeGet (a / 128)).1.data, st := .dirty } })).noteConst (a / 128) := by
    unfold State.homeWrite State.homeStore
    have hm : s.mergeHome (a / 128) (maskOf (a % 128) 1) (secPut (a % 128) 1 b.toNat) =
        (((s.homeGet (a / 128)).2.modPkg fun p => { p with
          l2 := tset p.l2 (a / 128) { (s.homeGet (a / 128)).1 with
            data := secMerge (maskOf (a % 128) 1) (secPut (a % 128) 1 b.toNat) (s.homeGet (a / 128)).1.data, st := .dirty } })).noteConst (a / 128) := by
      unfold State.mergeHome
      rw [if_neg hmask, hb']
      rfl
    rw [hm]
    refine State.pushes_of_subs ?_ _ _ _
    rw [State.noteConst_subs]
    exact hsubs.trans h.1
  rw [hw]
  refine ⟨⟨?_, ?_⟩, fun x => ?_⟩
  · rw [State.noteConst_subs]
    exact hsubs.trans h.1
  · rw [State.noteConst_l2]
    show ∀ e ∈ tset (s.homeGet (a / 128)).2.pkg.l2 (a / 128) _, e.1 ∈ S
    rw [hl2]
    intro e he
    obtain rfl | he := mem_tset he
    · exact ha
    · obtain rfl | he := mem_tset he
      · exact ha
      · exact h.2 e he
  · rw [State.homeByte_congr (State.noteConst_l2 _) (State.noteConst_hbm _)]
    by_cases hsec : x / 128 = a / 128
    · have hx : inHbm x = true := by rw [← inHbm_sector, hsec, hb']
      unfold State.homeByte
      simp only [hx, State.modPkg, hsec, tget_tset_self, Bool.not_true, Bool.false_eq_true, if_false]
      rw [secByte_merge_one b _ (Nat.mod_lt _ (by decide)) (Nat.mod_lt _ (by decide)), hdata _ (Nat.mod_lt _ (by decide))]
      by_cases hxa : x = a
      · simp [hxa]
      · rw [if_neg hxa, if_neg (by omega), ← hsec, Nat.div_add_mod, State.homeByte, hx]
        rfl
    · rw [if_neg fun hxa => hsec (congrArg (· / 128) hxa)]
      unfold State.homeByte
      simp only [State.modPkg, hl2, hhbm, tget_tset_ne _ _ hsec]

/-- Bytes written at homes: they read so, every other byte as before. -/
theorem State.homeWriteL_of_holdsIn (h : s.holdsIn S) (l : List Byte) {a : Nat} (ha : ∀ k < l.length, (a + k) / 128 ∈ S)
    (hb : ∀ k < l.length, inHbm (a + k) = true) :
    (s.homeWriteL a l).holdsIn S ∧ (∀ k (hk : k < l.length), (s.homeWriteL a l).homeByte (a + k) = l[k]) ∧
    ∀ x, (x < a ∨ a + l.length ≤ x) → (s.homeWriteL a l).homeByte x = s.homeByte x := by
  induction l generalizing s a with
  | nil => exact ⟨h, fun k hk => absurd hk (Nat.not_lt_zero k), fun _ _ => rfl⟩
  | cons b l ih =>
    obtain ⟨h1, hbyte⟩ := State.homeWrite_of_holdsIn hS h (ha 0 (Nat.succ_pos _)) (hb 0 (Nat.succ_pos _)) b
    obtain ⟨h2, hin, hout⟩ := ih h1 (a := a + 1)
      (fun k hk => by rw [Nat.add_assoc, Nat.add_comm 1 k]; exact ha (k + 1) (Nat.succ_lt_succ hk))
      (fun k hk => by rw [Nat.add_assoc, Nat.add_comm 1 k]; exact hb (k + 1) (Nat.succ_lt_succ hk))
    refine ⟨h2, fun k hk => ?_, fun x hx => ?_⟩
    · cases k with
      | zero => exact (hout a (.inl (Nat.lt_succ_self a))).trans ((hbyte a).trans (if_pos rfl))
      | succ k =>
        have := hin k (Nat.lt_of_succ_lt_succ hk)
        rwa [Nat.add_assoc, Nat.add_comm 1 k] at this
    · rw [List.length_cons] at hx
      exact (hout x (by omega)).trans ((hbyte x).trans (if_neg (by omega)))

end

end Sys2Proof.Machine
end

section
/-! SUPPORT. LAUNCH_BIND: which launch binds next, and the bind record and the copy of its packet that it gets (19 R362, R363). -/

namespace Sys2Proof.Machine

variable {s : State}

/-! ## Fields of a packet -/

theorem field_eq (w : Word) (hi lo : Nat) : field w.toNat hi lo = (w.extractLsb' lo (hi + 1 - lo)).toNat := by
  simp [field, BitVec.extractLsb'_toNat, Nat.shiftRight_eq_div_pow]

theorem pkW_eq (p : List Word) : pkW p = ((p.getD 12 0).extractLsb' 8 4).toNat + 1 := congrArg (· + 1) (field_eq _ 11 8)
theorem pkH_eq (p : List Word) : pkH p = ((p.getD 12 0).extractLsb' 12 3).toNat + 1 := congrArg (· + 1) (field_eq _ 14 12)

/-! ## The launch that binds next -/

/-- Where no launch is still to be read, reading a queue changes nothing. -/
theorem State.readQueue_of_read (h : ∀ e ∈ s.launches, e.2.ready ≠ 0 ∨ e.2.refused.isSome = true ∨ e.2.done = true) (q : Nat) :
    s.readQueue q = s := by
  have hnone : (s.launches.find? fun e => e.2.queue == q && e.2.ready == 0 && e.2.refused.isNone && !e.2.done) = none := by
    rw [List.find?_eq_none]
    intro e he
    obtain h | h | h := h e he
    · simp [h]
    · simp [Option.isSome_iff_ne_none.mp h]
    · simp [h]
  unfold State.readQueue
  rw [hnone]

/-- A launch goes before another: it has the higher priority, or the same and has been ready for longer (R362). -/
def bindsBefore (e x : Nat × Launch) : Prop := e.2.prio > x.2.prio ∨ (e.2.prio = x.2.prio ∧ e.2.ready < x.2.ready)

/-- Whether a launch has a cluster to bind on a die. -/
def mayBind (die : Nat) (e : Nat × Launch) : Prop := e.2.die = die ∧ e.2.ready ≠ 0 ∧ e.2.failed = false ∧ e.2.nextCluster < e.2.clusters

/-- The choice between the launch chosen so far and another. -/
def pickLaunch (m : Option (Nat × Launch)) (e : Nat × Launch) : Option (Nat × Launch) :=
  match m with
  | none => some e
  | some x => if e.2.prio > x.2.prio ∨ (e.2.prio = x.2.prio ∧ e.2.ready < x.2.ready) then some e else some x

theorem pickLaunch_some (x e : Nat × Launch) : pickLaunch (some x) e =
    if e.2.prio > x.2.prio ∨ (e.2.prio = x.2.prio ∧ e.2.ready < x.2.ready) then some e else some x := rfl

theorem pickLaunch_of_before {b x : Nat × Launch} (h : bindsBefore b x) : pickLaunch (some x) b = some b ∧ pickLaunch (some b) x = some b := by
  unfold bindsBefore at h
  unfold pickLaunch
  exact ⟨if_pos h, if_neg (by omega)⟩

/-- The launch that goes before every other one is chosen. -/
theorem foldl_pickLaunch {b : Nat × Launch} (l : List (Nat × Launch)) (h : ∀ e ∈ l, e = b ∨ bindsBefore b e) (m : Option (Nat × Launch))
    (hm : m = some b ∨ (b ∈ l ∧ ∀ x, m = some x → bindsBefore b x)) : l.foldl pickLaunch m = some b := by
  induction l generalizing m with
  | nil => exact hm.resolve_right fun h => List.not_mem_nil h.1
  | cons e l ih =>
    obtain ⟨he, hl⟩ := List.forall_mem_cons.mp h
    rw [List.foldl_cons]
    refine ih hl _ ?_
    obtain rfl | ⟨hb, hx⟩ := hm
    · refine .inl ?_
      obtain rfl | he := he
      · rw [pickLaunch_some, ite_self]
      · exact (pickLaunch_of_before he).2
    · obtain rfl | he := he
      · refine .inl ?_
        cases m with
        | none => rfl
        | some x => exact (pickLaunch_of_before (hx x rfl)).1
      · obtain rfl | hb := List.mem_cons.mp hb
        · refine .inl ?_
          cases m with
          | none => rfl
          | some x => exact (pickLaunch_of_before (hx x rfl)).1
        · refine .inr ⟨hb, fun x hx' => ?_⟩
          cases m with
          | none =>
            obtain rfl : e = x := Option.some.inj hx'
            exact he
          | some y =>
            rw [pickLaunch_some] at hx'
            split_ifs at hx'
            · obtain rfl : e = x := Option.some.inj hx'
              exact he
            · obtain rfl : y = x := Option.some.inj hx'
              exact hx y rfl

theorem State.nextLaunch_eq {die id : Nat} {l : Launch} (hl : (id, l) ∈ s.launches) (hmay : mayBind die (id, l))
    (hbest : ∀ e ∈ s.launches, mayBind die e → e = (id, l) ∨ bindsBefore (id, l) e) : s.nextLaunch die = some (id, l) := by
  have hiff : ∀ e : Nat × Launch, (e.2.die == die && e.2.ready != 0 && !e.2.failed && decide (e.2.nextCluster < e.2.clusters)) = true ↔
      mayBind die e := by
    intro e
    simp [mayBind, and_assoc]
  refine foldl_pickLaunch _ (fun e he => ?_) none (.inr ⟨?_, nofun⟩)
  · obtain ⟨he, hm⟩ := List.mem_filter.mp he
    exact hbest e he ((hiff e).mp hm)
  · exact List.mem_filter.mpr ⟨hl, (hiff _).mpr hmay⟩

/-! ## The copy of a packet -/

theorem leNat_leBytes {n v : Nat} (h : v < 256 ^ n) : leNat (leBytes n v) = v := by
  induction n generalizing v with
  | zero => exact (Nat.lt_one_iff.mp h).symm
  | succ n ih =>
    have hd : v / 256 < 256 ^ n := Nat.div_lt_of_lt_mul (by rwa [Nat.pow_succ, Nat.mul_comm] at h)
    rw [leBytes, leNat, ih hd, BitVec.toNat_ofNat]
    omega

@[simp] theorem length_leBytes (n v : Nat) : (leBytes n v).length = n := by
  induction n generalizing v with
  | zero => rfl
  | succ n ih => exact congrArg (· + 1) (ih _)

/-- The number that the homes hold where they hold the bytes of a list. -/
theorem State.homeNat_eq {l : List Byte} {a : Nat} (h : ∀ k (hk : k < l.length), s.homeByte (a + k) = l[k]) :
    s.homeNat a l.length = leNat l := by
  induction l generalizing a with
  | nil => rfl
  | cons b l ih =>
    have h0 := h 0 (Nat.succ_pos _)
    have hr := ih (a := a + 1) fun k hk =>
      (congrArg s.homeByte (by omega)).trans (h (k + 1) (Nat.succ_lt_succ hk))
    rw [List.length_cons, State.homeNat, leNat, hr]
    exact congrArg (fun x : Byte => x.toNat + 256 * leNat l) h0

/-- The bytes of a packet. -/
def packetBytes (p : List Word) : List Byte := p.flatMap fun w => leBytes 4 w.toNat

@[simp] theorem length_packetBytes (p : List Word) : (packetBytes p).length = 4 * p.length := by
  simp [packetBytes, List.length_flatMap, Nat.mul_comm]

/-- The bytes of word `j` of a packet begin at byte `4 * j`. -/
theorem packetBytes_getElem (p : List Word) {j k : Nat} (hj : j < p.length) (hk : k < 4) :
    (packetBytes p)[4 * j + k]'(by rw [length_packetBytes]; omega) = (leBytes 4 p[j].toNat)[k]'(by simpa using hk) := by
  induction p generalizing j with
  | nil => exact absurd hj (Nat.not_lt_zero j)
  | cons w p ih =>
    have hcons : packetBytes (w :: p) = leBytes 4 w.toNat ++ packetBytes p := rfl
    cases j with
    | zero => simp [hcons, hk]
    | succ j =>
      have := ih (j := j) (Nat.lt_of_succ_lt_succ hj)
      simp only [hcons, List.getElem_cons_succ]
      rw [List.getElem_append_right (by simp; omega)]
      simp only [length_leBytes, show 4 * (j + 1) + k - 4 = 4 * j + k by omega]
      exact this

/-- Where the homes hold the bytes of a packet, they hold its words. -/
theorem State.homeNat_packet {p : List Word} {a j : Nat} (hj : j < p.length)
    (h : ∀ k (hk : k < (packetBytes p).length), s.homeByte (a + k) = (packetBytes p)[k]) :
    s.homeNat (a + 4 * j) 4 = (p.getD j 0).toNat := by
  have hbytes := State.homeNat_eq (s := s) (l := leBytes 4 p[j].toNat) (a := a + 4 * j) fun k hk => by
    have hk : k < 4 := by simpa using hk
    rw [Nat.add_assoc, h _ (by rw [length_packetBytes]; omega), packetBytes_getElem p hj hk]
  rw [length_leBytes, leNat_leBytes p[j].isLt] at hbytes
  rw [hbytes, List.getD_eq_getElem _ _ hj]

/-! ## LAUNCH_BIND -/

/-- The bind record that LAUNCH_BIND writes. -/
def Launch.bound (l : Launch) (id : Nat) (packet : Nat) : Bind :=
  { pri := l.prio, st := 1, first := l.nextCluster * (pkW l.packet * pkH l.packet), origin := 0xFFFF
    packet := BitVec.ofNat 64 packet, launch := id }

/-- What LAUNCH_BIND leaves: the copy of the packet and the record. -/
def State.launchBound (s : State) (die id k : Nat) (l : Launch) : State :=
  { (s.homeWriteL (s.packetCopy die k) (packetBytes l.packet)).setBind die k
      (some (l.bound id (s.pkg.deviceId.toNat * 2 ^ 45 + s.packetCopy die k))) with
    launches := tmod s.launches id fun l => { l with nextCluster := l.nextCluster + 1 } }

theorem exec_launchBind {die id k : Nat} {l : Launch} (hdie : die < 4)
    (hread : ∀ e ∈ s.launches, e.2.ready ≠ 0 ∨ e.2.refused.isSome = true ∨ e.2.done = true)
    (hnext : s.nextLaunch die = some (id, l)) (hk : k < 256) (hfree : tget (s.die die).binds k = none)
    (hlow : ∀ j < k, (tget (s.die die).binds j).isSome = true) : exec (.launchBind die) s = .next (s.launchBound die id k l) := by
  have hqueues : ∀ qs : List Nat, qs.foldl State.readQueue s = s := fun qs =>
    List.foldlRecOn (motive := fun t : State => t = s) qs _ rfl fun t ht q _ => by rw [ht, State.readQueue_of_read hread]
  have hfind : ((List.range 256).find? fun k => (tget (s.die die).binds k).isNone) = some k := by
    rw [List.find?_range_eq_some]
    refine ⟨by simp [hfree], List.mem_range.mpr hk, fun j hj => ?_⟩
    rw [Option.isNone_eq_false_iff.mpr (hlow j hj), Bool.not_false]
  show execLaunchBind die s = _
  unfold execLaunchBind
  rw [if_neg (Nat.not_le.mpr hdie)]
  simp only [hqueues, hnext, hfind, State.homeWriteL_deviceId, State.homeWriteL_launches]
  rfl

/-- The sectors that the homes hold, with those of the copy of a packet and of a bind record. -/
def State.bindSectors (s : State) (a r : Nat) : Finset Nat :=
  (s.pkg.l2.map (·.1)).toFinset ∪ {a / 128, a / 128 + 1, r / 128, r / 128 + 1}

theorem State.bindSectors_card (h : s.spacious) (a r : Nat) : (s.bindSectors a r).card ≤ 16 := by
  have hl2 : (s.pkg.l2.map (·.1)).toFinset.card ≤ 12 := (List.toFinset_card_le _).trans (by rw [List.length_map]; exact h)
  exact (Finset.card_union_le _ _).trans (Nat.add_le_add hl2 Finset.card_le_four)

/-- R363: the homes hold the packet where the bind record says. -/
theorem State.launchBound_packet {die id k j : Nat} {l : Launch} (hdie : die < 4) (hk : k < 256)
    (hb : inHbm (s.packetCopy die k + 63) = true) (hlen : l.packet.length = 16) (hsp : s.spacious) (hsubs : s.pkg.subs = []) (hj : j < 16) :
    (s.launchBound die id k l).homeNat (s.packetCopy die k + 4 * j) 4 = (l.packet.getD j 0).toNat := by
  let a := s.packetCopy die k
  let r := localOf s.pkg.mirror + 0x2000 * die + 16 * k
  let S := s.bindSectors a r
  have ha : a = localOf s.pkg.mirror + 0x8000 + 64 * (256 * die + k) := rfl
  have hS : S.card ≤ 16 := State.bindSectors_card hsp a r
  have hin : ∀ x, x / 128 = a / 128 ∨ x / 128 = a / 128 + 1 ∨ x / 128 = r / 128 ∨ x / 128 = r / 128 + 1 → x / 128 ∈ S := fun x hx =>
    Finset.mem_union_right _ (by simpa using hx)
  have hhbm : ∀ x, x ≤ a + 63 → inHbm x = true := by
    intro x hx
    have := of_decide_eq_true hb
    exact decide_eq_true (by omega)
  have h0 : s.holdsIn S := ⟨hsubs, fun e he => Finset.mem_union_left _ (List.mem_toFinset.mpr (List.mem_map_of_mem he))⟩
  have hplen : (packetBytes l.packet).length = 64 := by rw [length_packetBytes, hlen]
  obtain ⟨h1, hcopy, -⟩ := State.homeWriteL_of_holdsIn hS h0 (packetBytes l.packet) (a := a)
    (fun k hk => hin _ (by omega)) (fun k hk => hhbm _ (by omega))
  let b := l.bound id (s.pkg.deviceId.toNat * 2 ^ 45 + a)
  let u := (s.homeWriteL a (packetBytes l.packet)).bindTo die k (some b)
  have h2 : u.holdsIn S := h1
  have hmlen : (mirrorBytes (tget (u.die die).binds k)).length = 16 := by
    cases tget (u.die die).binds k <;> simp [mirrorBytes]
  obtain ⟨-, -, hkeep⟩ := State.homeWriteL_of_holdsIn hS h2 (mirrorBytes (tget (u.die die).binds k)) (a := r)
    (fun k hk => hin _ (by omega)) (fun k hk => hhbm _ (by omega))
  have hv : ∀ x, (s.launchBound die id k l).homeByte x = (u.homeWriteL r (mirrorBytes (tget (u.die die).binds k))).homeByte x := by
    intro x
    unfold State.launchBound
    dsimp only
    rw [State.setBind_eq, State.homeWriteL_mirror]
    rfl
  refine State.homeNat_packet (by rw [hlen]; exact hj) fun k' hk' => ?_
  rw [hv, hkeep _ (by omega)]
  exact hcopy k' hk'

end Sys2Proof.Machine
end

section
/-! SUPPORT. CLUSTER_BIND for clusters of one team: the origin that it is bound to, and the team that is placed there
(01 R20, 14 R288, R290, 19 R363). -/

namespace Sys2Proof.Machine

variable {s : State} {l : Launch} {o : Nat}

/-! ## Clusters of one team -/

theorem pk_of_single {p : List Word} (h : (p.getD 12 0).extractLsb' 8 7 = 0) : pkW p = 1 ∧ pkH p = 1 := by
  have h := congrArg BitVec.toNat h
  rw [pkW_eq, pkH_eq]
  simp only [BitVec.extractLsb'_toNat, Nat.shiftRight_eq_div_pow] at h ⊢
  simp only [show (0 : BitVec 7).toNat = 0 from rfl] at h
  omega

theorem rectCores_single (die : Nat) (o : Nat) : rectCores die 1 1 (o % 12) (o / 12) = [96 * die + o] := by
  have : 96 * die + 12 * (o / 12) + o % 12 = 96 * die + o := by omega
  simp [rectCores, this]

theorem State.stillFits_single (h : (l.packet.getD 12 0).extractLsb' 8 7 = 0) (ho : o < 96) {b : Bind} (hb : b.origin = 96 * l.die + o) :
    s.stillFits l b = s.accepts (96 * l.die + o) l := by
  obtain ⟨hw, hh⟩ := pk_of_single h
  have horigin : b.origin % 96 = o := by omega
  simp [State.stillFits, hw, hh, horigin, rectCores_single]

theorem State.findOrigin_single (h : (l.packet.getD 12 0).extractLsb' 8 7 = 0) (ho : o < 96) (hacc : s.accepts (96 * l.die + o) l = true)
    (hfirst : ∀ p < o, s.accepts (96 * l.die + p) l = false) : s.findOrigin l = some o := by
  obtain ⟨hw, hh⟩ := pk_of_single h
  unfold State.findOrigin
  rw [List.find?_range_eq_some]
  simp only [hw, hh, rectCores_single, List.all_cons, List.all_nil, Bool.and_true]
  refine ⟨?_, List.mem_range.mpr ho, fun p hp => ?_⟩
  · rw [hacc, decide_eq_true (by omega), decide_eq_true (by omega)]
    rfl
  · rw [hfirst p hp, Bool.and_false, Bool.not_false]

/-! ## A core without contexts -/

/-- A core on which no context is and to which none is moving. -/
def State.vacant (s : State) (core : Nat) : Prop := s.resident core = [] ∧ ∀ e ∈ s.ctxs, e.2.moving ≠ some (core, .active)

section
variable {core : Nat} (hv : s.vacant core)
include hv

theorem State.matching_of_vacant : s.matching core l = [] := by
  rw [State.matching, hv.1, List.filter_nil]

theorem State.joinable_of_vacant : s.joinable core l = [] := by
  rw [State.joinable, State.matching_of_vacant hv, List.filter_nil, List.map_nil]

theorem State.freeBank_of_vacant : s.freeBank core = some .active := by
  have htaken : s.bankTaken core .active = false := by
    rw [State.bankTaken, List.any_eq_false]
    intro e he
    have hnot : ¬(e.2.core = core ∧ e.2.place = .active) := fun ⟨hc, hp⟩ => by
      have : e ∈ s.resident core := List.mem_filter.mpr ⟨he, by simp [hc, hp]⟩
      rw [hv.1] at this
      exact List.not_mem_nil this
    have hmove := hv.2 e he
    simp only [Bool.or_eq_true, Bool.and_eq_true, beq_iff_eq, not_or]
    exact ⟨hnot, hmove⟩
  unfold State.freeBank
  rw [htaken]
  rfl

theorem State.accepts_of_vacant (hd : core % 96 ∉ (s.die (dieOf core)).disabled) : s.accepts core l = true := by
  unfold State.accepts
  rw [State.joinable_of_vacant hv, State.matching_of_vacant hv, State.freeBank_of_vacant hv]
  simp [hd]

end

/-! ## The team that is placed -/

/-- The new context of a launch. -/
def Launch.context (l : Launch) (core : Nat) : Ctx := Ctx.fresh l.asid (pkTyped l.packet) .active core 0

/-- The team of a cluster of one team. -/
def Launch.team (l : Launch) (id cluster core : Nat) : Team :=
  { index := cluster, rank := 0, launch := id, cluster, shape := BitVec.ofNat 32 (pkShape l.packet), n := pkRegs l.packet
    scrSize := pkScratch l.packet, scratch := [], fbits := []
    threads := startThreads (pkThreads l.packet) cluster 0 core (pkCode l.packet) CtxRegs.reset
    endFlags := 0, flog := [], ovfcnt := 0, leases := [], tail := none
    queue := if pkTqv l.packet then some (pkTaskq l.packet) else none, konst := l.konst, aborted := false }

theorem State.contextFor_of_vacant {core : Nat} (hv : s.vacant core) :
    (s.contextFor core l).1 = s.fresh ∧ (s.contextFor core l).2.ctxs = tset s.ctxs s.fresh (l.context core) := by
  unfold State.contextFor
  rw [State.joinable_of_vacant hv]
  have hbank : ({ s with fresh := s.fresh + 1 } : State).freeBank core = some .active := State.freeBank_of_vacant (s := { s with fresh := s.fresh + 1 }) hv
  have hres : ({ s with fresh := s.fresh + 1 } : State).resident core = [] := hv.1
  simp only [State.freshId, hbank, hres, Option.getD_some, if_true]
  exact ⟨trivial, rfl⟩

theorem State.checkStart_of_code {c tslot : Nat} {code : Pair} (h : canonical code = true) (h4 : code.toNat % 4 = 0) :
    s.checkStart c tslot code = s := by
  unfold State.checkStart
  rw [h, h4]
  rfl

/-- R20, R288: a team placed on a core without contexts is alone in a new context. -/
theorem State.placeTeam_of_vacant {id cluster core : Nat} (hv : s.vacant core) (h : (l.packet.getD 12 0).extractLsb' 8 7 = 0)
    (hcode : canonical (pkCode l.packet) = true) (hcode4 : (pkCode l.packet).toNat % 4 = 0) :
    (∀ j, j ≠ s.fresh → (s.placeTeam id l cluster 0 core).ctx? j = s.ctx? j) ∧
    (s.placeTeam id l cluster 0 core).ctx? s.fresh = some { l.context core with teams := [(0, l.team id cluster core)] } := by
  obtain ⟨hw, hh⟩ := pk_of_single h
  obtain ⟨h1, h2⟩ := State.contextFor_of_vacant (l := l) hv
  have hctx : ∀ j, (s.contextFor core l).2.ctx? j = if j = s.fresh then some (l.context core) else s.ctx? j := fun j => by
    rw [State.ctx?, h2, tget_tset]
    rfl
  have hplace : s.placeTeam id l cluster 0 core = (s.contextFor core l).2.modCtx s.fresh fun x => { x with
      teams := tset x.teams 0 (l.team id cluster core) } := by
    unfold State.placeTeam
    simp only [h1, hctx, if_true, State.checkStart_of_code hcode hcode4, hw, hh, Nat.mul_one, Nat.add_zero]
    rfl
  rw [hplace]
  refine ⟨fun j hj => ?_, ?_⟩
  · rw [State.ctx?_modCtx, if_neg hj, hctx, if_neg hj]
  · rw [State.ctx?_modCtx_self, hctx, if_pos rfl]
    rfl

/-! ## The cluster that is placed -/

@[simp] theorem State.startLaunch_ctxs (id : Nat) : (s.startLaunch id l).ctxs = s.ctxs := by
  unfold State.startLaunch
  dsimp only
  split <;> rfl
@[simp] theorem State.startLaunch_fresh (id : Nat) : (s.startLaunch id l).fresh = s.fresh := by
  unfold State.startLaunch
  dsimp only
  split <;> rfl

theorem State.placeCluster_of_vacant {id k : Nat} {b : Bind} (h : (l.packet.getD 12 0).extractLsb' 8 7 = 0) (ho : o < 96)
    (hb : b.origin = 96 * l.die + o) (hv : s.vacant (96 * l.die + o)) (hcode : canonical (pkCode l.packet) = true)
    (hcode4 : (pkCode l.packet).toNat % 4 = 0) :
    (s.placeCluster id l k b).ctx? s.fresh =
      some { l.context (96 * l.die + o) with teams := [(0, l.team id b.first (96 * l.die + o))] } ∧
    (∀ j, j ≠ s.fresh → (s.placeCluster id l k b).ctx? j = s.ctx? j) ∧
    tget ((s.placeCluster id l k b).die l.die).binds k = some { b with st := 3, origin := 96 * l.die + o } := by
  obtain ⟨hw, hh⟩ := pk_of_single h
  have horigin : b.origin % 96 = o := by omega
  have hv' : (s.startLaunch id l).vacant (96 * l.die + o) := by
    unfold State.vacant State.resident
    rw [State.startLaunch_ctxs]
    exact hv
  obtain ⟨hother, hself⟩ := State.placeTeam_of_vacant (id := id) (cluster := b.first) hv' h hcode hcode4
  rw [State.startLaunch_fresh] at hother hself
  have hplace : s.placeCluster id l k b =
      ((((s.startLaunch id l).placeTeam id l b.first 0 (96 * l.die + o)).acquireAt [96 * l.die + o] 5).setBind l.die k
        (some { b with st := 3 })) := by
    unfold State.placeCluster
    simp only [hw, hh, horigin, rectCores_single, Nat.mul_one, Nat.div_one]
    rfl
  have hctx : ∀ j, (s.placeCluster id l k b).ctx? j = ((s.startLaunch id l).placeTeam id l b.first 0 (96 * l.die + o)).ctx? j := fun j => by
    rw [hplace, State.setBind_ctx?, State.ctx?, (State.steady_acquireAt (State.steady_refl _)).2.1]
    rfl
  refine ⟨by rw [hctx, hself], fun j hj => ?_, ?_⟩
  · rw [hctx, hother j hj, State.ctx?, State.startLaunch_ctxs]
    rfl
  · rw [hplace, State.tget_setBind, if_pos rfl, ← hb]

/-! ## Threads at their start (R20) -/

theorem tget_range_map {α : Type} (f : Nat → α) {n k : Nat} (hk : k < n) : tget ((List.range n).map fun j => (j, f j)) k = some (f k) := by
  have key : ∀ l : List Nat, k ∈ l → tget (l.map fun j => (j, f j)) k = some (f k) := by
    intro l
    induction l with
    | nil => exact fun h => absurd h List.not_mem_nil
    | cons j l ih =>
      intro h
      by_cases hj : k = j
      · simp [tget, hj]
      · simp only [List.map_cons, tget, if_neg hj]
        exact ih ((List.mem_cons.mp h).resolve_left hj)
  exact key _ (List.mem_range.mpr hk)

theorem pkThreads_eq (p : List Word) : pkThreads p = (((p.getD 11 0).extractLsb' 0 10).toNat + 1) *
    (((p.getD 11 0).extractLsb' 10 10).toNat + 1) * (((p.getD 11 0).extractLsb' 20 10).toNat + 1) := by
  unfold pkThreads shapeThreads pkShape pkWord
  rw [field_eq _ 9 0, field_eq _ 19 10, field_eq _ 29 20]

theorem Thread.start_get (tid index core : Nat) (code : Pair) (view : CtxRegs) {r : Nat} (hr : r < 128) :
    (Thread.start tid index 0 core code view).get r = if r = 1 then BitVec.ofNat 32 tid else if r = 2 then BitVec.ofNat 32 index
      else if r = 3 then BitVec.ofNat 32 core else 0 := by
  unfold Thread.get Thread.start
  by_cases h0 : r = 0
  · simp [h0]
  · by_cases h3 : r = 3
    · simp [h3]
    · by_cases h2 : r = 2
      · simp [h2]
      · by_cases h1 : r = 1
        · simp [h1]
        · simp [h0, h1, h2, h3, hr, Ne.symm h1, Ne.symm h2, Ne.symm h3]

theorem Thread.start_count (tid index core : Nat) (code : Pair) (view : CtxRegs) {j : Nat} (hj : j < 8) :
    (Thread.start tid index 0 core code view).count j = 0 := by
  simp [Thread.count, Thread.start, hj]

/-! ## CLUSTER_BIND -/

section
variable {id k : Nat} {b : Bind} (hl : tget s.launches id = some l)
include hl

/-- A cluster that is bound is placed, or is pending again where it no longer fits. -/
theorem exec_clusterBind_bound (hfind : (s.die l.die).binds.find? (fun b => b.2.launch == id && b.2.st == 2) = some (k, b)) :
    exec (.clusterBind id) s = .next (if s.stillFits l b then s.placeCluster id l k b
      else s.setBind l.die k (some { b with st := 1, origin := 0xFFFF })) := by
  show execClusterBind id s = _
  unfold execClusterBind
  rw [hl]
  dsimp only
  rw [hfind]

/-- A pending cluster is bound to the first origin that fits. -/
theorem exec_clusterBind_pending (hnone : (s.die l.die).binds.find? (fun b => b.2.launch == id && b.2.st == 2) = none)
    (hfind : (s.die l.die).binds.find? (fun b => b.2.launch == id && b.2.st == 1) = some (k, b)) (ho : s.findOrigin l = some o) :
    exec (.clusterBind id) s = .next (s.setBind l.die k (some { b with st := 2, origin := 96 * l.die + o })) := by
  show execClusterBind id s = _
  unfold execClusterBind
  rw [hl]
  dsimp only
  rw [hnone]
  dsimp only
  rw [hfind]
  dsimp only
  rw [ho]

end

end Sys2Proof.Machine
end

section
/-! SUPPORT. TEAM_END of a team for which nothing is under way: what its checks leave, and what its removal leaves of its context and of
its launch (01 R24, 19 R370). -/

namespace Sys2Proof.Machine

variable {s : State}

/-! ## Lanterns and subscriptions of a team without any -/

theorem State.modDie_of_eq {d : Nat} {f : Die → Die} (h : f (s.die d) = s.die d) : s.modDie d f = s := by
  unfold State.modDie
  rw [h, State.die, Vector.set_getElem_self]

/-- A die without lanterns and without waiting leases. -/
def State.unlit (s : State) (die : Nat) : Prop := (s.die die).lanterns = [] ∧ (s.die die).leaseQ = []

section
variable {die : Nat} (h : s.unlit die)
include h

theorem State.lantern_of_unlit (id : Nat) : s.lantern die id = Lantern.reset := by
  rw [State.lantern, h.1]
  rfl

theorem State.lanternsOf_of_unlit (ctx tslot : Nat) : s.lanternsOf die ctx tslot = [] := by
  rw [State.lanternsOf, List.filter_eq_nil_iff]
  intro id _
  rw [State.lantern_of_unlit h]
  exact Bool.false_ne_true

theorem State.holders_of_unlit : s.holders die = [] := by
  rw [State.holders, List.filter_eq_nil_iff]
  intro id _
  rw [State.lantern_of_unlit h]
  exact Bool.false_ne_true

theorem State.dropLeases_of_unlit (sel : LeaseReq → Bool) : s.dropLeases die sel = s := by
  unfold State.dropLeases
  simp only [h.2, List.filter_nil, List.foldl_nil]
  refine State.modDie_of_eq ?_
  rw [h.2]
  exact congrArg (fun q => { s.die die with leaseQ := q }) h.2.symm

theorem State.darken_of_unlit : s.darken die = s := by
  unfold State.darken
  refine List.foldlRecOn (motive := fun t : State => t = s) _ _ rfl fun t ht id _ => ?_
  rw [ht, State.lantern_of_unlit h]
  rfl

theorem State.lanternEval_of_unlit : s.lanternEval die = s := by
  have hgrants : s.lanternGrants die = s := by
    unfold State.lanternGrants
    rw [State.darken_of_unlit h, State.grantAll, h.2]
    rfl
  unfold State.lanternEval
  rw [hgrants]
  exact if_pos ⟨by rw [h.2]; rfl, by rw [State.holders_of_unlit h]; exact Nat.zero_le _⟩

end

theorem State.endLeases_of_unlit (h : ∀ d, s.unlit d) (ctx tslot : Nat) : s.endLeases ctx tslot = (s, false) := by
  unfold State.endLeases
  simp only [State.dropLeases_of_unlit (h _), State.lanternsOf_of_unlit (h _), List.foldl_nil, State.lanternEval_of_unlit (h _)]
  rfl

theorem State.endSubs_of_noWork (h : s.noWork) (ctx tslot : Nat) : s.endSubs ctx tslot = (s, false) := by
  obtain ⟨hops, -, -, -, -, hsubs⟩ := h
  unfold State.endSubs State.standing
  rw [hops, hsubs]
  rfl

/-! ## What is under way of a team -/

theorem State.teamBusy_of_noWork (h : s.noWork) {ctx tslot : Nat} (hq : ∀ r ∈ s.qreqs, r.got = none)
    (hl : ∀ l ∈ s.landings, l.2.key.ctx = ctx → l.2.key.tslot = tslot → l.2.kind = some 7) : s.teamBusy ctx tslot = false := by
  obtain ⟨hops, hloads, hatoms, hwaits, hremotes, -⟩ := h
  have hreqs : (s.qreqs.any fun r => (r.key.ctx == ctx && r.key.tslot == tslot) && r.got.isSome) = false := by
    rw [List.any_eq_false]
    intro r hr
    simp [hq r hr]
  have hland : (s.landings.any fun l => (l.2.key.ctx == ctx && l.2.key.tslot == tslot) && l.2.kind != some 7) = false := by
    rw [List.any_eq_false]
    intro l hm
    simp only [Bool.and_eq_true, beq_iff_eq, bne_iff_ne, not_and, not_not]
    exact fun hk => hl l hm hk.1 hk.2
  unfold State.teamBusy
  simp only [hops, hloads, hatoms, hwaits, hremotes, hreqs, hland, List.any_nil, Bool.or_false]

theorem State.releaseAt_of_noLines (h : s.noLines) (cores : List Nat) (scope : Nat) : s.releaseAt cores scope = s := by
  unfold State.releaseAt State.cleanL1s
  split
  · rfl
  · refine List.foldlRecOn (motive := fun t : State => t = s) _ _ rfl fun t ht g _ => ?_
    rw [ht, h g]
    rfl

theorem State.unacked_of_noWork (h : s.noWork) (cores : List Nat) : s.unacked cores = false := by
  rw [State.unacked, h.2.2.2.2.1, List.any_nil]

/-- TEAM_END of a team for which nothing is under way removes it. -/
theorem exec_teamEnd {ctx tslot : Nat} {c : Ctx} {t : Team} (hc : s.ctx? ctx = some c) (ht : tget c.teams tslot = some t)
    (hend : ∀ e ∈ t.threads, e.2.run = .ended) (hw : s.noWork) (hlines : s.noLines) (hq : ∀ r ∈ s.qreqs, r.got = none)
    (hland : ∀ l ∈ s.landings, l.2.key.ctx = ctx → l.2.key.tslot = tslot → l.2.kind = some 7) (hlan : ∀ d, s.unlit d)
    (htail : t.tail = none) : exec (.teamEnd ctx tslot) s = .next ((s.dropResults ctx tslot).removeTeam ctx tslot t) := by
  have hteam : s.team? ctx tslot = some t := by rw [State.team?, hc]; exact ht
  have hlive : (t.threads.any fun e => e.2.run != .ended) = false := by
    rw [List.any_eq_false]
    intro e he
    simp [hend e he]
  have hteam' : (s.dropResults ctx tslot).team? ctx tslot = some t := hteam
  have hc' : (s.dropResults ctx tslot).ctx? ctx = some c := hc
  show execTeamEnd ctx tslot s = _
  unfold execTeamEnd
  simp only [hteam, hlive, State.endLeases_of_unlit hlan, State.endSubs_of_noWork hw, State.teamBusy_of_noWork hw hq hland,
    State.releaseAt_of_noLines hlines, State.unacked_of_noWork hw, hteam', hc', htail, Bool.false_eq_true, Bool.or_false, if_false]

/-! ## The context that a team leaves -/

theorem tmod_keys {α : Type} (t : Tab α) (k : Nat) (f : α → α) : (tmod t k f).map (·.1) = t.map (·.1) := by
  induction t with
  | nil => rfl
  | cons e r ih =>
    obtain ⟨j, v⟩ := e
    unfold tmod
    split_ifs
    · rfl
    · exact congrArg (j :: ·) ih

theorem tget_of_notMem {α : Type} {t : Tab α} {k : Nat} (h : k ∉ t.map (·.1)) : tget t k = none := by
  cases hk : tget t k with
  | none => rfl
  | some v => exact absurd (List.mem_map.mpr ⟨_, mem_of_tget hk, rfl⟩) h

/-- A key that stands once in a table is gone once it is removed. -/
theorem tget_tdel_self {α : Type} {t : Tab α} {k : Nat} (h : (t.map (·.1)).Nodup) : tget (tdel t k) k = none := by
  induction t with
  | nil => rfl
  | cons e r ih =>
    obtain ⟨j, v⟩ := e
    obtain ⟨hj, hr⟩ := List.nodup_cons.mp h
    unfold tdel
    split_ifs with hk
    · subst hk
      exact tget_of_notMem hj
    · rw [tget, if_neg hk]
      exact ih hr

/-- Two states of the same contexts, of which every one but `ctx` is the same in both. -/
def State.sameBut (s t : State) (ctx : Nat) : Prop :=
  t.ctxs.map (·.1) = s.ctxs.map (·.1) ∧ (∀ j, j ≠ ctx → t.ctx? j = s.ctx? j) ∧ t.launches = s.launches

theorem State.sameBut_modCtx (s : State) (ctx : Nat) (f : Ctx → Ctx) : s.sameBut (s.modCtx ctx f) ctx :=
  ⟨tmod_keys s.ctxs ctx f, fun j hj => by rw [State.ctx?_modCtx, if_neg hj], rfl⟩

theorem State.sameBut_trans {t u : State} {ctx : Nat} (h : s.sameBut t ctx) (h' : t.sameBut u ctx) : s.sameBut u ctx :=
  ⟨h'.1.trans h.1, fun j hj => (h'.2.1 j hj).trans (h.2.1 j hj), h'.2.2.trans h.2.2⟩

theorem State.sameBut_leaveTyped (s : State) (core ctx : Nat) : s.sameBut (s.leaveTyped core ctx) ctx := by
  unfold State.leaveTyped
  refine List.foldlRecOn (motive := fun t : State => s.sameBut t ctx) _ _ ⟨rfl, fun _ _ => rfl, rfl⟩ fun t ht b _ => ?_
  dsimp only
  split
  · exact ht
  · exact State.sameBut_trans ht (State.sameBut_modCtx t ctx _)

/-- A context without teams is gone, and no other changes. -/
theorem State.dropContext_eq {ctx : Nat} {c : Ctx} (hc : s.ctx? ctx = some c) (hd : (s.ctxs.map (·.1)).Nodup) :
    (s.dropContext ctx).ctx? ctx = (if c.teams = [] then none else some c) ∧
    (∀ j, j ≠ ctx → (s.dropContext ctx).ctx? j = s.ctx? j) ∧ (s.dropContext ctx).launches = s.launches := by
  unfold State.dropContext
  rw [hc]
  dsimp only
  by_cases he : c.teams = []
  · obtain ⟨hkeys, hother, hl⟩ := State.sameBut_leaveTyped s c.core ctx
    simp only [he, List.isEmpty_nil, Bool.not_true, Bool.false_eq_true, if_false, if_true]
    refine ⟨?_, fun j hj => ?_, hl⟩
    · rw [State.ctx?]
      exact tget_tdel_self (hkeys ▸ hd)
    · rw [← hother j hj]
      exact tget_tdel_ne _ hj
  · simp [he, hc]

/-! ## The launch that a team leaves -/

@[simp] theorem State.endBind_ctxs (l : Launch) (launch cluster : Nat) : (s.endBind l launch cluster).ctxs = s.ctxs := by
  unfold State.endBind
  dsimp only
  split
  · rfl
  · exact State.setBind_ctxs ..
@[simp] theorem State.endBind_launches (l : Launch) (launch cluster : Nat) : (s.endBind l launch cluster).launches = s.launches := by
  unfold State.endBind
  dsimp only
  split
  · rfl
  · exact State.setBind_launches ..

/-- A launch without a completion record is done. -/
theorem State.writeRecord_of_none {id : Nat} {l : Launch} (hl : tget s.launches id = some l) (h : pkCompl l.packet = 0) :
    s.writeRecord id = { s with launches := tset s.launches id { l with done := true, writing := false } } := by
  unfold State.writeRecord
  rw [hl]
  simp only [h, if_true]
  rfl

/-- A launch after one of its teams has left it. -/
def Launch.left (l : Launch) : Launch := { l with teamsLeft := l.teamsLeft - 1, done := l.done || decide (l.teamsLeft = 1) }

/-- What the removal of a team leaves: its context without it, or none, and its launch with one team less. -/
theorem State.removeTeam_eq {ctx tslot : Nat} {c : Ctx} {t : Team} {l : Launch} (hc : s.ctx? ctx = some c) (hd : (s.ctxs.map (·.1)).Nodup)
    (hl : tget s.launches t.launch = some l) (h : pkCompl l.packet = 0) (hw : l.writing = false) :
    (s.removeTeam ctx tslot t).ctx? ctx = (if tdel c.teams tslot = [] then none else some { c with
      teams := tdel c.teams tslot, futures := tmap c.futures fun _ f => if f.tslot = tslot then { f with st := .free } else f }) ∧
    (∀ j, j ≠ ctx → (s.removeTeam ctx tslot t).ctx? j = s.ctx? j) ∧
    tget (s.removeTeam ctx tslot t).launches t.launch = some l.left ∧
    ∀ j, j ≠ t.launch → tget (s.removeTeam ctx tslot t).launches j = tget s.launches j := by
  let s1 := s.modCtx ctx fun c => { c with
    teams := tdel c.teams tslot
    futures := tmap c.futures fun _ f => if f.tslot = tslot then { f with st := .free } else f }
  obtain ⟨hkeys, hother, -⟩ := State.sameBut_modCtx s ctx fun c => { c with
    teams := tdel c.teams tslot
    futures := tmap c.futures fun _ f => if f.tslot = tslot then { f with st := .free } else f }
  have hc1 : s1.ctx? ctx = some { c with teams := tdel c.teams tslot, futures := tmap c.futures fun _ f => if f.tslot = tslot then { f with st := .free } else f } := by
    rw [State.ctx?_modCtx_self, hc, Option.map_some]
  obtain ⟨h1, h2, h3⟩ := State.dropContext_eq hc1 (hkeys ▸ hd)
  have hl1 : tget (s1.dropContext ctx).launches t.launch = some l := by rw [h3]; exact hl
  let u : State := { (s1.dropContext ctx).endBind l t.launch t.cluster with
    launches := tset (s1.dropContext ctx).launches t.launch { l with teamsLeft := l.teamsLeft - 1 } }
  have hv : (s.removeTeam ctx tslot t) = if l.teamsLeft = 1 ∧ !l.done then u.writeRecord t.launch else u := by
    unfold State.removeTeam
    simp only [s1] at hl1
    simp only [hl1, State.endBind_launches]
    rfl
  have hfinal : (s.removeTeam ctx tslot t).ctxs = (s1.dropContext ctx).ctxs ∧
      ∀ j, tget (s.removeTeam ctx tslot t).launches j = if j = t.launch then some l.left else tget s.launches j := by
    have hlaunch : ∀ j, tget (s1.dropContext ctx).launches j = tget s.launches j := fun j => by rw [h3]; rfl
    have hu : tget u.launches t.launch = some { l with teamsLeft := l.teamsLeft - 1 } := tget_tset_self _ _ _
    rw [hv]
    split_ifs with hdone
    · rw [State.writeRecord_of_none hu h]
      refine ⟨State.endBind_ctxs .., fun j => ?_⟩
      simp only [u, tget_tset, hlaunch]
      split_ifs
      · simp [Launch.left, hdone.1]
        exact hw
      · rfl
    · refine ⟨State.endBind_ctxs .., fun j => ?_⟩
      simp only [u, tget_tset, hlaunch]
      split_ifs
      · cases hld : l.done <;> simp [Launch.left, hld] at hdone ⊢
        exact hdone
      · rfl
  have hctx : ∀ j, (s.removeTeam ctx tslot t).ctx? j = (s1.dropContext ctx).ctx? j := fun j => by
    rw [State.ctx?, hfinal.1]
    rfl
  refine ⟨by rw [hctx, h1], fun j hj => ?_, by rw [hfinal.2, if_pos rfl], fun j hj => by rw [hfinal.2, if_neg hj]⟩
  rw [hctx, h2 j hj]
  exact hother j hj

end Sys2Proof.Machine
end

section
/-! SUPPORT. Launches bind, clusters are placed, and teams end: the three parts of O47, from the equations of LAUNCH_BIND, CLUSTER_BIND
and TEAM_END. -/

namespace Sys2Proof.Machine

/-- A bind record of a die after LAUNCH_BIND. -/
theorem State.tget_launchBound (s : State) (die id k : Nat) (l : Launch) (j : Nat) :
    tget ((s.launchBound die id k l).die die).binds j =
      if j = k then some (l.bound id (s.pkg.deviceId.toNat * 2 ^ 45 + s.packetCopy die k)) else tget (s.die die).binds j := by
  have h := State.tget_setBind (s.homeWriteL (s.packetCopy die k) (packetBytes l.packet)) die k
    (l.bound id (s.pkg.deviceId.toNat * 2 ^ 45 + s.packetCopy die k)) j
  rwa [State.homeWriteL_die] at h

/-- The launch and the context that a bound cluster of one team gets. -/
theorem Launch.team_starts (l : Launch) (id cluster core : Nat) {tid : Nat} (h : tid < pkThreads l.packet) :
    ∃ th, tget (l.team id cluster core).threads tid = some th ∧ th.pc = ⟨(pkCode l.packet).setWidth 56, 0⟩ ∧ th.run = .runnable ∧
      th.priv = false ∧ th.pend = [] ∧ th.flags = 0 ∧ th.view = CtxRegs.reset ∧ th.bars = Vector.replicate 16 .none ∧
      (∀ j < 8, th.count j = 0) ∧ ∀ r < 128, th.get r = if r = 1 then BitVec.ofNat 32 tid else if r = 2 then BitVec.ofNat 32 cluster
        else if r = 3 then BitVec.ofNat 32 core else 0 :=
  ⟨_, tget_range_map _ h, rfl, rfl, rfl, rfl, rfl, rfl, rfl, fun _ => Thread.start_count _ _ _ _ _,
    fun _ => Thread.start_get _ _ _ _ _⟩

/-- Settles O47: LAUNCH_BIND by `exec_launchBind`, CLUSTER_BIND by `exec_clusterBind_pending` and `exec_clusterBind_bound`, TEAM_END by
`exec_teamEnd`. -/
theorem launchesRun : Obligations.LaunchesRun := by
  unfold Obligations.LaunchesRun
  refine ⟨fun s die id k l hdie hread _ hl hbest hk hfree hlow => ?_, fun s id k o l b hl _ hp ho =>
    ⟨fun hnone hfind hacc hfirst => ?_, fun hfind hb hacc => ?_, fun hfind hb hd hres hmove => ?_⟩,
    fun s ctx tslot c t l hd hc ht hend hw hlines hq hland hlan htail hl h4 h5 _ hwr => ?_⟩
  · obtain ⟨hmay, hbest⟩ := hbest
    have hexec := exec_launchBind hdie hread (State.nextLaunch_eq hl hmay fun e he hm =>
        (hbest e he hm).imp_right (Or.imp_right fun h => ⟨h.1.symm, h.2⟩)) hk hfree hlow
    refine ⟨_, _, hexec, (State.tget_launchBound ..).trans (if_pos rfl), rfl, rfl, rfl, ?_, rfl, rfl,
      fun hb hlen hsp hsubs j hj => State.launchBound_packet hdie hk hb hlen hsp hsubs hj,
      fun j hj => (State.tget_launchBound ..).trans (if_neg hj), rfl, ?_, ?_⟩
    · rw [← pkW_eq, ← pkH_eq, Nat.mul_assoc]
      rfl
    · exact (State.setBind_ctxs ..).trans (State.homeWriteL_ctxs ..)
    · exact (State.setBind_cores ..).trans (State.homeWriteL_cores ..)
  · refine ⟨_, exec_clusterBind_pending hl hnone hfind (State.findOrigin_single hp ho hacc hfirst), ?_, fun j hj => ?_,
      State.setBind_ctxs .., State.setBind_cores ..⟩
    · rw [State.tget_setBind, if_pos rfl]
    · rw [State.tget_setBind, if_neg hj]
  · have hexec := exec_clusterBind_bound hl hfind
    rw [State.stillFits_single hp ho hb, hacc, if_neg Bool.false_ne_true] at hexec
    refine ⟨_, hexec, ?_, State.setBind_ctxs ..⟩
    rw [State.tget_setBind, if_pos rfl]
  · intro code w n₀ n hcode hcode4 _
    have hv : s.vacant (96 * l.die + o) := ⟨hres, hmove⟩
    have hdis : (96 * l.die + o) % 96 ∉ (s.die (dieOf (96 * l.die + o))).disabled := by
      unfold dieOf
      rwa [show (96 * l.die + o) % 96 = o by omega, show (96 * l.die + o) / 96 = l.die by omega]
    have hexec := exec_clusterBind_bound hl hfind
    rw [State.stillFits_single hp ho hb, State.accepts_of_vacant hv hdis, if_pos rfl] at hexec
    obtain ⟨hctx, hother, hbind⟩ := State.placeCluster_of_vacant (id := id) (k := k) hp ho hb hv hcode hcode4
    have hn : pkThreads l.packet = n := pkThreads_eq l.packet
    refine ⟨_, _, l.team id b.first (96 * l.die + o), hexec, hctx, rfl, rfl, rfl, rfl, rfl, rfl, rfl, rfl, rfl, rfl, rfl, ?_, rfl, rfl, rfl, rfl,
      ?_, fun tid htid => ?_, hbind, hother⟩
    · rfl
    · rw [← hn]
      simp [Launch.team, startThreads]
    · exact l.team_starts id b.first (96 * l.die + o) (hn ▸ htid)
  · have hcompl : pkCompl l.packet = 0 := by
      unfold pkCompl pkPair
      rw [h4, h5]
      rfl
    obtain ⟨h1, h2, h3, h6⟩ := State.removeTeam_eq (s := s.dropResults ctx tslot) (tslot := tslot) hc hd.1 hl hcompl hwr
    exact ⟨_, _, exec_teamEnd hc ht hend hw hlines hq hland hlan htail, h1, h3, rfl, fun j hj => congrArg _ (h2 j hj), h6⟩

end Sys2Proof.Machine
end

section
/-! SUPPORT. Words that leave every member as it is but for where it stands: the end of an issue of which every member goes on
(`State.leads`; 01 R16, 06 R129, R142), and the words TRAP, BKPT and NOP. -/

namespace Sys2Proof.Machine

variable {s u : State}

/-! ## Every member goes on -/

/-- Changing several threads, each once. -/
theorem State.thread?_foldl_modThread (u : State) (f : Thread → Thread) {ms : List (Nat × Nat)} (hn : ms.Nodup) (s : State) (k : Key) :
    (ms.foldl (fun v m => v.modThread (u.key m) f) s).thread? k =
      (s.thread? k).map fun th => if ∃ m ∈ ms, k = u.key m then f th else th := by
  induction ms generalizing s with
  | nil => simp
  | cons m r ih =>
    obtain ⟨hm, hr⟩ := List.nodup_cons.mp hn
    rw [List.foldl_cons, ih hr, State.thread?_modThread]
    simp only [List.exists_mem_cons_iff]
    by_cases hk : k = u.key m
    · subst hk
      have hrest : ¬∃ n ∈ r, u.key m = u.key n := fun ⟨n, hn, h⟩ => hm (State.key_inj h ▸ hn)
      simp only [if_true, hrest, if_false, true_or, Option.map_map, Function.comp_def]
    · simp only [hk, if_false, false_or]

@[simp] theorem Thread.advanced_run (st : Site) (i : Instr) (th : Thread) : (th.advanced st i).run = th.run := by
  unfold Thread.advanced
  cases st.rep with
  | none => rfl
  | some r => dsimp only; split <;> rfl

/-- A member that goes on comes to stand past the word, or at the REP word of its clause. -/
theorem Thread.advanced_pc (st : Site) (i : Instr) (th : Thread) :
    (th.advanced st i).pc = st.past i ∨ st.rep.isSome = true ∧ (th.advanced st i).pc = ⟨st.h, 1⟩ := by
  unfold Thread.advanced
  cases st.rep with
  | none => exact .inl rfl
  | some r =>
    dsimp only
    split
    · exact .inr ⟨rfl, rfl⟩
    · exact .inl rfl

/-- Members that go on are settled by advancing each. -/
theorem State.settleAll_next (i : Instr) (ms : List (Nat × Nat)) (s : State) (hs : s.site = u.site)
    (h : ∀ m ∈ ms, s.alive (u.key m) = true) :
    (ms.map (·, Out.next)).foldl (fun v o => v.settle i o.1 o.2) s =
      ms.foldl (fun v m => v.modThread (u.key m) (Thread.advanced u.site i)) s := by
  induction ms generalizing s with
  | nil => rfl
  | cons m r ih =>
    have hkey : s.key m = u.key m := by unfold State.key; rw [hs]
    rw [List.map_cons, List.foldl_cons, List.foldl_cons, State.settle_next s i m (hkey ▸ h m (by simp)), hs, hkey]
    refine ih _ hs fun n hn => ?_
    have halive := h n (by simp [hn])
    unfold State.alive at halive ⊢
    rw [State.thread?_modThread]
    split_ifs
    · obtain ⟨th, hth, hrun⟩ := exists_of_any halive
      rw [hth, Option.map_some, Option.any_some, Thread.advanced_run]
      exact hrun
    · exact halive

/-- Where a member stands after the end of an issue of which every member goes on, in a group that is in line. -/
theorem State.retire_nexts_inLine {i : Instr} {m : Nat × Nat} {th : Thread} (hs : u.sited = true) (hn : u.site.members.Nodup)
    (ha : ∀ m ∈ u.site.members, u.alive (u.key m) = true) (hm : m ∈ u.site.members) (hk : u.thread? (u.key m) = some th)
    (hin : u.inLine i) :
    ∃ x, (u.retire i (u.site.members.map (·, .next))).thread? (u.key m) = some x ∧ x.pc = (th.advanced u.site i).pc ∧
      x.repidx = (th.advanced u.site i).repidx ∧ ((u.site.past i).wi ≠ 0 → x = th.advanced u.site i) := by
  obtain ⟨g, hg, hctx, hh, hrep⟩ := State.sited_group hs
  obtain ⟨g', hg', hothers⟩ := hin
  obtain rfl : g = g' := Option.some.inj (hg.symm.trans hg')
  have hflag : ∀ p : Out → Bool, p .next = false → ((u.site.members.map (·, Out.next)).any fun o => p o.2) = false := by
    intro p hp
    simp [hp]
  unfold State.retire
  simp only [State.settleAll_next i u.site.members u rfl ha, hflag _ (show Out.next.breaks = false from rfl),
    hflag _ (show Out.next.returns = false from rfl)]
  let d : Group → Group := (Group.drop · fun n => (u.site.members.map (·, Out.next)).any fun o => o.1 == n && o.2.leaves)
  let v : State := u.site.members.foldl (fun v m => v.modThread (u.key m) (Thread.advanced u.site i)) u
  let w : State := v.modCore u.site.core fun c => { c with groups := tmod c.groups u.site.slot d }
  have hcore : v.core u.site.core = u.core u.site.core := by
    unfold State.core
    rw [(State.foldl_modThread_site u u.site.members u.key fun _ => Thread.advanced u.site i).2]
  have hgw : tget (w.core u.site.core).groups u.site.slot = some (d g) := by simp [w, State.core_modCore, hcore, hg]
  have hw : ∀ k, w.thread? k = (u.thread? k).map fun th =>
      if ∃ m ∈ u.site.members, k = u.key m then th.advanced u.site i else th := State.thread?_foldl_modThread u _ hn u
  have hkm : w.thread? (u.key m) = some (th.advanced u.site i) := by
    rw [hw, hk, Option.map_some, if_pos ⟨m, hm, rfl⟩]
  have hpast : (u.site.past i).wi = 0 ∨ (u.site.past i).h = (d g).h := by
    unfold Site.past
    split
    · exact .inl rfl
    · exact .inr hh.symm
  -- A member of the group stands past the word, or at the REP word.
  have hstand : ∀ n ∈ (d g).members, ∀ y, w.thread? ⟨g.ctx, n.1, n.2⟩ = some y →
      y.pc = u.site.past i ∨ (d g).rep.isSome = true ∧ y.pc = ⟨(d g).h, 1⟩ := by
    intro n hnd y hy
    have hkey : (⟨g.ctx, n.1, n.2⟩ : Key) = u.key n := by rw [hctx]; rfl
    rw [hkey, hw, Option.map_eq_some_iff] at hy
    obtain ⟨z, hz, rfl⟩ := hy
    split_ifs with hex
    · have := z.advanced_pc u.site i
      rwa [← hh, ← hrep] at this
    · exact .inl (hothers n ((Group.drop_members g _).2 n hnd) (fun h => hex ⟨n, h, rfl⟩) z hz)
  refine State.regroup_inLine hgw hpast ?_ hkm
  by_cases hback : ∃ n ∈ (d g).members, ∃ y, w.thread? ⟨g.ctx, n.1, n.2⟩ = some y ∧ y.pc ≠ u.site.past i
  · obtain ⟨n, hnd, y, hy, hne⟩ := hback
    obtain ⟨hr, hpc⟩ := (hstand n hnd y hy).resolve_left hne
    exact .inl ⟨hr, n, hnd, y, hy, hpc⟩
  · exact .inr fun n hnd y hy => by_contra fun hne => hback ⟨n, hnd, y, hy, hne⟩

/-- What the end of an issue leaves of which every member goes on. -/
theorem State.retire_nexts_leads {i : Instr} (hs : u.sited = true) (hn : u.site.members.Nodup)
    (ha : ∀ m ∈ u.site.members, u.alive (u.key m) = true) (hlen : 0 < (encode i).length) :
    u.leads i (u.retire i (u.site.members.map (·, .next))) := by
  obtain ⟨hg, hall⟩ := State.groupHere_of_sited hs
  refine ⟨State.alike_retire u hg i _ fun o ho => ?_, fun hin m hm th hth => ?_⟩
  · obtain ⟨m, hm, rfl⟩ := List.mem_map.mp ho
    exact ⟨rfl, hall m hm⟩
  · obtain ⟨x, hx, hpc, hrep, hsame⟩ := State.retire_nexts_inLine hs hn ha hm hth hin
    exact ⟨x, hx, Thread.advanced_leads u.site i th x hpc hrep hsame hlen⟩

/-! ## Words without an effect -/

theorem State.modThread_of_eq (s : State) (k : Key) {f : Thread → Thread} (h : ∀ th, f th = th) : s.modThread k f = s := by
  unfold State.modThread State.modTeam State.modCtx
  have hteam : ∀ t : Team, { t with threads := tmod t.threads k.tid f } = t := fun t => by rw [tmod_id fun v _ => h v]
  have hctx : ∀ c : Ctx, { c with teams := tmod c.teams k.tslot fun t => { t with threads := tmod t.threads k.tid f } } = c :=
    fun c => by rw [tmod_id fun v _ => hteam v]
  rw [tmod_id fun v _ => hctx v]

theorem Thread.apply_none (th : Thread) (st : Site) : th.apply st Eff.none = th := Thread.flags_or_zero th

/-- A word that has no effect on any of its members ends its issue, and nothing else. -/
theorem State.issueLocal_none {i : Instr} {f : Thread → Eff} (h : s.ready i = true)
    (hf : ∀ m ∈ s.site.members, ∀ t th, s.member? m = some (t, th) → f th = Eff.none) :
    s.issueLocal i f = s.retire i (s.site.members.map (·, .next)) := by
  obtain ⟨-, -, hst, hex⟩ := State.ready_elim h
  have heff : (s.site.members.filterMap fun m => (s.member? m).map fun x => (m, effOf i s.site f x.1 x.2)) =
      s.site.members.map (·, Eff.none) := by
    rw [← List.filterMap_eq_map]
    refine List.filterMap_congr fun m hm => ?_
    obtain ⟨t, th, hth, -, hw⟩ := hex m hm
    simp only [hth, Option.map_some, effOf, hw, hf m hm t th hth, Function.comp_apply]
  have hid : ∀ ms : List (Nat × Nat),
      ms.foldl (fun v m => v.modThread ⟨s.site.ctx, m.1, m.2⟩ (·.apply s.site Eff.none)) s = s := by
    intro ms
    simp only [State.modThread_of_eq _ _ fun th => Thread.apply_none th s.site]
    exact List.foldl_fixed ms
  unfold State.issueLocal
  simp only [hst, Bool.false_eq_true, if_false, heff, List.foldl_map, hid, List.map_map, Function.comp_def]
  have hsum : (s.site.members.map fun _ => Eff.none.sat).sum = 0 := by simp [Eff.none]
  rw [hsum]
  exact congrArg (State.retire · i _) (State.clamped_zero s)

/-- A word that has no effect on any of its members goes on. -/
theorem State.issueLocal_none_leads {i : Instr} {f : Thread → Eff} (h : s.ready i = true)
    (hf : ∀ m ∈ s.site.members, ∀ t th, s.member? m = some (t, th) → f th = Eff.none) (hlen : 0 < (encode i).length) :
    s.leads i (s.issueLocal i f) := by
  obtain ⟨hs, hn, -, hex⟩ := State.ready_elim h
  rw [State.issueLocal_none h hf]
  refine State.retire_nexts_leads hs hn (fun m hm => ?_) hlen
  obtain ⟨t, th, hth, hrun, -⟩ := hex m hm
  simp [State.alive, State.key, (State.member?_eq s m t th hth).2.2, hrun]

/-! ## TRAP, BKPT and NOP -/

theorem exec_trap (a : Sel) (code : BitVec 8) (s : State) : exec (.trap a code) s =
    .next (s.issueLocal (.trap a code) fun th => .trap (0x120 + code.toNat) (rd32 s.site.rep th .a a)) := rfl

theorem exec_bkpt (code : BitVec 8) (s : State) : exec (.bkpt code) s =
    .next (s.issueLocal (.bkpt code) fun th => if th.view.dbgctl.getLsbD 0 then .trap 0x110 (code.setWidth 32) else .none) := rfl

theorem exec_nop (s : State) : exec .nop s = .next (s.issueLocal .nop fun _ => Eff.none) := rfl

/-- A trap that is all that a word does to the one member that executes it. -/
theorem State.issueLocal_effTrap {i : Instr} {f : Thread → Eff} {m : Nat × Nat} {t : Team} {th : Thread} {core cause : Nat} {einfo : Word}
    (h : s.readyOne i m t th) (hc : (s.ctx? s.site.ctx).map (·.core) = some core) (hf : f th = Eff.trap cause einfo)
    (ht : s.takes core th cause = true) : s.trapsTo (s.issueLocal i f) i m th core cause einfo 0 := by
  have := State.issueLocal_trap s i f h hc hf ht
  rwa [Thread.flags_or_zero] at this

/-- Settles O10: the two traps are the words' own effects on their one member; of NOP and a disabled BKPT every member goes on. -/
theorem userTraps : Obligations.UserTraps := by
  unfold Obligations.UserTraps
  refine ⟨fun s m t th core hc => ⟨fun a code h ht => ?_, fun code h hbke ht => ?_⟩, fun s i h hi => ?_⟩
  · exact ⟨_, exec_trap a code s, State.issueLocal_effTrap h hc rfl ht⟩
  · exact ⟨_, exec_bkpt code s, State.issueLocal_effTrap h hc (if_pos hbke) ht⟩
  · obtain rfl | ⟨code, rfl, hoff⟩ := hi
    · exact ⟨_, exec_nop s, State.issueLocal_none_leads h (fun _ _ _ _ _ => rfl) Nat.one_pos⟩
    · refine ⟨_, exec_bkpt code s, State.issueLocal_none_leads h (fun m hm t th hth => ?_) Nat.one_pos⟩
      rw [hoff m hm t th hth]
      rfl

end Sys2Proof.Machine
end

section
/-! SUPPORT. Words of one member whose result may meet conditions (02 R34, R37, R38) or which fault (03 R79): what a delivered result
leaves, and what a trap leaves. -/

namespace Sys2Proof.Machine

variable {s : State}

/-- The cause that a trapping result takes. -/
theorem FRes.trapsWith_cause {r : FRes} {fpctl : Word} {cause : Nat} (h : r.trapsWith fpctl cause) :
    r.trap.or (enabledTrap fpctl r.flags) = some cause := by
  obtain hr | ⟨hr, k, hk, rfl, hf, hg, hlow⟩ := h
  · rw [hr]; rfl
  · have hfind : (List.range 6).find? (fun k => fpctl.getLsbD k && r.flags.getLsbD k) = some k := by
      rw [List.find?_range_eq_some]
      refine ⟨by rw [hf, hg]; rfl, List.mem_range.mpr hk, fun j hj => ?_⟩
      rw [Bool.not_eq_true', ← Bool.not_eq_true, Bool.and_eq_true]
      exact hlow j hj
    rw [hr, enabledTrap, hfind]
    rfl

/-- A word whose result is turned into a trap: the conditions that it met join the flags. -/
theorem State.issueLocal_condTraps {i : Instr} {d : Dst} {words : Nat} {f : Thread → FRes} {m : Nat × Nat} {t : Team} {th : Thread}
    {core cause : Nat} (h : s.readyOne i m t th) (hc : (s.ctx? s.site.ctx).map (·.core) = some core)
    (hr : (f th).trapsWith th.view.fpctl cause) (ht : s.takes core th cause = true) :
    s.trapsTo (s.issueLocal i fun th => resCond s.site.rep th s.site.w0 d words (f th)) i m
      { th with flags := th.flags ||| (f th).flags } core cause s.site.w0 0 := by
  refine State.issueLocal_trap s i _ h hc ?_ ht
  unfold resCond deliver
  rw [FRes.trapsWith_cause hr]
  exact ite_self _

@[simp] theorem Thread.set_run (th : Thread) (r : Nat) (v : Word) : (th.set r v).run = th.run := by
  unfold Thread.set
  split <;> rfl

@[simp] theorem Thread.gotResult_run (th : Thread) (st : Site) (d : Dst) (words : Nat) (r : FRes) : (th.gotResult st d words r).run = th.run := by
  unfold Thread.gotResult Thread.gotPair Thread.gotWord
  dsimp only
  split_ifs <;> simp only [Thread.set_run]

@[simp] theorem State.thread?_clamped (s : State) (n : Nat) (k : Key) : (s.clamped n).thread? k = s.thread? k :=
  State.thread?_modCtx_of_teams s s.site.ctx (f := fun c => { c with satcount := satAdd c.satcount n }) (fun _ => rfl) k

@[simp] theorem Thread.gotWord_flags (th : Thread) (st : Site) (d : Dst) (v : Word) : (th.gotWord st d v).flags = th.flags := by
  unfold Thread.gotWord
  dsimp only
  split_ifs <;> simp only [Thread.set_flags]

theorem Thread.gotWord_or_zero (th : Thread) (st : Site) (d : Dst) (v : Word) :
    { th.gotWord st d v with flags := th.flags ||| 0 } = th.gotWord st d v := by
  rw [← Thread.gotWord_flags th st d v]
  exact Thread.flags_or_zero _

theorem Thread.gotResult_one (th : Thread) (st : Site) (d : Dst) (r : FRes) :
    th.gotResult st d 1 r = { th.gotWord st d (BitVec.ofNat 32 r.bits) with flags := th.flags ||| r.flags } := by
  rw [← Thread.gotWord_flags th st d (BitVec.ofNat 32 r.bits)]
  rfl

/-- A word whose result is delivered to the one member that executes it. -/
theorem State.issueLocal_condLeads {i : Instr} {d : Dst} {words : Nat} {f : Thread → FRes} {m : Nat × Nat} {t : Team} {th : Thread}
    (h : s.readyOne i m t th) (hr : (f th).delivered th.view.fpctl = true) (hlen : 0 < (encode i).length) :
    ((s.modThread (s.key m) (·.gotResult s.site d words (f th))).clamped (f th).sat).leads i
      (s.issueLocal i fun th => resCond s.site.rep th s.site.w0 d words (f th)) := by
  obtain ⟨hk, hrun, -, -⟩ := State.readyOne_thread h
  obtain ⟨happ, hout, hsat⟩ := Thread.apply_resCond th s.site d words (f th) hr
  have hmod : s.modThread (s.key m) (·.apply s.site (resCond s.site.rep th s.site.w0 d words (f th))) =
      s.modThread (s.key m) (·.gotResult s.site d words (f th)) := State.modThread_congr s (s.key m) fun y hy => by
    obtain rfl : th = y := Option.some.inj (hk.symm.trans hy)
    exact happ
  rw [State.issueLocal_one s i _ h, hmod, hout, hsat]
  refine State.retire_next_leads (th := th.gotResult s.site d words (f th)) (State.ready_elim h.1).1 h.2.1 ?_ ?_ hlen
  · refine (State.thread?_clamped _ _ _).trans ((State.thread?_modThread_self s (s.key m) _).trans ?_)
    rw [hk, Option.map_some]
  · rw [Thread.gotResult_run, hrun]
    exact Run.noConfusion

/-- A word that raises a trap of 03 R79 for the one member that executes it takes that trap, and nothing else is written. -/
theorem State.issueLocal_fault {i : Instr} {m : Nat × Nat} {t : Team} {th : Thread} {core q : Nat} (f : Thread → Eff)
    (hs : s.sited = true) (hms : s.site.members = [m]) (hm : s.member? m = some (t, th)) (hrun : th.run = .issuing)
    (hc : (s.ctx? s.site.ctx).map (·.core) = some core) (hw : wordFault i s.site th t.n = some q) (ht : s.takes core th q = true) :
    s.trapsTo (s.issueLocal i f) i m th core q s.site.w0 0 := by
  have hst : s.stalls i = false := by simp [State.stalls, State.faultOf, hms, hm, hw]
  have hissue : s.issueLocal i f =
      ((s.modThread (s.key m) (·.apply s.site (.trap q s.site.w0))).clamped 0).retire i [(m, .trap q s.site.w0 0)] := by
    unfold State.issueLocal
    simp only [hst, Bool.false_eq_true, if_false, hms, List.filterMap_cons, List.filterMap_nil, hm, Option.map_some, effOf, hw]
    rfl
  have happ : s.modThread (s.key m) (·.apply s.site (.trap q s.site.w0)) = s :=
    State.modThread_of_eq s _ fun th => Thread.flags_or_zero th
  rw [hissue, happ, State.clamped_zero]
  exact State.retire_trap i m (State.groupHere_of_sited hs).1 (State.member?_eq s m t th hm).2.2 hc hrun q s.site.w0 0 ht

end Sys2Proof.Machine
end

section
/-! SUPPORT. Packed integers that saturate (02 R28, R39, 04 R102): a register of elements as the number that they are the digits of,
what narrowing every element gives, and what PADDS and PSUBS deliver. -/

namespace Sys2Proof.Machine

/-! ## Registers of elements -/

theorem packWidth_eq_elemWidth (w : BitVec 2) : packWidth w = elemWidth w := by
  simp [packWidth, elemWidth]

theorem element_eq_elemInt (u : Bool) (w : Nat) (x : Word) (i : Nat) : element u w x i = elemInt u w x i := by
  unfold element elemInt sint elem
  cases u <;> simp

theorem wrap_lt (w : Nat) (v : Int) : wrap w v < 2 ^ w := by
  have hpos : (0 : Int) < (2 ^ w : Nat) := by positivity
  have := Int.emod_lt_of_pos v hpos
  have := Int.emod_nonneg v hpos.ne'
  unfold wrap
  omega

theorem wrap_cast (w : Nat) (v : Int) : (wrap w v : Int) = v % 2 ^ w := by
  unfold wrap
  rw [Int.toNat_of_nonneg (Int.emod_nonneg v (by positivity)), Nat.cast_pow, Nat.cast_ofNat]

/-- The number whose digits to the base 2^w are the elements' patterns. -/
def elementsNat (w n : Nat) (f : Nat → Int) : Nat := Nat.ofDigits (2 ^ w) ((List.range n).map fun i => wrap w (f i))

theorem elementsNat_succ (w n : Nat) (f : Nat → Int) :
    elementsNat w (n + 1) f = 2 ^ (w * n) * wrap w (f n) + elementsNat w n f := by
  simp [elementsNat, List.range_succ, Nat.ofDigits_append, pow_mul, Nat.add_comm]

theorem elementsNat_lt (w n : Nat) (f : Nat → Int) : elementsNat w n f < 2 ^ (w * n) := by
  induction n with
  | zero => simp [elementsNat]
  | succ n ih =>
    have h : 2 ^ (w * n) * (wrap w (f n) + 1) ≤ 2 ^ (w * n) * 2 ^ w := Nat.mul_le_mul_left _ (wrap_lt w (f n))
    rw [← pow_add] at h
    rw [elementsNat_succ, Nat.mul_succ w n]
    rw [Nat.mul_succ] at h
    omega

/-- Elements joined by OR, each at its place, are those digits: no two of them overlap. -/
theorem foldl_elements {w n : Nat} (f : Nat → Int) (h : w * n ≤ 32) :
    (List.range n).foldl (fun acc i => acc ||| BitVec.ofInt 32 (f i % 2 ^ w * 2 ^ (w * i))) (0 : Word) =
      BitVec.ofNat 32 (elementsNat w n f) := by
  induction n with
  | zero => rfl
  | succ n ih =>
    have hn : w * n ≤ 32 := (Nat.mul_le_mul_left w (Nat.le_succ n)).trans h
    have hcast : f n % 2 ^ w * 2 ^ (w * n) = ((2 ^ (w * n) * wrap w (f n) : Nat) : Int) := by
      push_cast [wrap_cast]
      ring
    rw [List.range_succ, List.foldl_append, ih hn, List.foldl_cons, List.foldl_nil, hcast, BitVec.ofInt_natCast, ← BitVec.ofNat_or,
      elementsNat_succ, Nat.two_pow_add_eq_or_of_lt (elementsNat_lt w n f), Nat.or_comm]

theorem ofElements_eq (w : Nat) (f : Nat → Int) : ofElements w f = BitVec.ofNat 32 (elementsNat w (32 / w) f) :=
  foldl_elements f (Nat.mul_div_le 32 w)

/-! ## Narrowing (R39) -/

/-- The value nearest to `v` in a range. -/
def nearestIn (lo hi v : Int) : Int := if v < lo then lo else if hi < v then hi else v

variable {lo hi v : Int} {out : Nat} {ovf : BitVec 2} {trap : Nat}

theorem narrow_of_inside (h : ¬(v < lo ∨ hi < v)) : narrow lo hi out ovf trap v = .ok (wrap out v) :=
  if_pos (by omega)

theorem narrow_of_trap (h : v < lo ∨ hi < v) (ho : ovf = 3) : narrow lo hi out ovf trap v = ⟨0, 0x30#6, 0, some trap⟩ := by
  rw [narrow, if_neg (by omega), if_pos (by simp [ho])]
  rfl

theorem narrow_of_clamp (h : v < lo ∨ hi < v) (ho : ovf ≠ 3) :
    narrow lo hi out ovf trap v = ⟨wrap out (nearestIn lo hi v), 0x30#6, 1, none⟩ := by
  have hv : (if v < lo then lo else hi) = nearestIn lo hi v := by
    unfold nearestIn
    split_ifs <;> omega
  rw [narrow, if_neg (by omega), if_neg (by simpa using ho), hv]
  rfl

/-- What narrowing delivers, part by part. -/
theorem narrow_flags : (narrow lo hi out ovf trap v).flags = if v < lo ∨ hi < v then 0x30#6 else 0 := by
  split_ifs with h
  · by_cases ho : ovf = 3
    · rw [narrow_of_trap h ho]
    · rw [narrow_of_clamp h ho]
  · rw [narrow_of_inside h]; rfl

theorem narrow_sat : (narrow lo hi out ovf trap v).sat = if ovf = 3 then 0 else if v < lo ∨ hi < v then 1 else 0 := by
  split_ifs with ho h
  · by_cases h : v < lo ∨ hi < v
    · rw [narrow_of_trap h ho]
    · rw [narrow_of_inside h]; rfl
  · rw [narrow_of_clamp h ho]
  · rw [narrow_of_inside h]; rfl

theorem narrow_trap : (narrow lo hi out ovf trap v).trap = if ovf = 3 ∧ (v < lo ∨ hi < v) then some trap else none := by
  split_ifs with h
  · rw [narrow_of_trap h.2 h.1]
  · by_cases hv : v < lo ∨ hi < v
    · rw [narrow_of_clamp hv fun ho => h ⟨ho, hv⟩]
    · rw [narrow_of_inside hv]; rfl

theorem narrow_bits (h : ovf = 3 → ¬(v < lo ∨ hi < v)) : (narrow lo hi out ovf trap v).bits = wrap out (nearestIn lo hi v) := by
  by_cases hv : v < lo ∨ hi < v
  · rw [narrow_of_clamp hv fun ho => h ho hv]
  · rw [narrow_of_inside hv, nearestIn, if_neg (by omega), if_neg (by omega)]; rfl

/-! ## Narrowing every element (R28, R102) -/

/-- How many of the first `n` numbers lie outside a range. -/
def outsideCount (lo hi : Int) (n : Nat) (f : Nat → Int) : Nat := ((List.range n).filter fun k => decide (f k < lo ∨ hi < f k)).length

theorem outsideCount_ne_zero_iff {n : Nat} {f : Nat → Int} :
    outsideCount lo hi n f ≠ 0 ↔ ∃ k ∈ List.range n, f k < lo ∨ hi < f k := by
  simp only [outsideCount, Ne, List.length_eq_zero_iff, List.filter_eq_nil_iff, decide_eq_true_eq, not_forall, not_not, exists_prop]

theorem inside_of_outsideCount {n k : Nat} {f : Nat → Int} (h : outsideCount lo hi n f = 0) (hk : k ∈ List.range n) :
    ¬(f k < lo ∨ hi < f k) :=
  fun hout => outsideCount_ne_zero_iff.mpr ⟨k, hk, hout⟩ h

theorem outsideCount_eq_sum (n : Nat) (f : Nat → Int) :
    outsideCount lo hi n f = ((List.range n).map fun k => if f k < lo ∨ hi < f k then 1 else 0).sum := by
  unfold outsideCount
  induction List.range n with
  | nil => rfl
  | cons k r ih =>
    by_cases hk : f k < lo ∨ hi < f k
    · rw [List.filter_cons_of_pos (by simpa using hk), List.length_cons, ih, List.map_cons, List.sum_cons, if_pos hk, Nat.add_comm]
    · rw [List.filter_cons_of_neg (by simpa using hk), ih, List.map_cons, List.sum_cons, if_neg hk, Nat.zero_add]

/-- Flags of which each is `c` or none join to `c` where one of them is. -/
theorem foldl_or_flags (g : Nat → BitVec 6) (c : BitVec 6) (p : Nat → Prop) [DecidablePred p] (l : List Nat) (acc : BitVec 6)
    (hg : ∀ k, g k = if p k then c else 0) :
    l.foldl (fun x k => x ||| g k) acc = if ∃ k ∈ l, p k then acc ||| c else acc := by
  induction l generalizing acc with
  | nil => simp
  | cons k r ih =>
    rw [List.foldl_cons, ih, hg]
    simp only [List.exists_mem_cons_iff]
    by_cases hp : p k
    · simp only [hp, if_true, true_or, BitVec.or_assoc, BitVec.or_self, ite_self]
    · simp only [hp, if_false, false_or, show acc ||| 0 = acc from BitVec.or_zero]

variable {w n : Nat} {f : Nat → Int}

theorem combine_narrow_flags : (combine w ((List.range n).map fun k => narrow lo hi w ovf trap (f k))).flags =
    if outsideCount lo hi n f = 0 then 0 else 0x30#6 := by
  have h := foldl_or_flags (fun k => (narrow lo hi w ovf trap (f k)).flags) 0x30#6 (fun k => f k < lo ∨ hi < f k)
    (List.range n) 0 fun k => narrow_flags
  simp only [combine, List.foldl_map]
  rw [h]
  by_cases h0 : outsideCount lo hi n f = 0
  · rw [if_pos h0, if_neg fun ⟨k, hk, hout⟩ => inside_of_outsideCount h0 hk hout]
  · rw [if_neg h0, if_pos (outsideCount_ne_zero_iff.mp h0)]
    rfl

theorem combine_narrow_sat : (combine w ((List.range n).map fun k => narrow lo hi w ovf trap (f k))).sat =
    if ovf = 3 then 0 else outsideCount lo hi n f := by
  simp only [combine, List.map_map, Function.comp_def, narrow_sat]
  split_ifs with ho
  · simp
  · exact (outsideCount_eq_sum n f).symm

theorem combine_narrow_trap : (combine w ((List.range n).map fun k => narrow lo hi w ovf trap (f k))).trap =
    if ovf = 3 ∧ outsideCount lo hi n f ≠ 0 then some trap else none := by
  have hf : ∀ k ∈ List.range n, (narrow lo hi w ovf trap (f k)).trap = if ovf = 3 ∧ (f k < lo ∨ hi < f k) then some trap else none :=
    fun k _ => narrow_trap
  simp only [combine, List.findSome?_map]
  split_ifs with h
  · obtain ⟨ho, hne⟩ := h
    obtain ⟨k, hk, hout⟩ := outsideCount_ne_zero_iff.mp hne
    exact findSome?_ite_const hf ⟨k, hk, ho, hout⟩
  · rw [List.findSome?_eq_none_iff]
    intro k hk
    rw [Function.comp_apply, hf k hk, if_neg]
    exact fun ⟨ho, hout⟩ => h ⟨ho, outsideCount_ne_zero_iff.mpr ⟨k, hk, hout⟩⟩

theorem combine_narrow_bits (h : ovf = 3 → outsideCount lo hi n f = 0) :
    (combine w ((List.range n).map fun k => narrow lo hi w ovf trap (f k))).bits = elementsNat w n fun k => nearestIn lo hi (f k) := by
  have hb : ∀ k ∈ List.range n, (narrow lo hi w ovf trap (f k)).bits % 2 ^ w = wrap w (nearestIn lo hi (f k)) := fun k hk => by
    rw [narrow_bits fun ho => inside_of_outsideCount (h ho) hk, Nat.mod_eq_of_lt (wrap_lt w _)]
  rw [elementsNat, ← List.map_congr_left hb, Nat.ofDigits_eq_foldr]
  simp [combine, List.foldr_map]

/-! ## PADDS and PSUBS -/

/-- PADDS, or PSUBS where `sub`. -/
def packedWord (sub : Bool) (d : Dst) (a b : Sel) (w ovf : BitVec 2) (u : Bool) : Instr :=
  if sub then .psubs d a b w ovf u else .padds d a b w ovf u

/-- The exact sum or difference of element `k` of two registers. -/
def elementExact (sub u : Bool) (n : Nat) (x y : Word) (k : Nat) : Int :=
  if sub then element u n x k - element u n y k else element u n x k + element u n y k

/-- What PADDS and PSUBS deliver of two registers. -/
def packedResult (sub u : Bool) (w ovf : BitVec 2) (x y : Word) : FRes :=
  combine (packWidth w) ((List.range (32 / packWidth w)).map fun k =>
    narrow (intLo u (packWidth w)) (intHi u (packWidth w)) (packWidth w) ovf 0x080 (elementExact sub u (packWidth w) x y k))

theorem exec_packedWord (sub : Bool) (d : Dst) (a b : Sel) (w ovf : BitVec 2) (u : Bool) (s : State) :
    exec (packedWord sub d a b w ovf u) s = .next (s.issueLocal (packedWord sub d a b w ovf u) fun th =>
      resCond s.site.rep th s.site.w0 d 1 (packedResult sub u w ovf (rd32 s.site.rep th .a a) (rd32 s.site.rep th .b b))) := by
  unfold packedResult elementExact
  simp only [element_eq_elemInt, packWidth_eq_elemWidth]
  cases sub <;> rfl

theorem encode_packedWord_length (sub : Bool) (d : Dst) (a b : Sel) (w ovf : BitVec 2) (u : Bool) :
    (encode (packedWord sub d a b w ovf u)).length = 2 := by
  cases sub <;> rfl

/-- An OVF that PADDS and PSUBS do not accept takes ILLEGAL qualifier 1 (R39, R102). -/
theorem wordFault_packedWord {sub : Bool} {d : Dst} {a b : Sel} {w ovf : BitVec 2} {u : Bool} {st : Site} (th : Thread) (n : Nat)
    (ho : ovf = 1 ∨ ovf = 2) (hcls : st.cls = .alu) (hwi : st.wi + 1 ≤ st.count) :
    wordFault (packedWord sub d a b w ovf u) st th n = some 0x001 := by
  have hout : outsideClass (packedWord sub d a b w ovf u) st.cls st.count st.wi 2 = false := by
    rw [hcls]; cases sub <;> rfl
  have hlast : mustBeLast (packedWord sub d a b w ovf u) = false := by cases sub <;> rfl
  have hbad : encodingFault (packedWord sub d a b w ovf u) = some 1 := by
    have hovf : badOvf ovf = true := by rcases ho with rfl | rfl <;> rfl
    cases sub <;> simp [packedWord, encodingFault, unusedSet, badValue, hovf]
  have hq : wordQual (packedWord sub d a b w ovf u) st = some 1 := by
    unfold wordQual insWords
    simp only [encode_packedWord_length, hout, hlast, hbad]
    rw [if_neg Bool.false_ne_true, if_neg]
    · simp only [Bool.false_and, Bool.false_or, decide_eq_true_eq]
      omega
  rw [wordFault, hq]

theorem intLo_eq (u : Bool) (w : Nat) : intLo u w = if u then 0 else -(2 ^ (w - 1)) := by
  unfold intLo
  split_ifs
  · rfl
  · push_cast; rfl

theorem intHi_eq (u : Bool) (w : Nat) : intHi u w = if u then 2 ^ w - 1 else 2 ^ (w - 1) - 1 := by
  unfold intHi
  push_cast
  rfl

/-- How many elements of two registers PADDS or PSUBS clamps. -/
def packedClamps (sub u : Bool) (w : BitVec 2) (x y : Word) : Nat :=
  outsideCount (intLo u (packWidth w)) (intHi u (packWidth w)) (32 / packWidth w) (elementExact sub u (packWidth w) x y)

/-- The register of the narrowed sums or differences. -/
def packedValue (sub u : Bool) (w : BitVec 2) (x y : Word) : Word :=
  ofElements (packWidth w) fun k => nearestIn (intLo u (packWidth w)) (intHi u (packWidth w)) (elementExact sub u (packWidth w) x y k)

section
variable {sub u : Bool} {w ovf : BitVec 2} {x y : Word}

theorem packedResult_flags : (packedResult sub u w ovf x y).flags = if packedClamps sub u w x y = 0 then 0 else 0x30#6 :=
  combine_narrow_flags

theorem packedResult_sat : (packedResult sub u w ovf x y).sat = if ovf = 3 then 0 else packedClamps sub u w x y :=
  combine_narrow_sat

theorem packedResult_trap :
    (packedResult sub u w ovf x y).trap = if ovf = 3 ∧ packedClamps sub u w x y ≠ 0 then some 0x080 else none :=
  combine_narrow_trap

theorem packedResult_bits (h : ovf = 3 → packedClamps sub u w x y = 0) :
    BitVec.ofNat 32 (packedResult sub u w ovf x y).bits = packedValue sub u w x y := by
  rw [packedValue, ofElements_eq]
  exact congrArg _ (combine_narrow_bits h)

/-- A clamped result of which IX or SAT is enabled in FPCTL traps, with IX's cause where both are (R37). -/
theorem packedResult_trapsWith {fpctl : Word} (hc : packedClamps sub u w x y ≠ 0) (ho : ovf ≠ 3)
    (he : fpctl.setWidth 6 &&& 0x30#6 ≠ 0) :
    (packedResult sub u w ovf x y).trapsWith fpctl (if (fpctl.setWidth 6 &&& 0x30#6).getLsbD 4 then 0x074 else 0x075) := by
  have hbit : ∀ k < 6, (fpctl.setWidth 6 &&& 0x30#6).getLsbD k = (fpctl.getLsbD k && (0x30#6).getLsbD k) := by
    intro k hk
    simp [hk]
  have hlow : ∀ j < 4, (0x30#6).getLsbD j = false := by decide
  refine .inr ⟨by rw [packedResult_trap, if_neg fun h => ho h.1], ?_⟩
  rw [packedResult_flags, if_neg hc, hbit 4 (by decide)]
  by_cases h4 : fpctl.getLsbD 4 = true
  · exact ⟨4, by decide, if_pos (by rw [h4]; rfl), h4, rfl, fun j hj ⟨_, h⟩ => Bool.false_ne_true ((hlow j hj).symm.trans h)⟩
  · rw [Bool.not_eq_true] at h4
    have h5 : fpctl.getLsbD 5 = true := by
      by_contra h5
      refine he (BitVec.eq_of_getLsbD_eq fun k hk => ?_)
      rw [hbit k hk, show (0 : BitVec 6).getLsbD k = false from BitVec.getLsbD_zero]
      obtain h | rfl | rfl : k < 4 ∨ k = 4 ∨ k = 5 := by omega
      · rw [hlow k h, Bool.and_false]
      · rw [h4, Bool.false_and]
      · rw [Bool.eq_false_of_not_eq_true h5, Bool.false_and]
    refine ⟨5, by decide, if_neg (by rw [h4]; exact Bool.false_ne_true), h5, rfl, fun j hj ⟨hf, h⟩ => ?_⟩
    obtain h' | rfl : j < 4 ∨ j = 4 := by omega
    · exact Bool.false_ne_true ((hlow j h').symm.trans h)
    · exact Bool.false_ne_true (h4.symm.trans hf)

/-- A result without a clamp is delivered whatever is enabled; a clamped one where no trap is asked for. -/
theorem packedResult_delivered {fpctl : Word}
    (h : packedClamps sub u w x y = 0 ∨ ovf ≠ 3 ∧ fpctl.setWidth 6 &&& 0x30#6 = 0) :
    (packedResult sub u w ovf x y).delivered fpctl = true := by
  rw [FRes.delivered, packedResult_trap, packedResult_flags, if_neg fun h' => h.elim h'.2 fun h => h.1 h'.1]
  split_ifs with h0
  · simp
  · simpa using (h.resolve_left h0).2
end

/-- PADDS and PSUBS of one member to which the result is delivered. -/
theorem State.packedWord_leads {s : State} {sub u : Bool} {d : Dst} {a b : Sel} {w ovf : BitVec 2} {m : Nat × Nat} {t : Team} {th : Thread}
    (h : s.readyOne (packedWord sub d a b w ovf u) m t th) :
    let x := rd32 s.site.rep th .a a
    let y := rd32 s.site.rep th .b b
    packedClamps sub u w x y = 0 ∨ ovf ≠ 3 ∧ th.view.fpctl.setWidth 6 &&& 0x30#6 = 0 →
    ∃ v, exec (packedWord sub d a b w ovf u) s = .next v ∧
      ((s.modThread (s.key m) fun z => { z.gotWord s.site d (packedValue sub u w x y) with
        flags := z.flags ||| if packedClamps sub u w x y = 0 then 0 else 0x30#6 }).clamped (packedClamps sub u w x y)).leads
      (packedWord sub d a b w ovf u) v := by
  intro x y hd
  refine ⟨_, exec_packedWord sub d a b w ovf u s, ?_⟩
  have hlen : 0 < (encode (packedWord sub d a b w ovf u)).length := by rw [encode_packedWord_length]; decide
  have hlead := State.issueLocal_condLeads (d := d) (words := 1)
    (f := fun th => packedResult sub u w ovf (rd32 s.site.rep th .a a) (rd32 s.site.rep th .b b)) h (packedResult_delivered hd) hlen
  have hsat : (packedResult sub u w ovf x y).sat = packedClamps sub u w x y := by
    rw [packedResult_sat]
    split_ifs with ho
    · exact (hd.resolve_right fun h => h.1 ho).symm
    · rfl
  simp only [Thread.gotResult_one] at hlead
  rwa [packedResult_bits fun ho => hd.resolve_right fun h => h.1 ho, packedResult_flags, hsat] at hlead

/-- PADDS and PSUBS of one member for which a clamp is turned into a trap. -/
theorem State.packedWord_traps {s : State} {sub u : Bool} {d : Dst} {a b : Sel} {w ovf : BitVec 2} {m : Nat × Nat} {t : Team} {th : Thread}
    {core cause : Nat} (h : s.readyOne (packedWord sub d a b w ovf u) m t th) (hc : (s.ctx? s.site.ctx).map (·.core) = some core) :
    let x := rd32 s.site.rep th .a a
    let y := rd32 s.site.rep th .b b
    packedClamps sub u w x y ≠ 0 → (packedResult sub u w ovf x y).trapsWith th.view.fpctl cause → s.takes core th cause = true →
    ∃ v, exec (packedWord sub d a b w ovf u) s = .next v ∧
      s.trapsTo v (packedWord sub d a b w ovf u) m { th with flags := th.flags ||| 0x30#6 } core cause s.site.w0 0 := by
  intro x y hne hr ht
  have htrap := State.issueLocal_condTraps (d := d) (words := 1)
    (f := fun th => packedResult sub u w ovf (rd32 s.site.rep th .a a) (rd32 s.site.rep th .b b)) h hc hr ht
  rw [packedResult_flags, if_neg hne] at htrap
  exact ⟨_, exec_packedWord sub d a b w ovf u s, htrap⟩

/-- Settles O29: the result's parts by `packedResult_flags` and its like, its delivery by `State.packedWord_leads`, its traps by
`State.packedWord_traps`, and an OVF that is not accepted by `wordFault_packedWord`. -/
theorem packedSaturates : Obligations.PackedSaturates := by
  unfold Obligations.PackedSaturates
  intro s sub d a b w ovf u m t th core i n lo hi exact clamps value enabled flagged hc
  let x := rd32 s.site.rep th .a a
  let y := rd32 s.site.rep th .b b
  have hlo : intLo u n = lo := intLo_eq u n
  have hhi : intHi u n = hi := intHi_eq u n
  have hclamps : packedClamps sub u w x y = clamps := by
    unfold packedClamps
    rw [hlo, hhi]
    rfl
  have hvalue : packedValue sub u w x y = value := by
    unfold packedValue
    rw [hlo, hhi]
    rfl
  refine ⟨fun h => ⟨fun h0 => ?_, fun hne ho he => ?_, fun hne ho ht => ?_, fun hne ho he cause hcause ht => ?_⟩,
    fun ho hs hms hm hrun hcls hwi ht => ?_⟩
  · have hlead := State.packedWord_leads h (.inl (hclamps.trans h0))
    rw [hvalue, hclamps, h0, if_pos rfl, State.clamped_zero] at hlead
    simp only [Thread.gotWord_or_zero] at hlead
    exact hlead
  · have hlead := State.packedWord_leads h (.inr ⟨ho, he⟩)
    rwa [hvalue, hclamps, if_neg hne] at hlead
  · refine State.packedWord_traps h hc (hclamps ▸ hne) (.inl ?_) ht
    rw [packedResult_trap, if_pos ⟨ho, hclamps ▸ hne⟩]
  · exact State.packedWord_traps h hc (hclamps ▸ hne) (hcause ▸ packedResult_trapsWith (hclamps ▸ hne) ho he) ht
  · exact ⟨_, exec_packedWord sub d a b w ovf u s,
      State.issueLocal_fault _ hs hms hm hrun hc (wordFault_packedWord th t.n ho hcls hwi) ht⟩

end Sys2Proof.Machine
end
